-- ==== Sys2Proof/Word.lean ====
section
/-! DEFINITION. The machine's word types (`00_scope.md` R13, R14).
A value of N bits is a `BitVec N`; bit 0 is the least significant bit. -/

namespace Sys2Proof

/-- One byte of storage. -/
abbrev Byte := BitVec 8

/-- A 16-bit value: an immediate field or a halfword in flight. -/
abbrev Half := BitVec 16

/-- A 32-bit value: an instruction word, a physical address, a 32-bit register. -/
abbrev Word := BitVec 32

/-- A 64-bit value: a general register, the program counter, a virtual address. -/
abbrev DWord := BitVec 64

/-- The number of a general, floating-point or coprocessor-0 register (`30_encoding.md` R311). -/
abbrev RegIdx := Fin 32

end Sys2Proof
end

