-- ==== Sys2Proof/Config.lean ====
section
/-! DEFINITION. What an implementation fixes: the named parameters of `00_scope.md` R12, and the free values.

The parameters make up the record `Config`; `State` carries one (`State.cfg`), no step changes it, and a statement about every
state therefore holds for every value of every such parameter (log entry 3). A parameter that is a function with a default is
the list of the operands at which it differs from the default (log entries 5, 8 and 27).
The parameters that are functions with no stated default, and what the external collaborators do, are opaque constants applied
to their operands and, for the collaborators, to their private state `State.collabState` (log entries 4 and 6). -/

namespace Sys2Proof

/-- What an access is for: `20_memory.md` R218. -/
inductive AccessKind where
  | fetch
  | load
  | store
deriving DecidableEq, Repr

/-- `RDRAM_SIZE` is 4 MiB or 8 MiB (R12, D10). -/
inductive RdramSize where
  | mib4
  | mib8
deriving DecidableEq, Repr

/-- `DMA_COPY_AT`: when the bytes of a DMA move (R12, D59). -/
inductive CopyAt where
  | start
  | completion
deriving DecidableEq, Repr

/-- The cycle costs of the caches and of uncached accesses (R12, D48); `uncached` is a function of the width in bytes. -/
structure CacheCosts where
  icacheHit       : Nat
  icacheMiss      : Nat
  dcacheHit       : Nat
  dcacheMiss      : Nat
  dcacheWriteback : Nat
  uncached1       : Nat
  uncached2       : Nat
  uncached4       : Nat
  uncached8       : Nat
deriving DecidableEq, Repr

/-- One value of `EXTRA_CYCLES(w)`, of the instruction word `w` (R500), that is not the table's (R12, R1040, log entry 27). -/
structure ExtraCycles where
  word   : Word
  cycles : Nat
deriving DecidableEq, Repr

/-- One piece of the predicate `BUS_ERROR(pa, kind)`: it is true for this kind of access at `first ≤ pa ≤ last` (log entry 5). -/
structure BusErrorRange where
  first : Nat
  last  : Nat
  kind  : AccessKind
deriving DecidableEq, Repr

/-- One value of `OPEN_BUS(pa, width)` that is not 0 (log entry 5). -/
structure OpenBusValue where
  pa    : Nat
  width : Nat
  value : DWord
deriving DecidableEq, Repr

/-! ### The numerics record `FP` and the predicate `FP_UNIMPL` (R12, `45_fpu.md` R702, R790) -/

/-- The formats of operands and results (`30_encoding.md` R305). -/
inductive Machine.FpFmt where
  | s
  | d
  | w
  | l
deriving DecidableEq, Repr

/-- The rounding modes (`10_state.md` R138). -/
inductive Machine.RoundMode where
  | nearest
  | zero
  | up
  | down
deriving DecidableEq, Repr

/-- The operations of `FP` but for `cmp` (R702). A conversion names its result's format and, as R740 to R751 do, its rounding mode. -/
inductive Machine.FpOp where
  | add
  | sub
  | mul
  | div
  | sqrt
  | abs
  | neg
  | cvt (dst : Machine.FpFmt) (rm : Machine.RoundMode)
deriving DecidableEq, Repr

/-- A set of the IEEE flags V, Z, O, U, I (R702). -/
structure Machine.FpFlags where
  v : Bool
  z : Bool
  o : Bool
  u : Bool
  i : Bool
deriving DecidableEq, Repr

/-- What `FP.cmp` answers: exactly one of less, equal, unordered, or none of them (R702, R760). -/
inductive Machine.FpOrder where
  | lt
  | eq
  | gt
  | un
deriving DecidableEq, Repr

/-- The operands of `FP.op(operands, rm)` and `FP_UNIMPL(op, fmt, operands, rm)`; an operation of one operand has `b` 0. -/
structure FpOperands where
  op  : Machine.FpOp
  fmt : Machine.FpFmt
  a   : DWord
  b   : DWord
  rm  : Machine.RoundMode
deriving DecidableEq, Repr

/-- One answer of `FP` that is not the default's (log entry 8). -/
structure FpEntry where
  operands : FpOperands
  value    : DWord
  flags    : Machine.FpFlags
deriving DecidableEq, Repr

/-- One answer of `FP.cmp` that is not the default's (log entry 8). -/
structure FpCmpEntry where
  fmt   : Machine.FpFmt
  a     : DWord
  b     : DWord
  order : Machine.FpOrder
deriving DecidableEq, Repr

/-- One answer of `FP_UNIMPL` that is not the default's (log entry 8). -/
structure FpUnimplEntry where
  operands      : FpOperands
  unimplemented : Bool
deriving DecidableEq, Repr

/-- The parameters of R12, each as plain data. -/
structure Config where
  rdramSize           : RdramSize
  addr32Strict        : Bool
  openBus             : List OpenBusValue
  busErrors           : List BusErrorRange
  watchEnabled        : Bool
  costs               : CacheCosts
  /-- Where `EXTRA_CYCLES` differs from the table of R1040. -/
  extra               : List ExtraCycles
  cpuQuota            : Nat
  /-- Whether an RSP collaborator is attached that runs in each iteration of the run loop (R12: the default is none). -/
  rspAttached         : Bool
  dmaCopyAt           : CopyAt
  aiIrqAtStart        : Bool
  deviceMirroring     : Bool
  cyclesPerHalfline   : Nat
  miVersion           : Word
  fcr0                : Word
  /-- Where `FP` differs from IEEE-754 binary32 and binary64. -/
  fp                  : List FpEntry
  fpCmp               : List FpCmpEntry
  /-- Where `FP_UNIMPL` differs from R790. -/
  fpUnimpl            : List FpUnimplEntry
deriving DecidableEq, Repr

/-- The costs that R12 leaves unspecified, all 0 as in the conventions of `95_test_vectors.md`. DESIGN CHOICE, unsafe (log entry 3). -/
def CacheCosts.zero : CacheCosts where
  icacheHit := 0
  icacheMiss := 0
  dcacheHit := 0
  dcacheMiss := 0
  dcacheWriteback := 0
  uncached1 := 0
  uncached2 := 0
  uncached4 := 0
  uncached8 := 0

/-- The defaults of R12; the quota, which R12 leaves unspecified, is a DESIGN CHOICE (log entry 3). -/
def Config.default : Config where
  rdramSize := .mib4
  addr32Strict := false
  openBus := []
  busErrors := []
  watchEnabled := true
  costs := CacheCosts.zero
  extra := []
  cpuQuota := 2976
  rspAttached := false
  dmaCopyAt := .start
  aiIrqAtStart := false
  deviceMirroring := false
  cyclesPerHalfline := 2976
  miVersion := 0x02020102#32
  fcr0 := 0x00000A00#32
  fp := []
  fpCmp := []
  fpUnimpl := []

/-- What R12 and R900 ask of the numbers: a positive quota, and a positive period that a signed 64-bit event time holds (log entries 14
and 15). -/
def Config.wf (c : Config) : Bool :=
  decide (0 < c.cpuQuota) && decide (0 < c.cyclesPerHalfline) && decide (c.cyclesPerHalfline < 2 ^ 62)

/-- The external collaborators reached by 32-bit accesses (`00_scope.md` R8, `60_exceptions.md` R970). -/
inductive Collaborator where
  | rsp
  | rdp
  | rdramRegs
deriving DecidableEq, Repr

/-- The calls of the collaborators' interfaces (D68, R904, R907, R970). -/
inductive CollabCall where
  | read (c : Collaborator) (pa : Word)
  | write (c : Collaborator) (pa v : Word)
  | cartRead (pa : Word)
  | cartWrite (pa : Word) (b : Byte)
  /-- `RSP.run(cycles)`. -/
  | rspRun (cycles : Int)
  /-- The callback of an event kind that a collaborator owns. -/
  | fire (n : Nat)
deriving DecidableEq, Repr

/-- What a collaborator may do to this core, one thing after another in a call (R970): set or clear SP, set DP, write a byte of RDRAM, add
an event of its own kind `n` after `c` cycles (0 allowed, R901; below 2^62, log entry 15), and remove one. -/
inductive CollabAction where
  | setSp
  | clearSp
  | setDp
  | writeRdram (a : Nat) (b : Byte)
  | addEvent (n : Nat) (c : BitVec 62)
  | removeEvent (n : Nat)
deriving DecidableEq, Repr

/-- A collaborator's answer to a call: the collaborators' private state after it, the value of a read (the low byte of it for
`CART_READ`), the overrun of `RSP.run`, and what it did to this core, in its own order. -/
structure CollabReply where
  state   : Nat
  value   : Word
  overrun : Int
  actions : List CollabAction
deriving DecidableEq, Repr, Inhabited

/-- Free: what the collaborators do, from their private state (numbered), the bytes of RDRAM they may read, and the call (D68, R970, log
entry 6). -/
opaque Config.collab : Nat → List Host.Cell → CollabCall → CollabReply

/-- Free: `PIF_PROCESS(pif_ram, pad_state)`, byte by byte of the 64, from the collaborators' private state (R967, D99, log entry 6);
pad_state as a word (log entry 36). -/
opaque Config.pifProcess : Nat → List Byte → Word → Fin 64 → Byte

/-- Free: the collaborators' private state after `PIF_PROCESS` (log entry 6). -/
opaque Config.pifState : Nat → List Byte → Word → Nat

/-- Free: the NaN that an operation, by its number, answers on operands of which one is a quiet NaN; the model keeps of it what the spec
says of such a value, that it is a quiet NaN (D69, D87, U34, log entry 9). -/
opaque Config.nanResult : Nat → DWord → DWord → DWord

/-- Free: what `FP` answers for a conversion of a NaN, an infinity or a number out of range to an integer format (log entry 9). By the
default of FP_UNIMPL no instruction delivers it. -/
opaque Config.invalidInteger : Machine.FpFmt → DWord → DWord

/-- Free: `RSP_QUOTA(cpu_cycles)` (R12, D57, log entry 4). -/
opaque Config.rspQuota : Nat → Nat

/-- Free: `PI_DMA_CYCLES(len)` less one (R913: a positive number of cycles, log entries 4 and 15). -/
opaque Config.piDmaCyclesPred : Nat → BitVec 62

/-- Free: `SI_DMA_CYCLES` less one (R913, log entries 4 and 15). -/
opaque Config.siDmaCyclesPred : BitVec 62

/-- Free: `AI_DMA_CYCLES(len, dacrate)` less one (R913, log entries 4 and 15). -/
opaque Config.aiDmaCyclesPred : Nat → Nat → BitVec 62

end Sys2Proof
end

