-- ==== Sys2Proof/Machine/State.lean ====
section
/-! DEFINITION. The state of the machine as plain data, the reasons a step can stop, and the state after cold reset
(`10_state.md`, `60_exceptions.md` R900 to R967, `70_reset_and_hazards.md` R1001). -/

namespace Sys2Proof.Machine

/-- The branch state machine (`00_scope.md` R23, `10_state.md` R108). -/
inductive BranchState where
  | noBranch
  | delaySlotTaken
  | delaySlotNotTaken
  | performPending
deriving DecidableEq, Repr

/-- Coprocessor-0 registers that are stored (R113). Registers 7, 21 to 25, 27, 29 and 31 read 0 and PRId is fixed: none is stored.
Count is a view of `State.count33` (R121). `cause` holds BD, CE, IP7, IP1:0 and ExcCode; its bits 14:10 are never stored, they are
the live lines of R128. -/
structure Cop0 where
  index       : Word
  random      : Word
  entryLo0    : DWord
  entryLo1    : DWord
  context     : DWord
  pageMask    : Word
  wired       : Word
  badVAddr    : DWord
  entryHi     : DWord
  compare     : Word
  status      : Word
  cause       : Word
  epc         : DWord
  config      : Word
  llAddr      : Word
  watchLo     : Word
  watchHi     : Word
  xContext    : DWord
  parityError : Word
  tagLo       : Word
  errorEpc    : DWord
deriving DecidableEq, Repr

/-- One half of a TLB entry (R140). -/
structure TlbHalf where
  pfn : BitVec 24
  c   : BitVec 3
  d   : Bool
  v   : Bool
deriving DecidableEq, Repr

/-- One TLB entry (R140). The derived fields of R141 are functions of `mask` and are computed, not stored (log entry 20). -/
structure TlbEntry where
  mask : BitVec 12
  vpn2 : BitVec 27
  r    : BitVec 2
  asid : BitVec 8
  g    : Bool
  lo0  : TlbHalf
  lo1  : TlbHalf
deriving DecidableEq, Repr

/-- One instruction-cache line (R143). -/
structure ILine where
  valid : Bool
  tag   : BitVec 20
  data  : Vector Byte 32
deriving DecidableEq, Repr

/-- One data-cache line (R143). -/
structure DLine where
  valid : Bool
  dirty : Bool
  tag   : BitVec 20
  data  : Vector Byte 16
deriving DecidableEq, Repr

/-- The bytes of RDRAM, PIF ROM and PIF RAM by physical address: strictly rising, none equal to `Memory.unlisted`. -/
abbrev Memory := List Host.Cell

/-- Kinds of scheduler events (R904); a collaborator's own kinds are numbered. -/
inductive EventKind where
  | compareInterrupt
  | viHalfline
  | aiDma
  | piDma
  | siDma
  | collab (n : Nat)
deriving DecidableEq, Repr

/-- One pending event (R900); its time is a signed 64-bit number, read by `Event.remaining`. -/
structure Event where
  kind            : EventKind
  cyclesRemaining : BitVec 64
  seq             : Nat
deriving DecidableEq, Repr

/-- `cycles_remaining` as the signed number it is (R900, R14). -/
def Event.remaining (e : Event) : Int := e.cyclesRemaining.toInt

/-- The event scheduler (R900). -/
structure Scheduler where
  events  : List Event
  nextSeq : Nat
deriving DecidableEq, Repr

/-- Interrupt sources of the aggregator in bit order 0 to 5 (R920). -/
inductive MiSource where
  | sp
  | si
  | ai
  | vi
  | pi
  | dp
deriving DecidableEq, Repr

/-- MI, the interrupt aggregator (R920), with its raw slots (R911). -/
structure Mi where
  raw        : Vector Word 4
  initLength : BitVec 7
  initMode   : Bool
  ebusTest   : Bool
  rdramReg   : Bool
  intr       : BitVec 6
  mask       : BitVec 6
deriving DecidableEq, Repr

/-- VI, video (R930, R931): the masked registers, the current halfline and the raw slots. -/
structure Vi where
  raw        : Vector Word 14
  ctrl       : Word
  origin     : Word
  width      : Word
  vIntr      : Word
  burst      : Word
  vSync      : Word
  hSync      : Word
  hSyncLeap  : Word
  hVideo     : Word
  vVideo     : Word
  vBurst     : Word
  xScale     : Word
  yScale     : Word
  vCurrent   : BitVec 10
deriving DecidableEq, Repr

/-- An audio DMA request (R941). -/
structure AiRequest where
  addr     : Word
  len      : Word
  duration : Nat
deriving DecidableEq, Repr

/-- AI, audio (R940, R941). -/
structure Ai where
  raw     : Vector Word 6
  addr    : Word
  enable  : Bool
  dacrate : BitVec 14
  bitrate : BitVec 4
  cur     : Option AiRequest
  next    : Option AiRequest
deriving DecidableEq, Repr

/-- The direction of a PI request (R951). -/
inductive PiDirection where
  | toCart
  | toRdram
deriving DecidableEq, Repr

/-- A cartridge DMA request (R951); `len` is up to 2^24. -/
structure PiRequest where
  dir  : PiDirection
  dram : Word
  cart : Word
  len  : Nat
deriving DecidableEq, Repr

/-- PI, the cartridge interface (R950, R951); `domain` holds the eight BSD_DOM registers in address order. -/
structure Pi where
  raw    : Vector Word 13
  dram   : Word
  cart   : Word
  domain : Vector Word 8
  cur    : Option PiRequest
  next   : Option PiRequest
deriving DecidableEq, Repr

/-- RI, the RDRAM interface (R960): raw slots. -/
structure Ri where
  raw : Vector Word 8
deriving DecidableEq, Repr

/-- The direction of an SI request (R966). -/
inductive SiDirection where
  | pifToRdram
  | rdramToPif
deriving DecidableEq, Repr

/-- A serial DMA request (R966). -/
structure SiRequest where
  dir  : SiDirection
  dram : Word
deriving DecidableEq, Repr

/-- SI, the serial interface (R965, R966). -/
structure Si where
  raw  : Vector Word 7
  dram : Word
  cur  : Option SiRequest
  next : Option SiRequest
deriving DecidableEq, Repr

/-- What `raise_interrupt` and `clear_interrupt` name (R908): an aggregator source or a CPU line. -/
inductive IntrSource where
  | mi (k : MiSource)
  | cart
  | prenmi
  | line5
  | line6
deriving DecidableEq, Repr

/-- The widths of `read_virtual` and `write_virtual` (R908). -/
inductive Width where
  | w1
  | w2
  | w4
  | w8
deriving DecidableEq, Repr

/-- Calls of the host interface (R908, R1010). They wait in `State.inputs` and take effect between steps (log entry 23). `setPad` gives the
control-pad bits of R908 as a word: DESIGN CHOICE, the spec gives pad_state no width (log entry 36). -/
inductive HostCall where
  | readVirtual (w : Width) (vaddr : DWord)
  | writeVirtual (w : Width) (vaddr : DWord) (v : DWord)
  | powerOn
  | softReset
  | raiseInterrupt (src : IntrSource)
  | clearInterrupt (src : IntrSource)
  | readReg (pa : Word)
  | writeReg (pa v : Word)
  | setPad (bits : Word)
  | setStop (b : Bool)
  | loadFirmware (image : List Byte)
deriving DecidableEq, Repr

/-- What the core tells the outside (R908, R922, R932, R942); nothing in the core reads it (log entry 24). -/
inductive HostOutput where
  | frameReady
  | interruptRaised (k : MiSource)
  | audioBuffer (bytes : List Byte) (dacrate : BitVec 14)
  | readValue (v : DWord)
  | firmwareRefused
deriving DecidableEq, Repr

/-- Reasons the machine stops. No behaviour of the spec is stuck (`93_implementation_defined.md`); the run loop returns when it is
told to. -/
inductive Fault where
  /-- The run loop found the stop flag set at the start of an iteration (R907). Raised by `step`; safe. -/
  | stopped
deriving DecidableEq, Repr

/-- States and accesses the spec itself refuses (R858), each by a name of its own. -/
inductive Refusal where
  /-- An instruction this model gives no meaning to. Raised by `exec` only; safe. -/
  | notModelled (mnemonic : String)
  /-- Status.KSU = 3 with EXL = ERL = 0 (D4). Raised by `step` and by operations that need the mode; safe. -/
  | reservedMode
  /-- A User-mode access or fetch while Status.RE = 1 (D6). Raised by the memory accesses; safe. -/
  | reverseEndianUser
  /-- A store narrower or wider than 32 bits, or a masked store, to a window that takes 32-bit accesses (D9). Raised by stores; safe. -/
  | windowStoreWidth
  /-- A device request while its one buffer is full (D61). Raised by device register writes; safe. -/
  | requestBufferFull
  /-- A device offset beyond the register block, without mirroring (D64). Raised by device register accesses; safe. -/
  | deviceOffset
  /-- A cached access, a fill or a write-back of a line in a device, RSP, RDP or RDRAM-register window (D81). Raised by cached accesses
  and CACHE; safe. -/
  | cachedWindow
  /-- `run()` on a core that was not powered on with a correct firmware image (R1010, D77). Raised by `step`; safe. -/
  | uninitialised
  /-- A host `read_virtual` or `write_virtual` that would raise (D93). Raised by host calls; safe. -/
  | hostAccessRaised
deriving DecidableEq, Repr

/-- The machine's state. -/
structure State where
  gpr          : Vector DWord 32
  hi           : DWord
  lo           : DWord
  pc           : DWord
  branchState  : BranchState
  branchTarget : DWord
  llBit        : Bool
  excLatch     : Bool
  runCycles    : BitVec 64
  count33      : BitVec 33
  /-- `step_cycles` of R500, the cycles the current step has accrued; 0 between steps. -/
  stepCycles   : Nat
  /-- `ext_ip[3..6]`, line 3 in bit 0 (R111). -/
  extIp        : BitVec 4
  cop0         : Cop0
  fpr          : Vector DWord 32
  fcsr         : Word
  tlb          : Vector TlbEntry 32
  icache       : Vector ILine 512
  dcache       : Vector DLine 512
  mem          : Memory
  sched        : Scheduler
  mi           : Mi
  vi           : Vi
  ai           : Ai
  pi           : Pi
  ri           : Ri
  si           : Si
  /-- `pad_state` (R908): a word, DESIGN CHOICE, since the spec gives no width (log entry 36). -/
  padState     : Word
  cpuCarry     : Nat
  rspCarry     : Int
  /-- Inside `advance`: events may still be due (R901, R902, log entry 14). -/
  advancing    : Bool
  stop         : Bool
  /-- The loader's last image had the right size (R1010). -/
  firmwareLoaded : Bool
  /-- `power_on()` has been performed (R1010, D77), and the loader has been given no image of another size since (log entry 34); a further
  correct image leaves it as it is (log entry 39). -/
  initialised  : Bool
  inputs       : List HostCall
  outputs      : List HostOutput
  /-- The private state of the external collaborators, numbered (D68, log entry 6). -/
  collabState  : Nat
  cfg          : Config
deriving DecidableEq, Repr

/-- Coprocessor-0 registers after cold reset (R1001). -/
def Cop0.reset : Cop0 where
  index := 0
  random := 31
  entryLo0 := 0
  entryLo1 := 0
  context := 0
  pageMask := 0
  wired := 0
  badVAddr := 0
  entryHi := 0
  compare := 0
  status := 0x00400004#32
  cause := 0
  epc := 0
  config := 0x7006E463#32
  llAddr := 0
  watchLo := 0
  watchHi := 0
  xContext := 0
  parityError := 0
  tagLo := 0
  errorEpc := 0

def TlbHalf.zero : TlbHalf where
  pfn := 0
  c := 0
  d := false
  v := false

def TlbEntry.zero : TlbEntry where
  mask := 0
  vpn2 := 0
  r := 0
  asid := 0
  g := false
  lo0 := TlbHalf.zero
  lo1 := TlbHalf.zero

def ILine.empty : ILine where
  valid := false
  tag := 0
  data := Vector.replicate 32 0

def DLine.empty : DLine where
  valid := false
  dirty := false
  tag := 0
  data := Vector.replicate 16 0

def Mi.reset : Mi where
  raw := Vector.replicate 4 0
  initLength := 0
  initMode := false
  ebusTest := false
  rdramReg := false
  intr := 0
  mask := 0

/-- VI_V_INTR is 0x3FF after reset (R930). -/
def Vi.reset : Vi where
  raw := Vector.replicate 14 0
  ctrl := 0
  origin := 0
  width := 0
  vIntr := 0x3FF#32
  burst := 0
  vSync := 0
  hSync := 0
  hSyncLeap := 0
  hVideo := 0
  vVideo := 0
  vBurst := 0
  xScale := 0
  yScale := 0
  vCurrent := 0

def Ai.reset : Ai where
  raw := Vector.replicate 6 0
  addr := 0
  enable := false
  dacrate := 0
  bitrate := 0
  cur := none
  next := none

def Pi.reset : Pi where
  raw := Vector.replicate 13 0
  dram := 0
  cart := 0
  domain := Vector.replicate 8 0
  cur := none
  next := none

def Ri.reset : Ri where
  raw := Vector.replicate 8 0

def Si.reset : Si where
  raw := Vector.replicate 7 0
  dram := 0
  cur := none
  next := none

/-- The scheduler after cold reset (R1001): VIHalfline after one halfline, CompareInterrupt, whose time from Count = Compare = 0 is
2^33 cycles (R905), added before it. The counter next_seq starts again from 0, so the events are numbered 0 and 1 and it is 2:
DESIGN CHOICE, the spec gives the list after reset and not the counter (log entry 35). -/
def Scheduler.reset (cyclesPerHalfline : Nat) : Scheduler where
  events :=
    if cyclesPerHalfline < 2 ^ 33 then
      [⟨.viHalfline, BitVec.ofNat 64 cyclesPerHalfline, 1⟩, ⟨.compareInterrupt, 0x200000000#64, 0⟩]
    else
      [⟨.compareInterrupt, 0x200000000#64, 0⟩, ⟨.viHalfline, BitVec.ofNat 64 cyclesPerHalfline, 1⟩]
  nextSeq := 2

/-- The machine right after cold reset, `power_on()` (R1001), which a correct firmware image has preceded (R1010). Memory lists nothing:
the image's bytes are placed from outside (log entry 2). -/
def State.reset : State where
  gpr := Vector.replicate 32 0
  hi := 0
  lo := 0
  pc := 0xFFFFFFFFBFC00000#64
  branchState := .noBranch
  branchTarget := 0
  llBit := false
  excLatch := false
  runCycles := 0
  count33 := 0
  stepCycles := 0
  extIp := 0
  cop0 := Cop0.reset
  fpr := Vector.replicate 32 0
  fcsr := 0
  tlb := Vector.replicate 32 TlbEntry.zero
  icache := Vector.replicate 512 ILine.empty
  dcache := Vector.replicate 512 DLine.empty
  mem := []
  sched := Scheduler.reset Config.default.cyclesPerHalfline
  mi := Mi.reset
  vi := Vi.reset
  ai := Ai.reset
  pi := Pi.reset
  ri := Ri.reset
  si := Si.reset
  padState := 0
  cpuCarry := 0
  rspCarry := 0
  advancing := false
  stop := false
  firmwareLoaded := true
  initialised := true
  inputs := []
  outputs := []
  collabState := 0
  cfg := Config.default

end Sys2Proof.Machine
end

