-- ==== Sys2Proof/Machine/Bits.lean ====
section
/-! DEFINITION. Sign and zero extension, truncation, bits and byte order (`00_scope.md` R13, R14; `20_memory.md` R200 to R202). -/

namespace Sys2Proof.Machine

/-- `sext_64` of a 32-bit value. -/
def sext32 (w : Word) : DWord := w.signExtend 64

/-- `sext_64` of a 16-bit immediate or offset (R310). -/
def sext16 (h : Half) : DWord := h.signExtend 64

/-- `zext_64` of a 16-bit immediate (R310). -/
def zext16 (h : Half) : DWord := h.setWidth 64

/-- `sext_64(imm || 00)`, the byte offset of a branch (R310). -/
def branchOffset (h : Half) : DWord := (h ++ 0#2).signExtend 64

/-- `x[31:0]`. -/
def low32 (x : DWord) : Word := x.setWidth 32

/-- `zext_64` of a 32-bit value. -/
def zext32 (w : Word) : DWord := w.setWidth 64

/-- `v[hi:lo]` as a field of `len` bits from bit `lo` up. -/
abbrev bitField {n : Nat} (v : BitVec n) (lo len : Nat) : BitVec len := v.extractLsb' lo len

/-- One bit. -/
abbrev bit {n : Nat} (v : BitVec n) (i : Nat) : Bool := v.getLsbD i

/-- A Bool as a value of n bits. -/
def boolBit (n : Nat) (b : Bool) : BitVec n := if b then 1#n else 0#n

/-- `v` with bit `i` set to `b`. -/
def setBit {n : Nat} (v : BitVec n) (i : Nat) (b : Bool) : BitVec n :=
  (v &&& ~~~(BitVec.twoPow n i)) ||| (if b then BitVec.twoPow n i else 0#n)

/-- `(old & ~mask) | (value & mask)`: a masked register write (R113). -/
def masked {n : Nat} (mask old value : BitVec n) : BitVec n :=
  (old &&& ~~~mask) ||| (value &&& mask)

/-- The `n` low bytes of `v`, the most significant first: big-endian storage order (R201). -/
def bytesOf (v : DWord) : (n : Nat) → List Byte
  | 0 => []
  | n + 1 => (v >>> (8 * n)).setWidth 8 :: bytesOf v n

/-- The value whose big-endian bytes these are (R201). -/
def ofBytes (bs : List Byte) : DWord :=
  bs.foldl (fun acc b => (acc <<< 8) ||| b.setWidth 64) 0#64

end Sys2Proof.Machine
end

