-- ==== Sys2Proof/Machine/Ops.lean ====
section
/-! DEFINITION. The named operations over registers: register access, the mode and gating predicates, taking an exception and
returning from one, the branch state machine, and the end of a step (`00_scope.md` R15 to R19; `42_control.md` R500 to R509;
`60_exceptions.md` R800 to R826, R845; `44_system.md` R640). -/

namespace Sys2Proof.Machine

/-- What a meaning and a step answer. -/
abbrev Result := Host.Outcome State Fault Refusal

/-- Exceptions with what they record (R811). -/
inductive Exc where
  | int
  | mod (a : DWord)
  | tlbl (a : DWord) (refill xtlb : Bool)
  | tlbs (a : DWord) (refill xtlb : Bool)
  | adel (a : DWord)
  | ades (a : DWord)
  | ibe
  | dbe
  | sys
  | bp
  | ri
  | cpu (n : BitVec 2)
  | ov
  | tr
  | fpe
  | watch
deriving DecidableEq, Repr

/-- The privilege modes (R800); `reserved` is KSU = 3 with EXL = ERL = 0 (D4). -/
inductive Mode where
  | kernel
  | supervisor
  | user
  | reserved
deriving DecidableEq, Repr

/-- A piece of an instruction: it goes on with a value, it raises (R17), or the spec refuses it (R858). -/
inductive Res (α : Type) where
  | ok (a : α) (s : State)
  | raise (e : Exc) (s : State)
  | refuse (r : Refusal)
deriving Repr

/-- Go on with the value; a raise or a refusal ends the instruction at that point (R17). -/
def Res.bind {α β : Type} (r : Res α) (k : α → State → Res β) : Res β :=
  match r with
  | .ok a s => k a s
  | .raise e s => .raise e s
  | .refuse q => .refuse q

/-! ### Registers -/

/-- `x[r]`: x[0] reads 0 (R15, R101). -/
def State.x (s : State) (r : RegIdx) : DWord := if r = 0 then 0#64 else s.gpr[r.val]

/-- `x[r] <- v`: a write to x[0] is discarded (R15, R101). -/
def State.setX (r : RegIdx) (v : DWord) (s : State) : State :=
  if r = 0 then s else { s with gpr := s.gpr.set r.val v }

/-- `HI, LO <- h, l`. -/
def State.setHiLo (h l : DWord) (s : State) : State := { s with hi := h, lo := l }

/-- Add to the cycles of the current step (R500). -/
def State.addCycles (n : Nat) (s : State) : State := { s with stepCycles := s.stepCycles + n }

/-! ### Status, Cause and the mode -/

abbrev State.status (s : State) : Word := s.cop0.status
abbrev State.exl (s : State) : Bool := bit s.status 1
abbrev State.erl (s : State) : Bool := bit s.status 2
abbrev State.ie (s : State) : Bool := bit s.status 0
abbrev State.ksu (s : State) : BitVec 2 := bitField s.status 3 2
abbrev State.ux (s : State) : Bool := bit s.status 5
abbrev State.sx (s : State) : Bool := bit s.status 6
abbrev State.kx (s : State) : Bool := bit s.status 7
abbrev State.im (s : State) : BitVec 8 := bitField s.status 8 8
abbrev State.bev (s : State) : Bool := bit s.status 22
abbrev State.re (s : State) : Bool := bit s.status 25
abbrev State.fr (s : State) : Bool := bit s.status 26
/-- Status.CUn, n = 0 to 3 (R124). -/
abbrev State.cu (s : State) (n : Nat) : Bool := bit s.status (28 + n)

/-- `Mode()` (R800). -/
def State.mode (s : State) : Mode :=
  if s.exl || s.erl then .kernel
  else if s.ksu = 0#2 then .kernel
  else if s.ksu = 1#2 then .supervisor
  else if s.ksu = 2#2 then .user
  else .reserved

/-- `Is64Mode()` (R801). -/
def State.is64 (s : State) : Bool :=
  match s.mode with
  | .kernel => s.kx
  | .supervisor => s.sx
  | .user => s.ux
  | .reserved => false

/-- `mi_line` (R921). -/
def State.miLine (s : State) : Bool := decide ((s.mi.intr &&& s.mi.mask) ≠ 0#6)

/-- Cause as read: the stored bits and the live lines IP2 and IP6..IP3 (R125, R128). -/
def State.causeView (s : State) : Word :=
  (s.cop0.cause &&& 0xFFFF83FF#32) ||| (boolBit 32 s.miLine <<< 10) ||| (s.extIp.setWidth 32 <<< 11)

/-- The composed 8-bit Cause.IP (R128). -/
def State.ip (s : State) : BitVec 8 := bitField s.causeView 8 8

/-- `InterruptPending()` (R845). -/
def State.interruptPending (s : State) : Bool :=
  s.ie && !s.exl && !s.erl && decide ((s.ip &&& s.im) ≠ 0#8)

/-! ### Gating predicates -/

/-- `CheckCop(n)` (R802); in the reserved mode coprocessor 0's usability is not defined (D4). -/
def checkCop (n : BitVec 2) (s : State) : Res Unit :=
  if n = 0#2 then
    match s.mode with
    | .kernel => .ok () s
    | .reserved => .refuse .reservedMode
    | _ => if s.cu 0 then .ok () s else .raise (.cpu 0#2) s
  else if s.cu n.toNat then .ok () s
  else .raise (.cpu n) s

/-- `Require64()` (R803). -/
def require64 (s : State) : Res Unit :=
  match s.mode with
  | .kernel => .ok () s
  | .supervisor => if s.sx then .ok () s else .raise .ri s
  | .user => if s.ux then .ok () s else .raise .ri s
  | .reserved => .refuse .reservedMode

/-! ### Taking an exception -/

/-- Cause.ExcCode of an exception (R810). -/
def Exc.code : Exc → BitVec 5
  | .int => 0
  | .mod _ => 1
  | .tlbl _ _ _ => 2
  | .tlbs _ _ _ => 3
  | .adel _ => 4
  | .ades _ => 5
  | .ibe => 6
  | .dbe => 7
  | .sys => 8
  | .bp => 9
  | .ri => 10
  | .cpu _ => 11
  | .ov => 12
  | .tr => 13
  | .fpe => 15
  | .watch => 23

/-- The faulting address an exception records (R810, R826). -/
def Exc.vaddr : Exc → Option DWord
  | .mod a | .tlbl a _ _ | .tlbs a _ _ | .adel a | .ades a => some a
  | _ => none

/-- Cause.CE of an exception: the coprocessor number of CpU, 0 otherwise (D15). -/
def Exc.ce : Exc → BitVec 2
  | .cpu n => n
  | _ => 0

/-- The vector offset, chosen from EXL before EXL is set (R820, R825). -/
def Exc.vectorOffset (exl : Bool) : Exc → DWord
  | .tlbl _ true xtlb | .tlbs _ true xtlb =>
    if exl then 0x180#64 else if xtlb then 0x080#64 else 0x000#64
  | _ => 0x180#64

/-- Record a faulting address in BadVAddr, Context, XContext and EntryHi (R221). -/
def Cop0.recordVaddr (a : DWord) (c : Cop0) : Cop0 :=
  { c with
    badVAddr := a
    context := masked 0x00000000007FFFF0#64 c.context (a >>> 9)
    xContext := masked 0x0000000180000000#64 (masked 0x000000007FFFFFF0#64 c.xContext (a >>> 9)) (a >>> 31)
    entryHi := masked 0xC00000FFFFFFE000#64 c.entryHi a }

/-- The vector base (R825). -/
def vectorBase (bev : Bool) : DWord :=
  if bev then 0xFFFFFFFFBFC00200#64 else 0xFFFFFFFF80000000#64

/-- Whether the step's instruction is in a delay slot (R820). -/
def BranchState.inSlot : BranchState → Bool
  | .delaySlotTaken | .delaySlotNotTaken => true
  | _ => false

/-- `Cause` with the exception's code, CE and, when `bd` is given, BD (R820). -/
def causeAfter (e : Exc) (bd : Option Bool) (cause : Word) : Word :=
  let c := masked 0x3000007C#32 cause ((e.ce.setWidth 32 <<< 28) ||| (e.code.setWidth 32 <<< 2))
  match bd with
  | some b => setBit c 31 b
  | none => c

/-- The coprocessor-0 registers with the faulting address of an exception recorded, if it has one (R820, R826). -/
def Cop0.recorded (e : Exc) (c : Cop0) : Cop0 :=
  match e.vaddr with
  | some a => c.recordVaddr a
  | none => c

/-- Cause, and with EXL = 0 also EPC and EXL, of an exception at `pc`, in a delay slot or not (R820). -/
def Cop0.entered (e : Exc) (pc : DWord) (inSlot : Bool) (c : Cop0) : Cop0 :=
  if bit c.status 1 then
    { c with cause := causeAfter e none c.cause }
  else
    { c with
      cause := causeAfter e (some inSlot) c.cause
      epc := if inSlot then pc - 4#64 else pc
      status := setBit c.status 1 true }

/-- The coprocessor-0 registers after an exception at `pc`, in a delay slot or not (R820). -/
def Cop0.afterException (e : Exc) (pc : DWord) (inSlot : Bool) (c : Cop0) : Cop0 := (c.recorded e).entered e pc inSlot

/-- `TakeException` (R820): the first fault of a step wins; the branch state the step's instruction saw is the state's own. -/
def takeException (e : Exc) (s : State) : State :=
  if s.excLatch then s
  else
    { s with
      excLatch := true
      cop0 := s.cop0.afterException e s.pc s.branchState.inSlot
      branchState := .noBranch
      pc := vectorBase s.bev + e.vectorOffset s.exl }

/-- Return from an exception (R640, R855): no delay slot, so the program counter is written directly. -/
def returnFromException (s : State) : State :=
  if s.erl then
    { s with
      pc := s.cop0.errorEpc
      cop0 := { s.cop0 with status := setBit s.status 2 false }
      llBit := false
      branchState := .noBranch }
  else
    { s with
      pc := s.cop0.epc
      cop0 := { s.cop0 with status := setBit s.status 1 false }
      llBit := false
      branchState := .noBranch }

/-- How an instruction ends: go on, take the exception it raised, or be refused by the spec. -/
def Res.finish {α : Type} (r : Res α) (k : α → State → Result) : Result :=
  match r with
  | .ok a s => k a s
  | .raise e s => .next (takeException e s)
  | .refuse q => .refused q

/-! ### The branch state machine -/

/-- `Advance(s0)` (R508). No instruction executes with `performPending` (R531). -/
def State.advance (s0 : BranchState) (likelySkip : Bool) (s : State) : State :=
  match s0 with
  | .delaySlotTaken => { s with branchState := .performPending }
  | .delaySlotNotTaken => { s with branchState := .noBranch, pc := s.pc + 4#64 }
  | .noBranch => { s with pc := s.pc + (if likelySkip then 8#64 else 4#64) }
  | .performPending => s

/-- `Advance` for an instruction that registers no branch (R500, R508). -/
def State.retire (s : State) : State := s.advance s.branchState false

/-- An instruction completes with nothing more to do. -/
def State.done (s : State) : Result := .next s.retire

/-- `Branch(cond, target)` (R505), then `Advance` (R508). -/
def State.branch (cond : Bool) (target : DWord) (s : State) : Result :=
  match s.branchState with
  | .noBranch =>
    .next (State.advance .noBranch false
      (if cond then { s with branchState := .delaySlotTaken, branchTarget := target }
       else { s with branchState := .delaySlotNotTaken }))
  | s0 => .next (s.advance s0 false)

/-- `BranchLikely(cond, target)` (R506), then `Advance` (R508). -/
def State.branchLikely (cond : Bool) (target : DWord) (s : State) : Result :=
  match s.branchState with
  | .noBranch =>
    .next (if cond then State.advance .noBranch false { s with branchState := .delaySlotTaken, branchTarget := target }
           else s.advance .noBranch true)
  | s0 => .next (s.advance s0 false)

/-- `next_pc` (R509). -/
def State.nextPc (s : State) : DWord :=
  match s.branchState with
  | .performPending => s.branchTarget
  | _ => s.pc

/-- A pending branch is applied at the start of a step (R501). -/
def State.resolveBranch (s : State) : State :=
  match s.branchState with
  | .performPending => { s with pc := s.branchTarget, branchState := .noBranch }
  | _ => s

/-- The step-local state at the start of a step: the latch cleared, one base cycle (R500). -/
def State.beginStep (s : State) : State := { s with excLatch := false, stepCycles := 1 }

/-- `UpdateRandom()` (R115, D33). -/
def nextRandom (random wired : Word) : Word :=
  if random = wired then 31#32 else (random - 1#32) &&& 31#32

/-- `done:` of R500: `Charge(step_cycles)` (R1041), then `UpdateRandom()`. -/
def State.endStep (s : State) : State :=
  { s with
    runCycles := s.runCycles + BitVec.ofNat 64 s.stepCycles
    count33 := s.count33 + BitVec.ofNat 33 s.stepCycles
    stepCycles := 0
    cop0 := { s.cop0 with random := nextRandom s.cop0.random s.cop0.wired } }

end Sys2Proof.Machine
end

