-- ==== Sys2Proof/Machine/Scheduler.lean ====
section
/-! DEFINITION. The event list (`60_exceptions.md` R900 to R903) and the Count/Compare timer (R905). -/

namespace Sys2Proof.Machine

/-- Insert after every event whose time is not later (R901): ascending times, insertion order among equals. -/
def insertEvent (e : Event) : List Event → List Event
  | [] => [e]
  | f :: fs => if f.remaining ≤ e.remaining then f :: insertEvent e fs else e :: f :: fs

/-- `remove_event(kind)`: a no-op if absent (R901). -/
def Scheduler.remove (k : EventKind) (q : Scheduler) : Scheduler :=
  { q with events := q.events.filter (fun e => decide (e.kind ≠ k)) }

/-- `add_event(kind, c)` with the compensation `elapsed` (R901): re-adding replaces. -/
def Scheduler.add (k : EventKind) (c elapsed : Int) (q : Scheduler) : Scheduler :=
  { events := insertEvent ⟨k, BitVec.ofInt 64 (c + elapsed), q.nextSeq⟩ (q.remove k).events
    nextSeq := q.nextSeq + 1 }

/-- `change_event_time(kind, c)`: removes, then reinserts (R901, D90). -/
def Scheduler.change (k : EventKind) (c elapsed : Int) (q : Scheduler) : Scheduler :=
  (q.remove k).add k c elapsed

/-- The first half of `advance(step)`: every time comes nearer by `step` (R901). -/
def Scheduler.elapse (step : Int) (q : Scheduler) : Scheduler :=
  { q with events := q.events.map (fun e => { e with cyclesRemaining := e.cyclesRemaining - BitVec.ofInt 64 step }) }

/-- Whether the front of the list is due (R901). -/
def Scheduler.due (q : Scheduler) : Bool :=
  match q.events with
  | e :: _ => decide (e.remaining ≤ 0)
  | [] => false

/-- The pending event of a kind. -/
def Scheduler.find (k : EventKind) (q : Scheduler) : Option Event :=
  q.events.find? (fun e => decide (e.kind = k))

/-- `elapsed` of R901 for a call from an instruction: the cycles of the completed steps of this `run()`. -/
def State.elapsed (s : State) : Int := s.runCycles.toNat

/-- Count as read: `count33[32:1]` (R121, R135). -/
def State.count (s : State) : Word := bitField s.count33 1 32

/-- The cycles until Count next equals Compare (R905, D35). -/
def compareDelay (count compare : Word) : Nat := 2 * ((compare - count - 1#32).toNat + 1)

/-- `ScheduleCompare()` (R905). -/
def State.scheduleCompare (elapsed : Int) (s : State) : State :=
  { s with sched := s.sched.change .compareInterrupt (compareDelay s.count s.cop0.compare) elapsed }

end Sys2Proof.Machine
end

