-- ==== Sys2Proof/Machine/Devices.lean ====
section
/-! DEFINITION. The register blocks MI, VI, AI, PI, RI and SI, their DMA and timer callbacks, and what a collaborator may do to the core
(`60_exceptions.md` R900 to R970). -/

namespace Sys2Proof.Machine

/-! ### The interrupt aggregator -/

/-- The bit of a source in MI_INTR and MI_MASK (R920). -/
def MiSource.index : MiSource → Nat
  | .sp => 0
  | .si => 1
  | .ai => 2
  | .vi => 3
  | .pi => 4
  | .dp => 5

/-- Tell the outside (R908). -/
def State.output (o : HostOutput) (s : State) : State := { s with outputs := o :: s.outputs }

/-- `SetMI(k)` (R922). -/
def State.setMi (k : MiSource) (s : State) : State :=
  { s with
    mi := { s.mi with intr := setBit s.mi.intr k.index true }
    outputs := .interruptRaised k :: s.outputs }

/-- `ClearMI(k)` (R922). -/
def State.clearMi (k : MiSource) (s : State) : State :=
  { s with mi := { s.mi with intr := setBit s.mi.intr k.index false } }

/-! ### RDRAM as a DMA sees it (R912) -/

/-- `RDRAM_SIZE` in bytes (R12). -/
def rdramBytes : RdramSize → Nat
  | .mib4 => 0x400000
  | .mib8 => 0x800000

/-- `OPEN_BUS(pa, width)` (D11). -/
def openBusValue (cfg : Config) (pa width : Nat) : DWord :=
  match cfg.openBus.find? (fun e => decide (e.pa = pa ∧ e.width = width)) with
  | some e => e.value
  | none => 0#64

/-- A byte read by a DMA: at or beyond RDRAM_SIZE it is OPEN_BUS (R912). -/
def State.dmaRead (a : Nat) (s : State) : Byte :=
  if a < rdramBytes s.cfg.rdramSize then s.mem.read a else (openBusValue s.cfg a 1).setWidth 8

/-- A byte written by a DMA or a collaborator: at or beyond RDRAM_SIZE it is ignored (R912). -/
def State.dmaWrite (a : Nat) (b : Byte) (s : State) : State :=
  if a < rdramBytes s.cfg.rdramSize then { s with mem := s.mem.write a b } else s

/-- Bytes read by a DMA from `a` up. -/
def State.dmaReadBytes (s : State) (a : Nat) : Nat → List Byte
  | 0 => []
  | n + 1 => s.dmaRead a :: s.dmaReadBytes (a + 1) n

/-- Bytes written by a DMA from `a` up. -/
def State.dmaWriteBytes (a : Nat) : List Byte → State → State
  | [], s => s
  | b :: bs, s => State.dmaWriteBytes (a + 1) bs (s.dmaWrite a b)

/-! ### Collaborators -/

/-- `add_event` on the state. -/
def State.addEvent (k : EventKind) (c elapsed : Int) (s : State) : State :=
  { s with sched := s.sched.add k c elapsed }

/-- The bytes of RDRAM, which the collaborators may read (R970). -/
def State.rdram (s : State) : Memory := s.mem.filter (fun c => decide (c.1 < rdramBytes s.cfg.rdramSize))

/-- One thing a collaborator does to this core (R970); `elapsed` as in R901. -/
def State.applyAction (elapsed : Int) (s : State) (a : CollabAction) : State :=
  match a with
  | .setSp => s.setMi .sp
  | .clearSp => s.clearMi .sp
  | .setDp => s.setMi .dp
  | .writeRdram a b => s.dmaWrite a b
  | .addEvent n c => s.addEvent (.collab n) c.toNat elapsed
  | .removeEvent n => { s with sched := s.sched.remove (.collab n) }

/-- A call of a collaborator (D68, R970): it answers from its private state and RDRAM, and does to the core, in its own order, what its
answer lists (log entry 6). -/
def State.collabCall (elapsed : Int) (call : CollabCall) (s : State) : CollabReply × State :=
  let reply := Config.collab s.collabState s.rdram call
  (reply, reply.actions.foldl (State.applyAction elapsed) { s with collabState := reply.state })

/-- A 32-bit read of a collaborator's window (R233, D68). -/
def State.collabRead (c : Collaborator) (pa : Word) (s : State) : Word × State :=
  let r := s.collabCall s.elapsed (.read c pa)
  (r.1.value, r.2)

/-- A 32-bit write to a collaborator's window (R233, D68). -/
def State.collabWrite (c : Collaborator) (pa v : Word) (s : State) : State := (s.collabCall s.elapsed (.write c pa v)).2

/-- `CART_READ` of one byte (D68, log entry 7). -/
def State.cartRead (elapsed : Int) (pa : Word) (s : State) : Byte × State :=
  let r := s.collabCall elapsed (.cartRead pa)
  (bitField r.1.value 0 8, r.2)

/-- `CART_WRITE` of one byte (D68, log entry 7). -/
def State.cartWrite (elapsed : Int) (pa : Word) (b : Byte) (s : State) : State := (s.collabCall elapsed (.cartWrite pa b)).2

/-! ### AI (R940 to R943) -/

/-- The remaining time of the AIDma event as seen now (R943). -/
def State.aiEventRemaining (elapsed : Int) (s : State) : Nat :=
  match s.sched.find .aiDma with
  | some e => (e.remaining - elapsed).toNat
  | none => 0

/-- `AiRemaining()` (R943). -/
def State.aiRemaining (elapsed : Int) (s : State) : Word :=
  match s.ai.cur with
  | none => 0#32
  | some q => BitVec.ofNat 32 (q.len.toNat * s.aiEventRemaining elapsed / q.duration) &&& 0xFFFFFFF8#32

/-- The bytes of an audio buffer go to `audio_buffer` (R941). -/
def State.aiCopy (q : AiRequest) (s : State) : State :=
  s.output (.audioBuffer (s.dmaReadBytes q.addr.toNat q.len.toNat) s.ai.dacrate)

/-- `AiStart(q)` (R941). -/
def State.aiStart (elapsed : Int) (q : AiRequest) (s : State) : State :=
  let s := { s with ai := { s.ai with cur := some q } }
  let s := s.addEvent .aiDma q.duration elapsed
  let s := if s.cfg.aiIrqAtStart then s.setMi .ai else s
  match s.cfg.dmaCopyAt with
  | .start => s.aiCopy q
  | .completion => s

/-- `AI_DMA_CYCLES(len, dacrate)` (R913). -/
def aiDmaCycles (len : Word) (dacrate : BitVec 14) : Nat := (Config.aiDmaCyclesPred len.toNat dacrate.toNat).toNat + 1

/-- `AiRequest(len)` (R941). -/
def State.aiRequest (elapsed : Int) (len : Word) (s : State) : Res Unit :=
  if len = 0#32 ∨ s.ai.enable = false then .ok () s
  else
    let q : AiRequest := ⟨s.ai.addr, len, aiDmaCycles len s.ai.dacrate⟩
    match s.ai.cur, s.ai.next with
    | none, _ => .ok () (s.aiStart elapsed q)
    | some _, none => .ok () { s with ai := { s.ai with next := some q } }
    | some _, some _ => .refuse .requestBufferFull

/-- `OnFire(AIDma)` (R942). -/
def State.aiFire (s : State) : State :=
  let s := match s.cfg.dmaCopyAt, s.ai.cur with
    | .completion, some q => s.aiCopy q
    | _, _ => s
  let s := if s.cfg.aiIrqAtStart then s else s.setMi .ai
  match s.ai.next with
  | some q => State.aiStart 0 q { s with ai := { s.ai with cur := none, next := none } }
  | none => { s with ai := { s.ai with cur := none } }

/-! ### PI (R950 to R952) -/

/-- `PiCopy` byte by byte: `n` bytes from these addresses up (R951); `elapsed` as in R901. -/
def State.piCopyBytes (elapsed : Int) (dir : PiDirection) : Nat → Nat → Word → State → State
  | 0, _, _, s => s
  | n + 1, dram, cart, s =>
    match dir with
    | .toRdram =>
      let r := s.cartRead elapsed cart
      State.piCopyBytes elapsed dir n (dram + 1) (cart + 1#32) (r.2.dmaWrite dram r.1)
    | .toCart => State.piCopyBytes elapsed dir n (dram + 1) (cart + 1#32) (s.cartWrite elapsed cart (s.dmaRead dram))

/-- `PiCopy(q)` (R951). -/
def State.piCopy (elapsed : Int) (q : PiRequest) (s : State) : State := State.piCopyBytes elapsed q.dir q.len q.dram.toNat q.cart s

/-- `PI_DMA_CYCLES(len)` (R913). -/
def piDmaCycles (len : Nat) : Nat := (Config.piDmaCyclesPred len).toNat + 1

/-- `PiStart(q)` (R951). -/
def State.piStart (elapsed : Int) (q : PiRequest) (s : State) : State :=
  let s := { s with pi := { s.pi with cur := some q } }
  let s := match s.cfg.dmaCopyAt with
    | .start => s.piCopy elapsed q
    | .completion => s
  s.addEvent .piDma (piDmaCycles q.len) elapsed

/-- `PiRequest(dir, len)` (R951): the addresses are captured now (D97). -/
def State.piRequest (elapsed : Int) (dir : PiDirection) (len : Nat) (s : State) : Res Unit :=
  let q : PiRequest := ⟨dir, s.pi.dram, s.pi.cart, len⟩
  match s.pi.cur, s.pi.next with
  | none, _ => .ok () (s.piStart elapsed q)
  | some _, none => .ok () { s with pi := { s.pi with next := some q } }
  | some _, some _ => .refuse .requestBufferFull

/-- `OnFire(PIDma)` (R952, D67). -/
def State.piFire (s : State) : State :=
  let s := match s.cfg.dmaCopyAt, s.pi.cur with
    | .completion, some q => s.piCopy 0 q
    | _, _ => s
  let s := match s.pi.cur with
    | some q =>
      { s with pi := { s.pi with
          dram := (q.dram + BitVec.ofNat 32 q.len) &&& 0x00FFFFFE#32
          cart := (q.cart + BitVec.ofNat 32 q.len) &&& 0xFFFFFFFE#32
          cur := none } }
    | none => s
  let s := s.setMi .pi
  match s.pi.next with
  | some q => State.piStart 0 q { s with pi := { s.pi with next := none } }
  | none => s

/-! ### SI (R965 to R967) -/

/-- PIF RAM, 64 bytes (R230). -/
def pifRamBase : Nat := 0x1FC007C0

/-- `PIF_PROCESS(pif_ram, pad_state)` (R967, D99). -/
def State.pifProcess (s : State) : State :=
  let ram := s.mem.readBytes pifRamBase 64
  { s with
    mem := s.mem.writeBytes pifRamBase (List.ofFn (Config.pifProcess s.collabState ram s.padState))
    collabState := Config.pifState s.collabState ram s.padState }

/-- `SiCopy(q)` (R967). -/
def State.siCopy (q : SiRequest) (s : State) : State :=
  match q.dir with
  | .pifToRdram =>
    let s := s.pifProcess
    State.dmaWriteBytes q.dram.toNat (s.mem.readBytes pifRamBase 64) s
  | .rdramToPif => { s with mem := s.mem.writeBytes pifRamBase (s.dmaReadBytes q.dram.toNat 64) }

/-- `SI_DMA_CYCLES` (R913). -/
def siDmaCycles : Nat := Config.siDmaCyclesPred.toNat + 1

/-- `SiStart(q)` (R966). -/
def State.siStart (elapsed : Int) (q : SiRequest) (s : State) : State :=
  let s := { s with si := { s.si with cur := some q } }
  let s := match s.cfg.dmaCopyAt with
    | .start => s.siCopy q
    | .completion => s
  s.addEvent .siDma siDmaCycles elapsed

/-- `SiRequest(dir)` (R966). -/
def State.siRequest (elapsed : Int) (dir : SiDirection) (s : State) : Res Unit :=
  let q : SiRequest := ⟨dir, s.si.dram⟩
  match s.si.cur, s.si.next with
  | none, _ => .ok () (s.siStart elapsed q)
  | some _, none => .ok () { s with si := { s.si with next := some q } }
  | some _, some _ => .refuse .requestBufferFull

/-- `OnFire(SIDma)` (R967). -/
def State.siFire (s : State) : State :=
  let s := match s.cfg.dmaCopyAt, s.si.cur with
    | .completion, some q => s.siCopy q
    | _, _ => s
  let s := State.setMi .si { s with si := { s.si with cur := none } }
  match s.si.next with
  | some q => State.siStart 0 q { s with si := { s.si with next := none } }
  | none => s

/-! ### VI (R930 to R932) -/

/-- `OnFire(VIHalfline)` (R932). -/
def State.viFire (s : State) : State :=
  let wrap : Bool := decide (s.vi.vSync.toNat ≤ s.vi.vCurrent.toNat)
  let s := { s with vi := { s.vi with vCurrent := if wrap then 0#10 else s.vi.vCurrent + 1#10 } }
  let s := if wrap then s.output .frameReady else s
  let s := if s.vi.vCurrent.setWidth 32 = s.vi.vIntr then s.setMi .vi else s
  s.addEvent .viHalfline s.cfg.cyclesPerHalfline 0

/-- `OnFire(CompareInterrupt)` (R905): IP7 is set and the event is added again. -/
def State.compareFire (s : State) : State :=
  State.scheduleCompare 0 { s with cop0 := { s.cop0 with cause := setBit s.cop0.cause 15 true } }

/-- `OnFire(kind)` (R904). -/
def State.onFire (k : EventKind) (s : State) : State :=
  match k with
  | .compareInterrupt => s.compareFire
  | .viHalfline => s.viFire
  | .aiDma => s.aiFire
  | .piDma => s.piFire
  | .siDma => s.siFire
  | .collab n => (s.collabCall 0 (.fire n)).2

/-- The second half of `advance`: fire while the front is due, re-scanning from the front after each firing (R901), `n` times at most. -/
def State.fireDue : Nat → State → State
  | 0, s => s
  | n + 1, s =>
    match s.sched.events with
    | e :: rest =>
      if e.remaining ≤ 0 then
        State.fireDue n (State.onFire e.kind { s with sched := { s.sched with events := rest } })
      else s
    | [] => s

/-- Go on with an `advance`: fire as many times as there are events. It is not over while the front is still due, which only an event
added with 0 cycles brings about; the next step then goes on (R902, log entry 14). -/
def State.continueAdvance (s : State) : State :=
  let t := State.fireDue s.sched.events.length s
  { t with advancing := t.sched.due }

/-- `advance(step)` (R901). -/
def State.advanceEvents (step : Int) (s : State) : State := State.continueAdvance { s with sched := s.sched.elapse step }

/-! ### Register windows (R911) -/

inductive Device where
  | mi
  | vi
  | ai
  | pi
  | ri
  | si
deriving DecidableEq, Repr

/-- The number of slots of a block (R920 to R965). -/
def Device.slots : Device → Nat
  | .mi => 4
  | .vi => 14
  | .ai => 6
  | .pi => 13
  | .ri => 8
  | .si => 7

/-- A word of a small register array. -/
def slotGet {n : Nat} (v : Vector Word n) (i : Nat) : Word := v[i]?.getD 0#32

/-- MI_MODE as read (R920). -/
def Mi.mode (m : Mi) : Word :=
  m.initLength.setWidth 32 ||| (boolBit 32 m.initMode <<< 7) ||| (boolBit 32 m.ebusTest <<< 8) ||| (boolBit 32 m.rdramReg <<< 9)

/-- The read behaviour of MI's slots (R920). -/
def State.miRead (i : Nat) (s : State) : Word :=
  match i with
  | 0 => s.mi.mode
  | 1 => s.cfg.miVersion
  | 2 => s.mi.intr.setWidth 32
  | 3 => s.mi.mask.setWidth 32
  | _ => slotGet s.mi.raw i

/-- The read behaviour of VI's slots (R930). -/
def State.viRead (i : Nat) (s : State) : Word :=
  match i with
  | 0 => s.vi.ctrl
  | 1 => s.vi.origin
  | 2 => s.vi.width
  | 3 => s.vi.vIntr
  | 4 => s.vi.vCurrent.setWidth 32
  | 5 => s.vi.burst
  | 6 => s.vi.vSync
  | 7 => s.vi.hSync
  | 8 => s.vi.hSyncLeap
  | 9 => s.vi.hVideo
  | 10 => s.vi.vVideo
  | 11 => s.vi.vBurst
  | 12 => s.vi.xScale
  | 13 => s.vi.yScale
  | _ => slotGet s.vi.raw i

/-- AI_STATUS: full in bits 31 and 0, busy in bit 30, ones in bits 24 and 20 (R940). -/
def Ai.status (a : Ai) : Word :=
  (boolBit 32 a.next.isSome <<< 31) ||| (boolBit 32 a.cur.isSome <<< 30) ||| 0x01100000#32 ||| boolBit 32 a.next.isSome

/-- The read behaviour of AI's slots: every offset but AI_STATUS reads AI_LEN (R940). -/
def State.aiRead (elapsed : Int) (i : Nat) (s : State) : Word :=
  if i = 3 then s.ai.status else s.aiRemaining elapsed

/-- PI_STATUS as read: bit 0 DMA busy, bit 3 MI_INTR.PI (R950). -/
def State.piStatus (s : State) : Word :=
  boolBit 32 s.pi.cur.isSome ||| (boolBit 32 (bit s.mi.intr 4) <<< 3)

/-- The read behaviour of PI's slots (R950). -/
def State.piRead (i : Nat) (s : State) : Word :=
  match i with
  | 0 => s.pi.dram
  | 1 => s.pi.cart
  | 2 => 0x7F#32
  | 3 => 0x7F#32
  | 4 => s.piStatus
  | i => slotGet s.pi.domain (i - 5)

/-- SI_STATUS as read: bit 0 DMA busy, bit 12 MI_INTR.SI (R965). -/
def State.siStatus (s : State) : Word :=
  boolBit 32 s.si.cur.isSome ||| (boolBit 32 (bit s.mi.intr 1) <<< 12)

/-- The read behaviour of SI's slots (R965). -/
def State.siRead (i : Nat) (s : State) : Word :=
  match i with
  | 0 => s.si.dram
  | 6 => s.siStatus
  | i => slotGet s.si.raw i

/-- The read behaviour of RI's slots: raw, but RI_RERROR reads 0 (R960). -/
def State.riRead (i : Nat) (s : State) : Word :=
  if i = 6 then 0#32 else slotGet s.ri.raw i

/-- `read_reg` of slot `i` (R911). -/
def State.slotRead (elapsed : Int) (d : Device) (i : Nat) (s : State) : Word :=
  match d with
  | .mi => s.miRead i
  | .vi => s.viRead i
  | .ai => s.aiRead elapsed i
  | .pi => s.piRead i
  | .ri => s.riRead i
  | .si => s.siRead i

/-- One set/clear pair of a MI_MASK write: bit 2k clears, bit 2k+1 sets, set wins (R920, D65). -/
def maskCommand (v : Word) (k : Nat) (m : BitVec 6) : BitVec 6 :=
  let m := if bit v (2 * k) then setBit m k false else m
  if bit v (2 * k + 1) then setBit m k true else m

/-- A MI_MASK write: the six pairs (R920). -/
def maskWrite (v : Word) (m : BitVec 6) : BitVec 6 :=
  maskCommand v 5 (maskCommand v 4 (maskCommand v 3 (maskCommand v 2 (maskCommand v 1 (maskCommand v 0 m)))))

/-- A bit of MI_MODE by its clear and set command bits. Where a write has both, set wins: DESIGN CHOICE, the spec does not say (log entry
33). -/
def modeBit (v : Word) (clear set : Nat) (old : Bool) : Bool := bit v set || (old && !bit v clear)

/-- A MI_MODE write (R920, D100). -/
def State.miModeWrite (v : Word) (s : State) : State :=
  let s := { s with mi := { s.mi with
    initLength := bitField v 0 7
    initMode := modeBit v 7 8 s.mi.initMode
    ebusTest := modeBit v 9 10 s.mi.ebusTest
    rdramReg := modeBit v 12 13 s.mi.rdramReg } }
  if bit v 11 then s.clearMi .dp else s

/-- The write behaviour of MI's slots (R920). -/
def State.miWrite (i : Nat) (v : Word) (s : State) : State :=
  match i with
  | 0 => s.miModeWrite v
  | 3 => { s with mi := { s.mi with mask := maskWrite v s.mi.mask } }
  | _ => s

/-- The write behaviour of VI's slots: every value is ANDed with its mask (R930). -/
def State.viWrite (i : Nat) (v : Word) (s : State) : State :=
  match i with
  | 0 => { s with vi := { s.vi with ctrl := v &&& 0x0001FFFF#32 } }
  | 1 => { s with vi := { s.vi with origin := v &&& 0x00FFFFFF#32 } }
  | 2 => { s with vi := { s.vi with width := v &&& 0x00000FFF#32 } }
  | 3 => { s with vi := { s.vi with vIntr := v &&& 0x000003FF#32 } }
  | 4 => s.clearMi .vi
  | 5 => { s with vi := { s.vi with burst := v &&& 0x3FFFFFFF#32 } }
  | 6 => { s with vi := { s.vi with vSync := v &&& 0x000003FF#32 } }
  | 7 => { s with vi := { s.vi with hSync := v &&& 0x001F0FFF#32 } }
  | 8 => { s with vi := { s.vi with hSyncLeap := v &&& 0x0FFF0FFF#32 } }
  | 9 => { s with vi := { s.vi with hVideo := v &&& 0x03FF03FF#32 } }
  | 10 => { s with vi := { s.vi with vVideo := v &&& 0x03FF03FF#32 } }
  | 11 => { s with vi := { s.vi with vBurst := v &&& 0x03FF03FF#32 } }
  | 12 => { s with vi := { s.vi with xScale := v &&& 0x0FFF0FFF#32 } }
  | 13 => { s with vi := { s.vi with yScale := v &&& 0x0FFF0FFF#32 } }
  | _ => s

/-- The write behaviour of AI's slots (R940). -/
def State.aiWrite (elapsed : Int) (i : Nat) (v : Word) (s : State) : Res Unit :=
  match i with
  | 0 => .ok () { s with ai := { s.ai with addr := v &&& 0x00FFFFF8#32 } }
  | 1 => s.aiRequest elapsed (v &&& 0x0003FFF8#32)
  | 2 => .ok () { s with ai := { s.ai with enable := bit v 0 } }
  | 3 => .ok () (s.clearMi .ai)
  | 4 => .ok () { s with ai := { s.ai with dacrate := bitField v 0 14 } }
  | 5 => .ok () { s with ai := { s.ai with bitrate := bitField v 0 4 } }
  | _ => .ok () s

/-- The mask of a BSD_DOM register by its place 0 to 7 (R950). -/
def piDomainMask (j : Nat) : Word :=
  match j % 4 with
  | 0 => 0xFF#32
  | 1 => 0xFF#32
  | 2 => 0xF#32
  | _ => 0x3#32

/-- The write behaviour of PI's slots (R950, D98). -/
def State.piWrite (elapsed : Int) (i : Nat) (v : Word) (s : State) : Res Unit :=
  match i with
  | 0 => .ok () { s with pi := { s.pi with dram := v &&& 0x00FFFFFE#32 } }
  | 1 => .ok () { s with pi := { s.pi with cart := v &&& 0xFFFFFFFE#32 } }
  | 2 => s.piRequest elapsed .toCart ((v &&& 0x00FFFFFF#32).toNat + 1)
  | 3 => s.piRequest elapsed .toRdram ((v &&& 0x00FFFFFF#32).toNat + 1)
  | 4 => .ok () (if bit v 1 then s.clearMi .pi else s)
  | i => .ok () { s with pi := { s.pi with domain := s.pi.domain.setIfInBounds (i - 5) (v &&& piDomainMask (i - 5)) } }

/-- The write behaviour of SI's slots (R965). -/
def State.siWrite (elapsed : Int) (i : Nat) (v : Word) (s : State) : Res Unit :=
  match i with
  | 0 => .ok () { s with si := { s.si with dram := v &&& 0x00FFFFFF#32 } }
  | 1 => s.siRequest elapsed .pifToRdram
  | 4 => s.siRequest elapsed .rdramToPif
  | 6 => .ok () (s.clearMi .si)
  | _ => .ok () s

/-- `write_reg` of slot `i`: the raw slot takes the value, then the slot's behaviour (R911). -/
def State.slotWrite (elapsed : Int) (d : Device) (i : Nat) (v : Word) (s : State) : Res Unit :=
  match d with
  | .mi => .ok () (State.miWrite i v { s with mi := { s.mi with raw := s.mi.raw.setIfInBounds i v } })
  | .vi => .ok () (State.viWrite i v { s with vi := { s.vi with raw := s.vi.raw.setIfInBounds i v } })
  | .ai => State.aiWrite elapsed i v { s with ai := { s.ai with raw := s.ai.raw.setIfInBounds i v } }
  | .pi => State.piWrite elapsed i v { s with pi := { s.pi with raw := s.pi.raw.setIfInBounds i v } }
  | .ri => .ok () { s with ri := { s.ri with raw := s.ri.raw.setIfInBounds i v } }
  | .si => State.siWrite elapsed i v { s with si := { s.si with raw := s.si.raw.setIfInBounds i v } }

/-- The slot of a physical address in a device's 1 MiB window, or none beyond the block (R911, D64). DESIGN CHOICE, unsafe: an address that
is not word-aligned names the slot it lies in. R908 and R911 speak of word-aligned addresses only; the CPU's accesses come with aligned
ones (D9), so only the host's read_reg and write_reg can give another (log entry 37). -/
def slotIndex (mirroring : Bool) (d : Device) (pa : Word) : Option Nat :=
  let i := pa.toNat % 0x100000 / 4
  if i < d.slots then some i else if mirroring then some (i % d.slots) else none

/-- `read_reg(pa)` (R911). -/
def State.readReg (elapsed : Int) (d : Device) (pa : Word) (s : State) : Res Word :=
  match slotIndex s.cfg.deviceMirroring d pa with
  | some i => .ok (s.slotRead elapsed d i) s
  | none => .refuse .deviceOffset

/-- `write_reg(pa, v)` (R911). -/
def State.writeReg (elapsed : Int) (d : Device) (pa v : Word) (s : State) : Res Unit :=
  match slotIndex s.cfg.deviceMirroring d pa with
  | some i => s.slotWrite elapsed d i v
  | none => .refuse .deviceOffset

end Sys2Proof.Machine
end

