-- ==== Sys2Proof/Machine/Bus.lean ====
section
/-! DEFINITION. The physical bus: the address map and the accesses that are routed by it (`20_memory.md` R201, R210, R230 to R233, R247;
D9, D10, D11, D68, D81). -/

namespace Sys2Proof.Machine

/-- The regions of the physical address map (R230). -/
inductive Region where
  | rdram
  | openBus
  | collab (c : Collaborator)
  | device (d : Device)
  | cart
  | pifRom
  | pifRam
deriving DecidableEq, Repr

/-- The region of a physical address (R230). -/
def route (size : RdramSize) (pa : Word) : Region :=
  let p := pa.toNat
  if p < rdramBytes size then .rdram
  else if p < 0x03F00000 then .openBus
  else if p < 0x04000000 then .collab .rdramRegs
  else if p < 0x04002000 then .collab .rsp
  else if p < 0x04040000 then .openBus
  else if p < 0x04100000 then .collab .rsp
  else if p < 0x04300000 then .collab .rdp
  else if p < 0x04400000 then .device .mi
  else if p < 0x04500000 then .device .vi
  else if p < 0x04600000 then .device .ai
  else if p < 0x04700000 then .device .pi
  else if p < 0x04800000 then .device .ri
  else if p < 0x04900000 then .device .si
  else if p < 0x05000000 then .openBus
  else if p < 0x1FC00000 then .cart
  else if p < 0x1FC007C0 then .pifRom
  else if p < 0x1FC00800 then .pifRam
  else if p < 0x1FD00000 then .openBus
  else if p < 0x80000000 then .cart
  else .openBus

/-- The windows of devices, RSP, RDP and RDRAM registers: those of ruling D81. -/
def Region.isWindow : Region → Bool
  | .collab _ | .device _ => true
  | _ => false

/-- The region of a physical address of this machine. -/
def State.region (pa : Word) (s : State) : Region := route s.cfg.rdramSize pa

/-- `BUS_ERROR(pa, kind)` (D12, log entry 5). -/
def busError (cfg : Config) (pa : Word) (kind : AccessKind) : Bool :=
  cfg.busErrors.any (fun r => decide (r.kind = kind ∧ r.first ≤ pa.toNat ∧ pa.toNat ≤ r.last))

/-! ### Bytes -/

/-- `n` bytes of the cartridge, one `CART_READ` each (R233). -/
def State.cartReadBytes (pa : Word) : Nat → State → List Byte × State
  | 0, s => ([], s)
  | n + 1, s =>
    let b := s.cartRead s.elapsed pa
    let r := State.cartReadBytes (pa + 1#32) n b.2
    (b.1 :: r.1, r.2)

/-- The selected bytes to the cartridge, one `CART_WRITE` each (R233, log entry 16). -/
def State.cartWriteBytes (pa : Word) : List (Option Byte) → State → State
  | [], s => s
  | none :: bs, s => State.cartWriteBytes (pa + 1#32) bs s
  | some b :: bs, s => State.cartWriteBytes (pa + 1#32) bs (s.cartWrite s.elapsed pa b)

/-- Write the selected bytes from `a` up (R551). -/
def Memory.writeSome (m : Memory) (a : Nat) : List (Option Byte) → Memory
  | [] => m
  | none :: bs => Memory.writeSome m (a + 1) bs
  | some b :: bs => Memory.writeSome (Memory.write m a b) (a + 1) bs

/-- `n` bytes of `OPEN_BUS(pa, n)`, most significant first (D11). -/
def openBusBytes (cfg : Config) (pa : Word) (n : Nat) : List Byte := bytesOf (openBusValue cfg pa.toNat n) n

/-! ### Windows that take 32-bit accesses (D9) -/

/-- One 32-bit read of a window's word. -/
def State.windowRead (r : Region) (pa : Word) (s : State) : Res Word :=
  match r with
  | .device d => s.readReg s.elapsed d pa
  | .collab c =>
    let reply := s.collabRead c pa
    .ok reply.1 reply.2
  | _ => .ok 0#32 s

/-- One 32-bit write to a window's word. -/
def State.windowWrite (r : Region) (pa v : Word) (s : State) : Res Unit :=
  match r with
  | .device d => s.writeReg s.elapsed d pa v
  | .collab c => .ok () (s.collabWrite c pa v)
  | _ => .ok () s

/-- The addressed bytes of a word, big-endian (D9). -/
def selectBytes (w pa : Word) (n : Nat) : List Byte := ((bytesOf (zext32 w) 4).drop (pa.toNat % 4)).take n

/-- A read of `n` bytes of a window, composed of 32-bit reads (D9, R233). DESIGN CHOICE, unsafe: of the two reads of a doubleword the upper
word's, at the lower address, is made first; D9 and R233 name both and give no order (log entry 38). -/
def State.windowReadBytes (r : Region) (pa : Word) (n : Nat) (s : State) : Res (List Byte) :=
  if n = 8 then
    (s.windowRead r (pa &&& 0xFFFFFFF8#32)).bind fun hi s =>
    (s.windowRead r ((pa &&& 0xFFFFFFF8#32) + 4#32)).bind fun lo s =>
    .ok (bytesOf (zext32 hi) 4 ++ bytesOf (zext32 lo) 4) s
  else
    (s.windowRead r (pa &&& 0xFFFFFFFC#32)).bind fun w s =>
    .ok (selectBytes w pa n) s

/-- The bytes a store carries, if it is a whole 32-bit store. -/
def wholeWord (whole : Bool) (bs : List (Option Byte)) : Option Word :=
  match whole, bs with
  | true, [some a, some b, some c, some d] => some (a ++ b ++ c ++ d)
  | _, _ => none

/-! ### PhysRead and PhysWrite -/

/-- `PhysRead(pa, n)` as bytes from the lowest address up (R230). -/
def physRead (pa : Word) (n : Nat) (s : State) : Res (List Byte) :=
  match s.region pa with
  | .rdram | .pifRom | .pifRam => .ok (s.mem.readBytes pa.toNat n) s
  | .openBus => .ok (openBusBytes s.cfg pa n) s
  | .cart =>
    let r := s.cartReadBytes pa n
    .ok r.1 r.2
  | r => s.windowReadBytes r pa n

/-- `PhysWrite(pa, n, v)`: the selected bytes from `pa` up; `whole` is false for a masked write (R230, R551). -/
def physWrite (whole : Bool) (pa : Word) (bs : List (Option Byte)) (s : State) : Res Unit :=
  match s.region pa with
  | .rdram | .pifRam => .ok () { s with mem := s.mem.writeSome pa.toNat bs }
  | .pifRom | .openBus => .ok () s
  | .cart => .ok () (s.cartWriteBytes pa bs)
  | r =>
    match wholeWord whole bs with
    | some v => s.windowWrite r pa v
    | none => .refuse .windowStoreWidth

/-- The bytes of a line whose range no region claims: one `OPEN_BUS` byte each (log entry 22). -/
def openBusLine (cfg : Config) (pa : Word) : Nat → List Byte
  | 0 => []
  | n + 1 => openBusBytes cfg pa 1 ++ openBusLine cfg (pa + 1#32) n

/-- `PhysRead-bytes` of a line (R247, D81). BUS_ERROR is not tested at the line's addresses: DESIGN CHOICE, the spec does not say whether
it is (log entry 31). -/
def lineRead (pa : Word) (n : Nat) (s : State) : Res (List Byte) :=
  match s.region pa with
  | .rdram | .pifRom | .pifRam => .ok (s.mem.readBytes pa.toNat n) s
  | .openBus => .ok (openBusLine s.cfg pa n) s
  | .cart =>
    let r := s.cartReadBytes pa n
    .ok r.1 r.2
  | _ => .refuse .cachedWindow

/-- `PhysWrite-bytes` of a line (R247, D81). BUS_ERROR is not tested at the line's addresses: DESIGN CHOICE (log entry 31). -/
def lineWrite (pa : Word) (bs : List Byte) (s : State) : Res Unit :=
  match s.region pa with
  | .rdram | .pifRam => .ok () { s with mem := s.mem.writeSome pa.toNat (bs.map some) }
  | .pifRom | .openBus => .ok () s
  | .cart => .ok () (s.cartWriteBytes pa (bs.map some))
  | _ => .refuse .cachedWindow

end Sys2Proof.Machine
end

