-- ==== Sys2Proof/Machine/Cache.lean ====
section
/-! DEFINITION. The caches and the operations of the CACHE instruction on lines (`20_memory.md` R240 to R250; `43_loadstore.md` R584 to
R595). -/

namespace Sys2Proof.Machine

/-- `ii(pa)` (R241). -/
def iIndex (pa : Word) : Fin 512 := (bitField pa 5 9).toFin

/-- `di(pa)` (R241). -/
def dIndex (pa : Word) : Fin 512 := (bitField pa 4 9).toFin

/-- `t(pa)` (R241). -/
def cacheTag (pa : Word) : BitVec 20 := bitField pa 12 20

/-- The instruction line of an address. -/
def State.iLine (pa : Word) (s : State) : ILine := s.icache[(iIndex pa).val]

/-- The data line of an address. -/
def State.dLine (pa : Word) (s : State) : DLine := s.dcache[(dIndex pa).val]

/-- Replace the instruction line of an address. -/
def State.setILine (pa : Word) (l : ILine) (s : State) : State := { s with icache := s.icache.set (iIndex pa).val l }

/-- Replace the data line of an address. -/
def State.setDLine (pa : Word) (l : DLine) (s : State) : State := { s with dcache := s.dcache.set (dIndex pa).val l }

/-- A line hits when it is valid and its tag is the address's (R241). -/
def ILine.hits (pa : Word) (l : ILine) : Bool := l.valid && decide (l.tag = cacheTag pa)

/-- A line hits when it is valid and its tag is the address's (R241). -/
def DLine.hits (pa : Word) (l : DLine) : Bool := l.valid && decide (l.tag = cacheTag pa)

/-- A line's data from a list of bytes. -/
def lineData (n : Nat) (bs : List Byte) : Vector Byte n := ⟨⟨(bs ++ List.replicate n 0#8).take n⟩, by simp⟩

/-- The first address of an instruction line, `pa & ~31` (R242). -/
def iLineBase (pa : Word) : Word := pa &&& 0xFFFFFFE0#32

/-- The first address of a data line, `pa & ~15` (R243). -/
def dLineBase (pa : Word) : Word := pa &&& 0xFFFFFFF0#32

/-- `(L.tag << 12) | (di(pa) << 4)`, where a data line is written back (R243, R585). -/
def dWritebackAddress (pa : Word) (l : DLine) : Word := (l.tag ++ 0#12) ||| ((bitField pa 4 9).setWidth 32 <<< 4)

/-- `(L.tag << 12) | (ii(pa) << 5)`, where an instruction line is written back (R595). -/
def iWritebackAddress (pa : Word) (l : ILine) : Word := (l.tag ++ 0#12) ||| ((bitField pa 5 9).setWidth 32 <<< 5)

/-- `n` bytes of a line from an offset up. -/
def lineBytes {k : Nat} (d : Vector Byte k) (off n : Nat) : List Byte := (d.toList.drop off).take n

/-- Put the selected bytes over a list of bytes. -/
def overlay : List (Option Byte) → List Byte → List Byte
  | [], ds => ds
  | _, [] => []
  | none :: bs, d :: ds => d :: overlay bs ds
  | some b :: bs, _ :: ds => b :: overlay bs ds

/-- The data of a line after a store at an offset (R245). -/
def lineStore {k : Nat} (d : Vector Byte k) (off : Nat) (bs : List (Option Byte)) : Vector Byte k :=
  lineData k (d.toList.take off ++ overlay bs (d.toList.drop off))

/-- Write a data line back to memory (R243, R585). -/
def writeBack (pa : Word) (s : State) : Res Unit :=
  (lineWrite (dWritebackAddress pa (s.dLine pa)) (s.dLine pa).data.toList s).bind fun _ s =>
  .ok () (s.addCycles s.cfg.costs.dcacheWriteback)

/-- Write a data line back if it is valid, dirty and `also` holds. -/
def writeBackIf (also : Bool) (pa : Word) (s : State) : Res Unit :=
  if (s.dLine pa).valid && (s.dLine pa).dirty && also then writeBack pa s else .ok () s

/-- Read an instruction line from memory: the data of R242 and R594. -/
def iFill (pa : Word) (s : State) : Res Unit :=
  (lineRead (iLineBase pa) 32 s).bind fun bs s =>
  .ok () ((s.setILine pa ⟨true, cacheTag pa, lineData 32 bs⟩).addCycles s.cfg.costs.icacheMiss)

/-- A cacheable instruction fetch makes the line present (R242); a line in a window is refused, whether it hits or not (R210, D81). -/
def iEnsure (pa : Word) (s : State) : Res Unit :=
  if (s.region pa).isWindow then .refuse .cachedWindow
  else if (s.iLine pa).hits pa then .ok () (s.addCycles s.cfg.costs.icacheHit) else iFill pa s

/-- A cacheable instruction fetch (R242). -/
def cachedFetch (pa : Word) (s : State) : Res (List Byte) :=
  (iEnsure pa s).bind fun _ s => .ok (lineBytes (s.iLine pa).data (pa.toNat % 32) 4) s

/-- `DFill(pa)` (R243). -/
def dFill (pa : Word) (s : State) : Res Unit :=
  (writeBackIf true pa s).bind fun _ s =>
  (lineRead (dLineBase pa) 16 s).bind fun bs s =>
  .ok () (s.setDLine pa ⟨true, false, cacheTag pa, lineData 16 bs⟩)

/-- A cacheable data access makes the line present (R244, R245); a line in a window is refused, whether it hits or not (R210, D81). -/
def dEnsure (pa : Word) (s : State) : Res Unit :=
  if (s.region pa).isWindow then .refuse .cachedWindow
  else if (s.dLine pa).hits pa then .ok () (s.addCycles s.cfg.costs.dcacheHit)
  else (dFill pa s).bind fun _ s => .ok () (s.addCycles s.cfg.costs.dcacheMiss)

/-- A cacheable data load (R244). -/
def cachedLoad (pa : Word) (n : Nat) (s : State) : Res (List Byte) :=
  (dEnsure pa s).bind fun _ s => .ok (lineBytes (s.dLine pa).data (pa.toNat % 16) n) s

/-- A data line after a store (R245). -/
def DLine.stored (pa : Word) (bs : List (Option Byte)) (l : DLine) : DLine :=
  { l with dirty := true, data := lineStore l.data (pa.toNat % 16) bs }

/-- A cacheable data store (R245, R551). -/
def cachedStore (pa : Word) (bs : List (Option Byte)) (s : State) : Res Unit :=
  (dEnsure pa s).bind fun _ s => .ok () (s.setDLine pa ((s.dLine pa).stored pa bs))

/-- `UNCACHED_CYCLES(n)` (R246). -/
def uncachedCycles (c : CacheCosts) (n : Nat) : Nat :=
  match n with
  | 1 => c.uncached1
  | 2 => c.uncached2
  | 4 => c.uncached4
  | _ => c.uncached8

/-- What an uncached access costs: in a device window `UNCACHED_CYCLES(4)` for each register access (R246, R911, log entry 19). -/
def State.uncachedCost (pa : Word) (n : Nat) (s : State) : Nat :=
  match s.region pa with
  | .device _ => if n = 8 then 2 * s.cfg.costs.uncached4 else s.cfg.costs.uncached4
  | _ => uncachedCycles s.cfg.costs n

/-- An uncached load or fetch (R246). -/
def uncachedLoad (pa : Word) (n : Nat) (s : State) : Res (List Byte) :=
  physRead pa n (s.addCycles (s.uncachedCost pa n))

/-- An uncached store (R246). -/
def uncachedStore (whole : Bool) (pa : Word) (bs : List (Option Byte)) (s : State) : Res Unit :=
  physWrite whole pa bs (s.addCycles (s.uncachedCost pa bs.length))

/-! ### CACHE operations -/

/-- `cop0.TagLo` of a line (R586, D52). -/
def tagLoOf (tag : BitVec 20) (valid dirty : Bool) : Word :=
  (tag.setWidth 32 <<< 8) ||| (boolBit 32 valid <<< 7) ||| (boolBit 32 dirty <<< 6)

/-- Set `cop0.TagLo`. -/
def State.setTagLo (w : Word) (s : State) : State := { s with cop0 := { s.cop0 with tagLo := w } }

/-- I-cache Index_Invalidate (R587). -/
def iIndexInvalidate (pa : Word) (s : State) : State := s.setILine pa { s.iLine pa with valid := false }

/-- I-cache Index_Load_Tag (R586). -/
def iIndexLoadTag (pa : Word) (s : State) : State := s.setTagLo (tagLoOf (s.iLine pa).tag (s.iLine pa).valid false)

/-- I-cache Index_Store_Tag (R588). -/
def iIndexStoreTag (pa : Word) (s : State) : State :=
  s.setILine pa { s.iLine pa with tag := bitField s.cop0.tagLo 8 20, valid := bit s.cop0.tagLo 7 }

/-- I-cache Hit_Invalidate (R591). -/
def iHitInvalidate (pa : Word) (s : State) : State :=
  if (s.iLine pa).hits pa then s.setILine pa { s.iLine pa with valid := false } else s

/-- I-cache Hit_Write_Back (R595). -/
def iHitWriteBack (pa : Word) (s : State) : Res Unit :=
  if (s.iLine pa).hits pa then
    (lineWrite (iWritebackAddress pa (s.iLine pa)) (s.iLine pa).data.toList s).bind fun _ s =>
    .ok () (s.addCycles s.cfg.costs.dcacheWriteback)
  else .ok () s

/-- Make a data line neither valid nor dirty. -/
def dInvalidate (pa : Word) (s : State) : State := s.setDLine pa { s.dLine pa with valid := false, dirty := false }

/-- D-cache Index_Write_Back_Invalidate (R589). -/
def dIndexWriteBackInvalidate (pa : Word) (s : State) : Res Unit :=
  (writeBackIf true pa s).bind fun _ s => .ok () (dInvalidate pa s)

/-- D-cache Index_Load_Tag (R586). -/
def dIndexLoadTag (pa : Word) (s : State) : State :=
  s.setTagLo (tagLoOf (s.dLine pa).tag (s.dLine pa).valid (s.dLine pa).dirty)

/-- D-cache Index_Store_Tag (R588). -/
def dIndexStoreTag (pa : Word) (s : State) : State :=
  s.setDLine pa { s.dLine pa with
    tag := bitField s.cop0.tagLo 8 20
    valid := bit s.cop0.tagLo 7
    dirty := bit s.cop0.tagLo 6 }

/-- D-cache Create_Dirty_Exclusive (R590). -/
def dCreateDirtyExclusive (pa : Word) (s : State) : Res Unit :=
  (writeBackIf (decide ((s.dLine pa).tag ≠ cacheTag pa)) pa s).bind fun _ s =>
  .ok () (s.setDLine pa { s.dLine pa with tag := cacheTag pa, valid := true, dirty := true })

/-- D-cache Hit_Invalidate (R591). -/
def dHitInvalidate (pa : Word) (s : State) : State := if (s.dLine pa).hits pa then dInvalidate pa s else s

/-- D-cache Hit_Write_Back_Invalidate (R592). -/
def dHitWriteBackInvalidate (pa : Word) (s : State) : Res Unit :=
  if (s.dLine pa).hits pa then (writeBackIf true pa s).bind fun _ s => .ok () (dInvalidate pa s) else .ok () s

/-- D-cache Hit_Write_Back (R593). -/
def dHitWriteBack (pa : Word) (s : State) : Res Unit :=
  if (s.dLine pa).hits pa then
    (writeBackIf true pa s).bind fun _ s => .ok () (s.setDLine pa { s.dLine pa with dirty := false })
  else .ok () s

/-- `CacheOp(op, pa)` (R585): bits 4:2 are the operation and bits 1:0 the cache; every other pair is a no-op (D50). -/
def cacheOp (op : BitVec 5) (pa : Word) (s : State) : Res Unit :=
  match op.toNat with
  | 0 => .ok () (iIndexInvalidate pa s)
  | 1 => dIndexWriteBackInvalidate pa s
  | 4 => .ok () (iIndexLoadTag pa s)
  | 5 => .ok () (dIndexLoadTag pa s)
  | 8 => .ok () (iIndexStoreTag pa s)
  | 9 => .ok () (dIndexStoreTag pa s)
  | 13 => dCreateDirtyExclusive pa s
  | 16 => .ok () (iHitInvalidate pa s)
  | 17 => .ok () (dHitInvalidate pa s)
  | 20 => iFill pa s
  | 21 => dHitWriteBackInvalidate pa s
  | 24 => iHitWriteBack pa s
  | 25 => dHitWriteBack pa s
  | _ => .ok () s

end Sys2Proof.Machine
end

