-- ==== Sys2Proof/Machine/Mmu.lean ====
section
/-! DEFINITION. Address translation: the six strategies, the segment maps and the TLB (`20_memory.md` R211 to R225; `10_state.md` R140,
R141). The strategy and the derived fields of an entry are functions of `Status` and of the entry's mask, computed where they are
read (log entry 20). -/

namespace Sys2Proof.Machine

/-- What a segment map says of an address (R218). -/
inductive Place where
  | addressError
  | unmapped (pa : Word) (cacheable : Bool)
  | mapped
deriving DecidableEq, Repr

/-- Config.K0 makes kseg0 and ckseg0 cacheable unless it is 2 (R129, D38). -/
def State.kseg0Cacheable (s : State) : Bool := decide (bitField s.cop0.config 0 3 ≠ 2#3)

/-- Kernel-32 (R213). -/
def kernel32 (erl k0 : Bool) (u : Word) : Place :=
  if u.toNat < 0x80000000 then (if erl then .unmapped u false else .mapped)
  else if u.toNat < 0xA0000000 then .unmapped (u - 0x80000000#32) k0
  else if u.toNat < 0xC0000000 then .unmapped (u - 0xA0000000#32) false
  else .mapped

/-- Supervisor-32 (R214). -/
def supervisor32 (u : Word) : Place :=
  if u.toNat < 0x80000000 then .mapped
  else if 0xC0000000 ≤ u.toNat ∧ u.toNat < 0xE0000000 then .mapped
  else .addressError

/-- User-32 (R214). -/
def user32 (u : Word) : Place := if u.toNat < 0x80000000 then .mapped else .addressError

/-- The unmapped window xkphys (R215, D39). -/
def xkphys (a : DWord) : Place :=
  if bitField a 32 27 ≠ 0#27 then .addressError
  else .unmapped (low32 a) (decide (bitField a 59 3 ≠ 2#3))

/-- Kernel-64 (R215). -/
def kernel64 (erl k0 : Bool) (a : DWord) : Place :=
  let n := a.toNat
  if n < 0x0000010000000000 then (if erl && decide (n < 0x80000000) then .unmapped (low32 a) false else .mapped)
  else if 0x4000000000000000 ≤ n ∧ n < 0x4000010000000000 then .mapped
  else if 0x8000000000000000 ≤ n ∧ n < 0xC000000000000000 then xkphys a
  else if 0xC000000000000000 ≤ n ∧ n < 0xC00000FF80000000 then .mapped
  else if 0xFFFFFFFF80000000 ≤ n ∧ n < 0xFFFFFFFFA0000000 then .unmapped (low32 a - 0x80000000#32) k0
  else if 0xFFFFFFFFA0000000 ≤ n ∧ n < 0xFFFFFFFFC0000000 then .unmapped (low32 a - 0xA0000000#32) false
  else if 0xFFFFFFFFC0000000 ≤ n then .mapped
  else .addressError

/-- Supervisor-64 (R216). -/
def supervisor64 (a : DWord) : Place :=
  let n := a.toNat
  if n < 0x0000010000000000 then .mapped
  else if 0x4000000000000000 ≤ n ∧ n < 0x4000010000000000 then .mapped
  else if 0xFFFFFFFFC0000000 ≤ n ∧ n < 0xFFFFFFFFE0000000 then .mapped
  else .addressError

/-- User-64 (R217). -/
def user64 (a : DWord) : Place := if a.toNat < 0x0000010000000000 then .mapped else .addressError

/-- `MapOf(strategy, a)` (R211, R218); in the reserved mode no strategy exists (D4). -/
def State.mapOf (a : DWord) (s : State) : Place :=
  match s.mode with
  | .kernel => if s.kx then kernel64 s.erl s.kseg0Cacheable a else kernel32 s.erl s.kseg0Cacheable (low32 a)
  | .supervisor => if s.sx then supervisor64 a else supervisor32 (low32 a)
  | .user => if s.ux then user64 a else user32 (low32 a)
  | .reserved => .addressError

/-- The address a translation works on and an exception records (R212, R218). -/
def State.adjusted (vaddr : DWord) (s : State) : DWord := if s.is64 then vaddr else sext32 (low32 vaddr)

/-! ### TLB entries -/

/-- `pm`, the mask at its PageMask bit positions (R141). -/
def TlbEntry.pm (e : TlbEntry) : DWord := e.mask.setWidth 64 <<< 13

/-- `offset_mask` (R141). -/
def TlbEntry.offsetMask (e : TlbEntry) : DWord := (e.pm >>> 1) ||| 0xFFF#64

/-- `select_bit` (R141). -/
def TlbEntry.selectBit (e : TlbEntry) : DWord := e.offsetMask + 1#64

/-- `compare_mask` (R141). -/
def TlbEntry.compareMask (e : TlbEntry) : DWord := ~~~(e.pm ||| 0x1FFF#64) &&& 0x000000FFFFFFE000#64

/-- Whether an entry matches an address under an address-space id (R219, R633). -/
def TlbEntry.hits (is64 : Bool) (asid : BitVec 8) (a : DWord) (e : TlbEntry) : Bool :=
  let cm := if is64 then e.compareMask else e.compareMask &&& 0xFFFFE000#64
  decide (a &&& cm = (e.vpn2.setWidth 64 <<< 13) &&& cm)
    && (!is64 || decide (bitField a 62 2 = e.r))
    && (e.g || decide (e.asid = asid))

/-- The first entry, from index `i` up, that satisfies `p` (R219, D41). -/
def firstEntry (p : TlbEntry → Bool) : Nat → List TlbEntry → Option (Nat × TlbEntry)
  | _, [] => none
  | i, e :: es => if p e then some (i, e) else firstEntry p (i + 1) es

/-- EntryHi.ASID (R122). -/
def State.asid (s : State) : BitVec 8 := bitField s.cop0.entryHi 0 8

/-- The entry a lookup of `a` uses (R219, D41). -/
def State.tlbFind (a : DWord) (asid : BitVec 8) (s : State) : Option (Nat × TlbEntry) :=
  firstEntry (TlbEntry.hits s.is64 asid a) 0 s.tlb.toList

/-- The half of an entry that `a` selects (R219). -/
def TlbEntry.half (a : DWord) (e : TlbEntry) : TlbHalf := if a &&& e.selectBit ≠ 0#64 then e.lo1 else e.lo0

/-- The physical address of `a` through an entry's half (R219, D44). -/
def TlbEntry.physical (a : DWord) (e : TlbEntry) : Word :=
  low32 ((((e.half a).pfn.setWidth 64 <<< 12) &&& ~~~e.offsetMask) ||| (a &&& e.offsetMask))

/-! ### Translation -/

/-- An address error of an access (R218). -/
def addressError (kind : AccessKind) (a : DWord) : Exc :=
  match kind with
  | .store => .ades a
  | _ => .adel a

/-- A TLB miss or invalid entry of an access (R219, R220). -/
def tlbError (kind : AccessKind) (a : DWord) (refill xtlb : Bool) : Exc :=
  match kind with
  | .store => .tlbs a refill xtlb
  | _ => .tlbl a refill xtlb

/-- `TlbLookup(a, kind)` (R219). -/
def tlbLookup (a : DWord) (kind : AccessKind) (s : State) : Res (Word × Bool) :=
  match s.tlbFind a s.asid with
  | none => .raise (tlbError kind a true s.is64) s
  | some (_, e) =>
    if !(e.half a).v then .raise (tlbError kind a false false) s
    else if decide (kind = .store) && !(e.half a).d then .raise (.mod a) s
    else .ok (e.physical a, decide ((e.half a).c ≠ 2#3)) s

/-- Whether `ADDR32_STRICT` makes this address an address error (R212, D3). -/
def State.strictError (vaddr : DWord) (s : State) : Bool :=
  s.cfg.addr32Strict && !s.is64 && decide (s.adjusted vaddr ≠ vaddr)

/-- `Translate(vaddr, kind)` (R218): the physical address and whether the page is cacheable. -/
def translate (vaddr : DWord) (kind : AccessKind) (s : State) : Res (Word × Bool) :=
  if s.mode = .reserved then .refuse .reservedMode
  else if s.strictError vaddr then .raise (addressError kind (s.adjusted vaddr)) s
  else
    match s.mapOf (s.adjusted vaddr) with
    | .addressError => .raise (addressError kind (s.adjusted vaddr)) s
    | .unmapped pa c => .ok (pa, c) s
    | .mapped => tlbLookup (s.adjusted vaddr) kind s

end Sys2Proof.Machine
end

