-- ==== Sys2Proof/Machine/Access.lean ====
section
/-! DEFINITION. `MemRead`, `MemWrite`, the masked write and `FetchWord` (`00_scope.md` R16; `43_loadstore.md` R550, R551, R596;
`42_control.md` R503; `20_memory.md` R204 to R207). -/

namespace Sys2Proof.Machine

/-- The states in which the spec refuses every access (D4, D6, log entry 17). -/
def accessAllowed (s : State) : Res Unit :=
  match s.mode with
  | .reserved => .refuse .reservedMode
  | .user => if s.re then .refuse .reverseEndianUser else .ok () s
  | _ => .ok () s

/-- Natural alignment (R204, R206); the exception records the address of R212. -/
def checkAligned (kind : AccessKind) (vaddr : DWord) (n : Nat) (s : State) : Res Unit :=
  if vaddr.toNat % n = 0 then .ok () s else .raise (addressError kind (s.adjusted vaddr)) s

/-- Whether the watch registers match an access (R596). -/
def State.watchHits (kind : AccessKind) (pa : Word) (s : State) : Bool :=
  s.cfg.watchEnabled && !s.exl && !s.erl
    && ((decide (kind = .load) && bit s.cop0.watchLo 1) || (decide (kind = .store) && bit s.cop0.watchLo 0))
    && decide (bitField pa 3 29 = bitField s.cop0.watchLo 3 29)

/-- Steps (4) and (5) of R550: the watch check, then the bus error. -/
def dataChecks (kind : AccessKind) (pa : Word) (s : State) : Res Unit :=
  if s.watchHits kind pa then .raise .watch s
  else if busError s.cfg pa kind then .raise .dbe s
  else .ok () s

/-- Steps (4) to (6) of R550 for a load. -/
def loadAt (pa : Word) (cacheable : Bool) (n : Nat) (s : State) : Res (List Byte) :=
  (dataChecks .load pa s).bind fun _ s => if cacheable then cachedLoad pa n s else uncachedLoad pa n s

/-- Steps (4) to (6) of R550 for a store. -/
def storeAt (whole : Bool) (pa : Word) (cacheable : Bool) (bs : List (Option Byte)) (s : State) : Res Unit :=
  (dataChecks .store pa s).bind fun _ s => if cacheable then cachedStore pa bs s else uncachedStore whole pa bs s

/-- Steps (2) and (3) of R550: where an access of `n` bytes goes. -/
def locate (kind : AccessKind) (vaddr : DWord) (n : Nat) (s : State) : Res (Word × Bool) :=
  (accessAllowed s).bind fun _ s =>
  (checkAligned kind vaddr n s).bind fun _ s =>
  translate vaddr kind s

/-- `MemRead(vaddr, n)` with the physical address it used (R16, R550). -/
def memReadPa (vaddr : DWord) (n : Nat) (s : State) : Res (Word × DWord) :=
  (locate .load vaddr n s).bind fun p s =>
  (loadAt p.1 p.2 n s).bind fun bs s => .ok (p.1, ofBytes bs) s

/-- `MemRead(vaddr, n)` (R16, R550). -/
def memRead (vaddr : DWord) (n : Nat) (s : State) : Res DWord :=
  (memReadPa vaddr n s).bind fun r s => .ok r.2 s

/-- The bytes a whole store of `n` bytes writes (R201). -/
def wholeBytes (n : Nat) (v : DWord) : List (Option Byte) := (bytesOf v n).map some

/-- `MemWrite(vaddr, n, v)` (R16, R550). -/
def memWrite (vaddr : DWord) (n : Nat) (v : DWord) (s : State) : Res Unit :=
  (locate .store vaddr n s).bind fun p s => storeAt true p.1 p.2 (wholeBytes n v) s

/-- The bytes of `v` whose mask byte is 0xFF (R551). -/
def maskedBytes (n : Nat) (v m : DWord) : List (Option Byte) :=
  List.zipWith (fun b k => if k = 0xFF#8 then some b else none) (bytesOf v n) (bytesOf m n)

/-- `MemWriteMasked(aw, n, v, m)` (R551). -/
def memWriteMasked (vaddr : DWord) (n : Nat) (v m : DWord) (s : State) : Res Unit :=
  (locate .store vaddr n s).bind fun p s => storeAt false p.1 p.2 (maskedBytes n v m) s

/-- The store-conditional access (R580, R581): alignment and translation always, the store only with LLbit. DESIGN CHOICE, safe: in User
mode with RE = 1 it is refused also with LLbit = 0, where it makes no store; R200 and D6 do not say whether that is an access (log entry
17). -/
def memWriteConditional (vaddr : DWord) (n : Nat) (v : DWord) (s : State) : Res Bool :=
  (locate .store vaddr n s).bind fun p s =>
  if s.llBit then (storeAt true p.1 p.2 (wholeBytes n v) s).bind fun _ s => .ok true s
  else .ok false s

/-- Where an instruction fetch goes (R207, R503). -/
def locateFetch (pc : DWord) (s : State) : Res (Word × Bool) :=
  (accessAllowed s).bind fun _ s =>
  (checkAligned .fetch pc 4 s).bind fun _ s =>
  translate pc .fetch s

/-- `FetchWord(pc)` (R503, R242, R246). -/
def fetchWord (pc : DWord) (s : State) : Res Word :=
  (locateFetch pc s).bind fun p s =>
  if busError s.cfg p.1 .fetch then .raise .ibe s
  else
    (if p.2 then cachedFetch p.1 s else uncachedLoad p.1 4 s).bind fun bs s => .ok (low32 (ofBytes bs)) s

/-! ### Partial accesses -/

/-- An address error with the address `a` in place of the one it carries; any other exception as it is (R811). -/
def Exc.withAddress (a : DWord) (e : Exc) : Exc :=
  match e with
  | .adel _ => .adel a
  | .ades _ => .ades a
  | e => e

/-- The same access, its address errors recording `a`. -/
def Res.withAddress {α : Type} (a : DWord) (r : Res α) : Res α :=
  match r with
  | .ok v s => .ok v s
  | .raise e s => .raise (e.withAddress a) s
  | .refuse q => .refuse q

end Sys2Proof.Machine
end

