-- ==== Sys2Proof/Machine/HostInterface.lean ====
section
/-! DEFINITION. The host interface and the resets (`60_exceptions.md` R908; `70_reset_and_hazards.md` R1000 to R1010). A call waits in
`State.inputs` and takes effect between steps, with `elapsed` 0 (R901, log entry 23). -/

namespace Sys2Proof.Machine

/-- Cold reset (R1001): memory, the collaborators' state and the parameters are outside it (R1003), and so are, in this model, the loader,
the pads, and the calls and outputs of the host (log entries 12, 23 and 24). -/
def coldReset (s : State) : State :=
  { State.reset with
    mem := s.mem
    sched := Scheduler.reset s.cfg.cyclesPerHalfline
    padState := s.padState
    firmwareLoaded := s.firmwareLoaded
    inputs := s.inputs
    outputs := s.outputs
    collabState := s.collabState
    cfg := s.cfg }

/-- `power_on()`: cold reset, not performed without a correct firmware image (R1010). -/
def powerOn (s : State) : State := if s.firmwareLoaded then coldReset s else s

/-- Soft reset, `reset()` (R1002): as cold reset, with Status.SR = 1 and the interrupted address in ErrorEPC; a core that was not powered on
stays so (log entry 34). -/
def softReset (s : State) : State :=
  { coldReset s with
    initialised := s.initialised
    cop0 := { Cop0.reset with status := 0x00500004#32, errorEpc := s.nextPc } }

/-- Set or clear one of the CPU's interrupt lines 3 to 6 (R111, R908). -/
def State.setLine (n : Nat) (b : Bool) (s : State) : State := { s with extIp := setBit s.extIp (n - 3) b }

/-- `raise_interrupt(src)` (R908, D17). -/
def raiseInterrupt (src : IntrSource) (s : State) : State :=
  match src with
  | .mi k => s.setMi k
  | .cart => s.setLine 3 true
  | .prenmi => s.setLine 4 true
  | .line5 => s.setLine 5 true
  | .line6 => s.setLine 6 true

/-- `clear_interrupt(src)` (R908, D17). -/
def clearInterrupt (src : IntrSource) (s : State) : State :=
  match src with
  | .mi k => s.clearMi k
  | .cart => s.setLine 3 false
  | .prenmi => s.setLine 4 false
  | .line5 => s.setLine 5 false
  | .line6 => s.setLine 6 false

/-- Bytes of a host access (R208). -/
def Width.bytes : Width → Nat
  | .w1 => 1
  | .w2 => 2
  | .w4 => 4
  | .w8 => 8

/-- The state a host's access works on: outside `run()`, so no cycles have elapsed (R901). -/
def State.outsideRun (s : State) : State := { s with runCycles := 0 }

/-- The state after a host's access: no step is charged for it (R1041). -/
def State.backIn (before after : State) : State :=
  { after with runCycles := before.runCycles, stepCycles := before.stepCycles }

/-- A host access: one that would raise is refused (D93). -/
def hostAccess {α : Type} (r : Res α) (k : α → State → State) (s : State) : Result :=
  match r with
  | .ok a t => .next (s.backIn (k a t))
  | .raise _ _ => .refused .hostAccessRaised
  | .refuse q => .refused q

/-- `read_reg(addr)`, a device window access (R908, R911); at an address that is not word-aligned, the slot it lies in (DESIGN CHOICE, log
entry 37). -/
def hostReadReg (pa : Word) (s : State) : Res Word :=
  match s.region pa with
  | .device d => s.readReg 0 d pa
  | _ => .refuse .deviceOffset

/-- `write_reg(addr, data)` (R908, R911); at an address that is not word-aligned, as `hostReadReg` (DESIGN CHOICE, log entry 37). -/
def hostWriteReg (pa v : Word) (s : State) : Res Unit :=
  match s.region pa with
  | .device d => s.writeReg 0 d pa v
  | _ => .refuse .deviceOffset

/-- The first address of PIF ROM (R230). -/
def pifRomBase : Nat := 0x1FC00000

/-- The loader (R1010): an image of exactly 1984 bytes is placed; another is reported, and leaves the core uninitialised (log entry 34).
DESIGN CHOICE, unsafe: a correct image given to a core that is powered on replaces the bytes of PIF ROM and changes nothing else, so the
core stays powered on and `run()` goes on (log entry 39). -/
def loadFirmware (image : List Byte) (s : State) : State :=
  if image.length = 1984 then { s with mem := s.mem.writeBytes pifRomBase image, firmwareLoaded := true }
  else State.output .firmwareRefused { s with firmwareLoaded := false, initialised := false }

/-- One call of the host (R908). -/
def hostCall (c : HostCall) (s : State) : Result :=
  match c with
  | .readVirtual w a => hostAccess (memRead a w.bytes s.outsideRun) (fun v t => t.output (.readValue v)) s
  | .writeVirtual w a v => hostAccess (memWrite a w.bytes v s.outsideRun) (fun _ t => t) s
  | .powerOn => .next (powerOn s)
  | .softReset => .next (softReset s)
  | .raiseInterrupt src => .next (raiseInterrupt src s)
  | .clearInterrupt src => .next (clearInterrupt src s)
  | .readReg pa => hostAccess (hostReadReg pa s.outsideRun) (fun v t => t.output (.readValue (zext32 v))) s
  | .writeReg pa v => hostAccess (hostWriteReg pa v s.outsideRun) (fun _ t => t) s
  | .setPad b => .next { s with padState := b }
  | .setStop b => .next { s with stop := b }
  | .loadFirmware image => .next (loadFirmware image s)

end Sys2Proof.Machine
end

