-- ==== Sys2Proof/Syntax.lean ====
section
/-! DEFINITION. The instructions: one constructor per row of `opcode_table.json`, in the table's order.
Operands stand in the assembler's order (`30_encoding.md` R350). Register numbers and fields of bits carry their range in their
type; a shift amount is a count, and `WellFormed.lean` checks its range. Each constructor's docstring names its row and rule. -/

namespace Sys2Proof

/-- The instruction set (`30_encoding.md` R320 to R326). -/
inductive Instr where
  -- Integer arithmetic, logical, set and shift instructions (`40_integer.md`)
  /-- ADD: R401. -/
  | add (rd rs rt : RegIdx)
  /-- ADDU: R402. -/
  | addu (rd rs rt : RegIdx)
  /-- SUB: R403. -/
  | sub (rd rs rt : RegIdx)
  /-- SUBU: R404. -/
  | subu (rd rs rt : RegIdx)
  /-- ADDI: R405. -/
  | addi (rt rs : RegIdx) (imm : Half)
  /-- ADDIU: R406. -/
  | addiu (rt rs : RegIdx) (imm : Half)
  /-- DADD: R407. -/
  | dadd (rd rs rt : RegIdx)
  /-- DADDU: R408. -/
  | daddu (rd rs rt : RegIdx)
  /-- DSUB: R409. -/
  | dsub (rd rs rt : RegIdx)
  /-- DSUBU: R410. -/
  | dsubu (rd rs rt : RegIdx)
  /-- DADDI: R411. -/
  | daddi (rt rs : RegIdx) (imm : Half)
  /-- DADDIU: R412. -/
  | daddiu (rt rs : RegIdx) (imm : Half)
  /-- AND: R413. -/
  | and (rd rs rt : RegIdx)
  /-- OR: R414. -/
  | or (rd rs rt : RegIdx)
  /-- XOR: R415. -/
  | xor (rd rs rt : RegIdx)
  /-- NOR: R416. -/
  | nor (rd rs rt : RegIdx)
  /-- ANDI: R417. -/
  | andi (rt rs : RegIdx) (imm : Half)
  /-- ORI: R418. -/
  | ori (rt rs : RegIdx) (imm : Half)
  /-- XORI: R419. -/
  | xori (rt rs : RegIdx) (imm : Half)
  /-- LUI: R420. -/
  | lui (rt : RegIdx) (imm : Half)
  /-- SLT: R421. -/
  | slt (rd rs rt : RegIdx)
  /-- SLTU: R422. -/
  | sltu (rd rs rt : RegIdx)
  /-- SLTI: R423. -/
  | slti (rt rs : RegIdx) (imm : Half)
  /-- SLTIU: R424. -/
  | sltiu (rt rs : RegIdx) (imm : Half)
  /-- SLL: R425. -/
  | sll (rd rt : RegIdx) (sa : Nat)
  /-- SRL: R426. -/
  | srl (rd rt : RegIdx) (sa : Nat)
  /-- SRA: R427. -/
  | sra (rd rt : RegIdx) (sa : Nat)
  /-- SLLV: R428. -/
  | sllv (rd rt rs : RegIdx)
  /-- SRLV: R429. -/
  | srlv (rd rt rs : RegIdx)
  /-- SRAV: R430. -/
  | srav (rd rt rs : RegIdx)
  /-- DSLL: R431. -/
  | dsll (rd rt : RegIdx) (sa : Nat)
  /-- DSRL: R432. -/
  | dsrl (rd rt : RegIdx) (sa : Nat)
  /-- DSRA: R433. -/
  | dsra (rd rt : RegIdx) (sa : Nat)
  /-- DSLL32: R434. -/
  | dsll32 (rd rt : RegIdx) (sa : Nat)
  /-- DSRL32: R435. -/
  | dsrl32 (rd rt : RegIdx) (sa : Nat)
  /-- DSRA32: R436. -/
  | dsra32 (rd rt : RegIdx) (sa : Nat)
  /-- DSLLV: R437. -/
  | dsllv (rd rt rs : RegIdx)
  /-- DSRLV: R438. -/
  | dsrlv (rd rt rs : RegIdx)
  /-- DSRAV: R439. -/
  | dsrav (rd rt rs : RegIdx)
  -- Multiply, divide and HI/LO (`41_muldiv.md`)
  /-- MULT: R451. -/
  | mult (rs rt : RegIdx)
  /-- MULTU: R452. -/
  | multu (rs rt : RegIdx)
  /-- DIV: R453. -/
  | div (rs rt : RegIdx)
  /-- DIVU: R454. -/
  | divu (rs rt : RegIdx)
  /-- DMULT: R455. -/
  | dmult (rs rt : RegIdx)
  /-- DMULTU: R456. -/
  | dmultu (rs rt : RegIdx)
  /-- DDIV: R457. -/
  | ddiv (rs rt : RegIdx)
  /-- DDIVU: R458. -/
  | ddivu (rs rt : RegIdx)
  /-- MFHI: R459. -/
  | mfhi (rd : RegIdx)
  /-- MTHI: R460. -/
  | mthi (rs : RegIdx)
  /-- MFLO: R461. -/
  | mflo (rd : RegIdx)
  /-- MTLO: R462. -/
  | mtlo (rs : RegIdx)
  -- Jumps and branches (`42_control.md`)
  /-- J: R511. -/
  | j (target : BitVec 26)
  /-- JAL: R512. -/
  | jal (target : BitVec 26)
  /-- JR: R513. -/
  | jr (rs : RegIdx)
  /-- JALR: R514. -/
  | jalr (rd rs : RegIdx)
  /-- BEQ: R515. -/
  | beq (rs rt : RegIdx) (offset : Half)
  /-- BNE: R516. -/
  | bne (rs rt : RegIdx) (offset : Half)
  /-- BLEZ: R517. -/
  | blez (rs : RegIdx) (offset : Half)
  /-- BGTZ: R518. -/
  | bgtz (rs : RegIdx) (offset : Half)
  /-- BLTZ: R519. -/
  | bltz (rs : RegIdx) (offset : Half)
  /-- BGEZ: R520. -/
  | bgez (rs : RegIdx) (offset : Half)
  /-- BLTZAL: R521. -/
  | bltzal (rs : RegIdx) (offset : Half)
  /-- BGEZAL: R522. -/
  | bgezal (rs : RegIdx) (offset : Half)
  /-- BEQL: R523. -/
  | beql (rs rt : RegIdx) (offset : Half)
  /-- BNEL: R524. -/
  | bnel (rs rt : RegIdx) (offset : Half)
  /-- BLEZL: R525. -/
  | blezl (rs : RegIdx) (offset : Half)
  /-- BGTZL: R526. -/
  | bgtzl (rs : RegIdx) (offset : Half)
  /-- BLTZL: R527. -/
  | bltzl (rs : RegIdx) (offset : Half)
  /-- BGEZL: R528. -/
  | bgezl (rs : RegIdx) (offset : Half)
  /-- BLTZALL: R529. -/
  | bltzall (rs : RegIdx) (offset : Half)
  /-- BGEZALL: R530. -/
  | bgezall (rs : RegIdx) (offset : Half)
  -- Loads, stores, synchronisation and CACHE (`43_loadstore.md`)
  /-- LB: R553. -/
  | lb (rt base : RegIdx) (offset : Half)
  /-- LBU: R554. -/
  | lbu (rt base : RegIdx) (offset : Half)
  /-- LH: R555. -/
  | lh (rt base : RegIdx) (offset : Half)
  /-- LHU: R556. -/
  | lhu (rt base : RegIdx) (offset : Half)
  /-- LW: R557. -/
  | lw (rt base : RegIdx) (offset : Half)
  /-- LWU: R558. -/
  | lwu (rt base : RegIdx) (offset : Half)
  /-- LD: R559. -/
  | ld (rt base : RegIdx) (offset : Half)
  /-- SB: R560. -/
  | sb (rt base : RegIdx) (offset : Half)
  /-- SH: R561. -/
  | sh (rt base : RegIdx) (offset : Half)
  /-- SW: R562. -/
  | sw (rt base : RegIdx) (offset : Half)
  /-- SD: R563. -/
  | sd (rt base : RegIdx) (offset : Half)
  /-- LWL: R564. -/
  | lwl (rt base : RegIdx) (offset : Half)
  /-- LWR: R565. -/
  | lwr (rt base : RegIdx) (offset : Half)
  /-- LDL: R566. -/
  | ldl (rt base : RegIdx) (offset : Half)
  /-- LDR: R567. -/
  | ldr (rt base : RegIdx) (offset : Half)
  /-- SWL: R568. -/
  | swl (rt base : RegIdx) (offset : Half)
  /-- SWR: R569. -/
  | swr (rt base : RegIdx) (offset : Half)
  /-- SDL: R570. -/
  | sdl (rt base : RegIdx) (offset : Half)
  /-- SDR: R571. -/
  | sdr (rt base : RegIdx) (offset : Half)
  /-- LL: R578. -/
  | ll (rt base : RegIdx) (offset : Half)
  /-- LLD: R579. -/
  | lld (rt base : RegIdx) (offset : Half)
  /-- SC: R580. -/
  | sc (rt base : RegIdx) (offset : Half)
  /-- SCD: R581. -/
  | scd (rt base : RegIdx) (offset : Half)
  /-- SYNC: R582. -/
  | sync (stype : BitVec 5)
  /-- CACHE: R584. -/
  | cache (op : BitVec 5) (base : RegIdx) (offset : Half)
  -- System, trap, coprocessor-0 and TLB instructions (`44_system.md`)
  /-- SYSCALL: R600. -/
  | syscall (code : BitVec 20)
  /-- BREAK: R601. -/
  | brk (code : BitVec 20)
  /-- TGE: R602. -/
  | tge (rs rt : RegIdx) (code : BitVec 10)
  /-- TGEU: R603. -/
  | tgeu (rs rt : RegIdx) (code : BitVec 10)
  /-- TLT: R604. -/
  | tlt (rs rt : RegIdx) (code : BitVec 10)
  /-- TLTU: R605. -/
  | tltu (rs rt : RegIdx) (code : BitVec 10)
  /-- TEQ: R606. -/
  | teq (rs rt : RegIdx) (code : BitVec 10)
  /-- TNE: R607. -/
  | tne (rs rt : RegIdx) (code : BitVec 10)
  /-- TGEI: R608. -/
  | tgei (rs : RegIdx) (imm : Half)
  /-- TGEIU: R609. -/
  | tgeiu (rs : RegIdx) (imm : Half)
  /-- TLTI: R610. -/
  | tlti (rs : RegIdx) (imm : Half)
  /-- TLTIU: R611. -/
  | tltiu (rs : RegIdx) (imm : Half)
  /-- TEQI: R612. -/
  | teqi (rs : RegIdx) (imm : Half)
  /-- TNEI: R613. -/
  | tnei (rs : RegIdx) (imm : Half)
  /-- MFC0: R620. -/
  | mfc0 (rt rd : RegIdx)
  /-- DMFC0: R621. -/
  | dmfc0 (rt rd : RegIdx)
  /-- MTC0: R622. -/
  | mtc0 (rt rd : RegIdx)
  /-- DMTC0: R623. -/
  | dmtc0 (rt rd : RegIdx)
  /-- TLBR: R630. -/
  | tlbr
  /-- TLBWI: R631. -/
  | tlbwi
  /-- TLBWR: R632. -/
  | tlbwr
  /-- TLBP: R633. -/
  | tlbp
  /-- ERET: R640. -/
  | eret
  -- Coprocessor 1 (`45_fpu.md`)
  /-- LWC1: R710. -/
  | lwc1 (ft base : RegIdx) (offset : Half)
  /-- LDC1: R711. -/
  | ldc1 (ft base : RegIdx) (offset : Half)
  /-- SWC1: R712. -/
  | swc1 (ft base : RegIdx) (offset : Half)
  /-- SDC1: R713. -/
  | sdc1 (ft base : RegIdx) (offset : Half)
  /-- MFC1: R714. -/
  | mfc1 (rt fs : RegIdx)
  /-- DMFC1: R715. -/
  | dmfc1 (rt fs : RegIdx)
  /-- CFC1: R716. -/
  | cfc1 (rt fs : RegIdx)
  /-- MTC1: R717. -/
  | mtc1 (rt fs : RegIdx)
  /-- DMTC1: R718. -/
  | dmtc1 (rt fs : RegIdx)
  /-- CTC1: R719. -/
  | ctc1 (rt fs : RegIdx)
  /-- BC1F: R720. -/
  | bc1f (offset : Half)
  /-- BC1T: R721. -/
  | bc1t (offset : Half)
  /-- BC1FL: R722. -/
  | bc1fl (offset : Half)
  /-- BC1TL: R723. -/
  | bc1tl (offset : Half)
  /-- ADD.S: R730. -/
  | addS (fd fs ft : RegIdx)
  /-- ADD.D: R730. -/
  | addD (fd fs ft : RegIdx)
  /-- SUB.S: R731. -/
  | subS (fd fs ft : RegIdx)
  /-- SUB.D: R731. -/
  | subD (fd fs ft : RegIdx)
  /-- MUL.S: R732. -/
  | mulS (fd fs ft : RegIdx)
  /-- MUL.D: R732. -/
  | mulD (fd fs ft : RegIdx)
  /-- DIV.S: R733. -/
  | divS (fd fs ft : RegIdx)
  /-- DIV.D: R733. -/
  | divD (fd fs ft : RegIdx)
  /-- SQRT.S: R734. -/
  | sqrtS (fd fs : RegIdx)
  /-- SQRT.D: R734. -/
  | sqrtD (fd fs : RegIdx)
  /-- ABS.S: R735. -/
  | absS (fd fs : RegIdx)
  /-- ABS.D: R735. -/
  | absD (fd fs : RegIdx)
  /-- MOV.S: R736. -/
  | movS (fd fs : RegIdx)
  /-- MOV.D: R736. -/
  | movD (fd fs : RegIdx)
  /-- NEG.S: R737. -/
  | negS (fd fs : RegIdx)
  /-- NEG.D: R737. -/
  | negD (fd fs : RegIdx)
  /-- ROUND.L.S: R740. -/
  | roundLS (fd fs : RegIdx)
  /-- ROUND.L.D: R740. -/
  | roundLD (fd fs : RegIdx)
  /-- TRUNC.L.S: R741. -/
  | truncLS (fd fs : RegIdx)
  /-- TRUNC.L.D: R741. -/
  | truncLD (fd fs : RegIdx)
  /-- CEIL.L.S: R742. -/
  | ceilLS (fd fs : RegIdx)
  /-- CEIL.L.D: R742. -/
  | ceilLD (fd fs : RegIdx)
  /-- FLOOR.L.S: R743. -/
  | floorLS (fd fs : RegIdx)
  /-- FLOOR.L.D: R743. -/
  | floorLD (fd fs : RegIdx)
  /-- ROUND.W.S: R744. -/
  | roundWS (fd fs : RegIdx)
  /-- ROUND.W.D: R744. -/
  | roundWD (fd fs : RegIdx)
  /-- TRUNC.W.S: R745. -/
  | truncWS (fd fs : RegIdx)
  /-- TRUNC.W.D: R745. -/
  | truncWD (fd fs : RegIdx)
  /-- CEIL.W.S: R746. -/
  | ceilWS (fd fs : RegIdx)
  /-- CEIL.W.D: R746. -/
  | ceilWD (fd fs : RegIdx)
  /-- FLOOR.W.S: R747. -/
  | floorWS (fd fs : RegIdx)
  /-- FLOOR.W.D: R747. -/
  | floorWD (fd fs : RegIdx)
  /-- CVT.S.D: R748. -/
  | cvtSD (fd fs : RegIdx)
  /-- CVT.S.W: R748. -/
  | cvtSW (fd fs : RegIdx)
  /-- CVT.S.L: R748. -/
  | cvtSL (fd fs : RegIdx)
  /-- CVT.D.S: R749. -/
  | cvtDS (fd fs : RegIdx)
  /-- CVT.D.W: R749. -/
  | cvtDW (fd fs : RegIdx)
  /-- CVT.D.L: R749. -/
  | cvtDL (fd fs : RegIdx)
  /-- CVT.W.S: R750. -/
  | cvtWS (fd fs : RegIdx)
  /-- CVT.W.D: R750. -/
  | cvtWD (fd fs : RegIdx)
  /-- CVT.L.S: R751. -/
  | cvtLS (fd fs : RegIdx)
  /-- CVT.L.D: R751. -/
  | cvtLD (fd fs : RegIdx)
  /-- C.F.S: R761. -/
  | cFS (fs ft : RegIdx)
  /-- C.F.D: R761. -/
  | cFD (fs ft : RegIdx)
  /-- C.UN.S: R762. -/
  | cUnS (fs ft : RegIdx)
  /-- C.UN.D: R762. -/
  | cUnD (fs ft : RegIdx)
  /-- C.EQ.S: R763. -/
  | cEqS (fs ft : RegIdx)
  /-- C.EQ.D: R763. -/
  | cEqD (fs ft : RegIdx)
  /-- C.UEQ.S: R764. -/
  | cUeqS (fs ft : RegIdx)
  /-- C.UEQ.D: R764. -/
  | cUeqD (fs ft : RegIdx)
  /-- C.OLT.S: R765. -/
  | cOltS (fs ft : RegIdx)
  /-- C.OLT.D: R765. -/
  | cOltD (fs ft : RegIdx)
  /-- C.ULT.S: R766. -/
  | cUltS (fs ft : RegIdx)
  /-- C.ULT.D: R766. -/
  | cUltD (fs ft : RegIdx)
  /-- C.OLE.S: R767. -/
  | cOleS (fs ft : RegIdx)
  /-- C.OLE.D: R767. -/
  | cOleD (fs ft : RegIdx)
  /-- C.ULE.S: R768. -/
  | cUleS (fs ft : RegIdx)
  /-- C.ULE.D: R768. -/
  | cUleD (fs ft : RegIdx)
  /-- C.SF.S: R769. -/
  | cSfS (fs ft : RegIdx)
  /-- C.SF.D: R769. -/
  | cSfD (fs ft : RegIdx)
  /-- C.NGLE.S: R770. -/
  | cNgleS (fs ft : RegIdx)
  /-- C.NGLE.D: R770. -/
  | cNgleD (fs ft : RegIdx)
  /-- C.SEQ.S: R771. -/
  | cSeqS (fs ft : RegIdx)
  /-- C.SEQ.D: R771. -/
  | cSeqD (fs ft : RegIdx)
  /-- C.NGL.S: R772. -/
  | cNglS (fs ft : RegIdx)
  /-- C.NGL.D: R772. -/
  | cNglD (fs ft : RegIdx)
  /-- C.LT.S: R773. -/
  | cLtS (fs ft : RegIdx)
  /-- C.LT.D: R773. -/
  | cLtD (fs ft : RegIdx)
  /-- C.NGE.S: R774. -/
  | cNgeS (fs ft : RegIdx)
  /-- C.NGE.D: R774. -/
  | cNgeD (fs ft : RegIdx)
  /-- C.LE.S: R775. -/
  | cLeS (fs ft : RegIdx)
  /-- C.LE.D: R775. -/
  | cLeD (fs ft : RegIdx)
  /-- C.NGT.S: R776. -/
  | cNgtS (fs ft : RegIdx)
  /-- C.NGT.D: R776. -/
  | cNgtD (fs ft : RegIdx)
  -- Coprocessor 2, absent (`44_system.md` R660)
  /-- COP2: R660. -/
  | cop2
  /-- LWC2: R660. -/
  | lwc2 (rt base : RegIdx) (offset : Half)
  /-- LDC2: R660. -/
  | ldc2 (rt base : RegIdx) (offset : Half)
  /-- SWC2: R660. -/
  | swc2 (rt base : RegIdx) (offset : Half)
  /-- SDC2: R660. -/
  | sdc2 (rt base : RegIdx) (offset : Half)
deriving DecidableEq, Repr

end Sys2Proof
end

