-- ==== Sys2Proof/Decode.lean ====
section
/-! DEFINITION. Decoding, total on every word (`30_encoding.md` R300 to R331), and after it the encoder. Fields a format shows as 0
are not looked at (R308, D82). -/

namespace Sys2Proof

/-- Why a word is no instruction of the opcode table; what each of them does when executed is R650 and R703 (D21, D74). -/
inductive Reject where
  /-- A reserved major opcode (R331). -/
  | reservedMajor
  /-- A reserved SPECIAL function code (R331). -/
  | reservedSpecial
  /-- A reserved REGIMM rt value (R331). -/
  | reservedRegimm
  /-- A reserved COP0 rs value or CO function code (R323, R331). -/
  | reservedCop0
  /-- A reserved COP1 rs value (R324, R331). -/
  | reservedCop1
  /-- An undefined COP1 fmt and function code (R325, D74). -/
  | unimplementedCop1
deriving DecidableEq, Repr

/-! ### Fields -/

/-- `w[lo+len-1 : lo]` (R13). -/
def field (w : Word) (lo len : Nat) : Nat := w.toNat / 2 ^ lo % 2 ^ len

/-- A 5-bit register field (R301). -/
def reg (w : Word) (lo : Nat) : RegIdx := ⟨field w lo 5, Nat.mod_lt _ (by decide)⟩

/-- Bits 15:0 (R302). -/
def imm16 (w : Word) : Half := w.setWidth 16

/-! ### The opcode maps -/

/-- SPECIAL, by funct (R321). -/
def decodeSpecial (w : Word) : Except Reject Instr :=
  match field w 0 6 with
  | 0 => .ok (.sll (reg w 11) (reg w 16) (field w 6 5))
  | 2 => .ok (.srl (reg w 11) (reg w 16) (field w 6 5))
  | 3 => .ok (.sra (reg w 11) (reg w 16) (field w 6 5))
  | 4 => .ok (.sllv (reg w 11) (reg w 16) (reg w 21))
  | 6 => .ok (.srlv (reg w 11) (reg w 16) (reg w 21))
  | 7 => .ok (.srav (reg w 11) (reg w 16) (reg w 21))
  | 8 => .ok (.jr (reg w 21))
  | 9 => .ok (.jalr (reg w 11) (reg w 21))
  | 12 => .ok (.syscall (BitVec.ofNat 20 (field w 6 20)))
  | 13 => .ok (.brk (BitVec.ofNat 20 (field w 6 20)))
  | 15 => .ok (.sync (BitVec.ofNat 5 (field w 6 5)))
  | 16 => .ok (.mfhi (reg w 11))
  | 17 => .ok (.mthi (reg w 21))
  | 18 => .ok (.mflo (reg w 11))
  | 19 => .ok (.mtlo (reg w 21))
  | 20 => .ok (.dsllv (reg w 11) (reg w 16) (reg w 21))
  | 22 => .ok (.dsrlv (reg w 11) (reg w 16) (reg w 21))
  | 23 => .ok (.dsrav (reg w 11) (reg w 16) (reg w 21))
  | 24 => .ok (.mult (reg w 21) (reg w 16))
  | 25 => .ok (.multu (reg w 21) (reg w 16))
  | 26 => .ok (.div (reg w 21) (reg w 16))
  | 27 => .ok (.divu (reg w 21) (reg w 16))
  | 28 => .ok (.dmult (reg w 21) (reg w 16))
  | 29 => .ok (.dmultu (reg w 21) (reg w 16))
  | 30 => .ok (.ddiv (reg w 21) (reg w 16))
  | 31 => .ok (.ddivu (reg w 21) (reg w 16))
  | 32 => .ok (.add (reg w 11) (reg w 21) (reg w 16))
  | 33 => .ok (.addu (reg w 11) (reg w 21) (reg w 16))
  | 34 => .ok (.sub (reg w 11) (reg w 21) (reg w 16))
  | 35 => .ok (.subu (reg w 11) (reg w 21) (reg w 16))
  | 36 => .ok (.and (reg w 11) (reg w 21) (reg w 16))
  | 37 => .ok (.or (reg w 11) (reg w 21) (reg w 16))
  | 38 => .ok (.xor (reg w 11) (reg w 21) (reg w 16))
  | 39 => .ok (.nor (reg w 11) (reg w 21) (reg w 16))
  | 42 => .ok (.slt (reg w 11) (reg w 21) (reg w 16))
  | 43 => .ok (.sltu (reg w 11) (reg w 21) (reg w 16))
  | 44 => .ok (.dadd (reg w 11) (reg w 21) (reg w 16))
  | 45 => .ok (.daddu (reg w 11) (reg w 21) (reg w 16))
  | 46 => .ok (.dsub (reg w 11) (reg w 21) (reg w 16))
  | 47 => .ok (.dsubu (reg w 11) (reg w 21) (reg w 16))
  | 48 => .ok (.tge (reg w 21) (reg w 16) (BitVec.ofNat 10 (field w 6 10)))
  | 49 => .ok (.tgeu (reg w 21) (reg w 16) (BitVec.ofNat 10 (field w 6 10)))
  | 50 => .ok (.tlt (reg w 21) (reg w 16) (BitVec.ofNat 10 (field w 6 10)))
  | 51 => .ok (.tltu (reg w 21) (reg w 16) (BitVec.ofNat 10 (field w 6 10)))
  | 52 => .ok (.teq (reg w 21) (reg w 16) (BitVec.ofNat 10 (field w 6 10)))
  | 54 => .ok (.tne (reg w 21) (reg w 16) (BitVec.ofNat 10 (field w 6 10)))
  | 56 => .ok (.dsll (reg w 11) (reg w 16) (field w 6 5))
  | 58 => .ok (.dsrl (reg w 11) (reg w 16) (field w 6 5))
  | 59 => .ok (.dsra (reg w 11) (reg w 16) (field w 6 5))
  | 60 => .ok (.dsll32 (reg w 11) (reg w 16) (field w 6 5))
  | 62 => .ok (.dsrl32 (reg w 11) (reg w 16) (field w 6 5))
  | 63 => .ok (.dsra32 (reg w 11) (reg w 16) (field w 6 5))
  | _ => .error .reservedSpecial

/-- REGIMM, by rt (R322). -/
def decodeRegimm (w : Word) : Except Reject Instr :=
  match field w 16 5 with
  | 0 => .ok (.bltz (reg w 21) (imm16 w))
  | 1 => .ok (.bgez (reg w 21) (imm16 w))
  | 2 => .ok (.bltzl (reg w 21) (imm16 w))
  | 3 => .ok (.bgezl (reg w 21) (imm16 w))
  | 8 => .ok (.tgei (reg w 21) (imm16 w))
  | 9 => .ok (.tgeiu (reg w 21) (imm16 w))
  | 10 => .ok (.tlti (reg w 21) (imm16 w))
  | 11 => .ok (.tltiu (reg w 21) (imm16 w))
  | 12 => .ok (.teqi (reg w 21) (imm16 w))
  | 14 => .ok (.tnei (reg w 21) (imm16 w))
  | 16 => .ok (.bltzal (reg w 21) (imm16 w))
  | 17 => .ok (.bgezal (reg w 21) (imm16 w))
  | 18 => .ok (.bltzall (reg w 21) (imm16 w))
  | 19 => .ok (.bgezall (reg w 21) (imm16 w))
  | _ => .error .reservedRegimm

/-- COP0 with bit 25 = 1, by funct (R323). -/
def decodeCo (w : Word) : Except Reject Instr :=
  match field w 0 6 with
  | 1 => .ok .tlbr
  | 2 => .ok .tlbwi
  | 6 => .ok .tlbwr
  | 8 => .ok .tlbp
  | 24 => .ok .eret
  | _ => .error .reservedCop0

/-- COP0 with bit 25 = 0, by rs (R323). -/
def decodeCop0Move (w : Word) : Except Reject Instr :=
  match field w 21 5 with
  | 0 => .ok (.mfc0 (reg w 16) (reg w 11))
  | 1 => .ok (.dmfc0 (reg w 16) (reg w 11))
  | 4 => .ok (.mtc0 (reg w 16) (reg w 11))
  | 5 => .ok (.dmtc0 (reg w 16) (reg w 11))
  | _ => .error .reservedCop0

/-- BC1, by rt[17:16] (R324). -/
def decodeBc1 (w : Word) : Except Reject Instr :=
  match field w 16 2 with
  | 0 => .ok (.bc1f (imm16 w))
  | 1 => .ok (.bc1t (imm16 w))
  | 2 => .ok (.bc1fl (imm16 w))
  | _ => .ok (.bc1tl (imm16 w))

/-- COP1 with fmt S, by funct (R325). -/
def decodeCop1S (w : Word) : Except Reject Instr :=
  match field w 0 6 with
  | 0 => .ok (.addS (reg w 6) (reg w 11) (reg w 16))
  | 1 => .ok (.subS (reg w 6) (reg w 11) (reg w 16))
  | 2 => .ok (.mulS (reg w 6) (reg w 11) (reg w 16))
  | 3 => .ok (.divS (reg w 6) (reg w 11) (reg w 16))
  | 4 => .ok (.sqrtS (reg w 6) (reg w 11))
  | 5 => .ok (.absS (reg w 6) (reg w 11))
  | 6 => .ok (.movS (reg w 6) (reg w 11))
  | 7 => .ok (.negS (reg w 6) (reg w 11))
  | 8 => .ok (.roundLS (reg w 6) (reg w 11))
  | 9 => .ok (.truncLS (reg w 6) (reg w 11))
  | 10 => .ok (.ceilLS (reg w 6) (reg w 11))
  | 11 => .ok (.floorLS (reg w 6) (reg w 11))
  | 12 => .ok (.roundWS (reg w 6) (reg w 11))
  | 13 => .ok (.truncWS (reg w 6) (reg w 11))
  | 14 => .ok (.ceilWS (reg w 6) (reg w 11))
  | 15 => .ok (.floorWS (reg w 6) (reg w 11))
  | 33 => .ok (.cvtDS (reg w 6) (reg w 11))
  | 36 => .ok (.cvtWS (reg w 6) (reg w 11))
  | 37 => .ok (.cvtLS (reg w 6) (reg w 11))
  | 48 => .ok (.cFS (reg w 11) (reg w 16))
  | 49 => .ok (.cUnS (reg w 11) (reg w 16))
  | 50 => .ok (.cEqS (reg w 11) (reg w 16))
  | 51 => .ok (.cUeqS (reg w 11) (reg w 16))
  | 52 => .ok (.cOltS (reg w 11) (reg w 16))
  | 53 => .ok (.cUltS (reg w 11) (reg w 16))
  | 54 => .ok (.cOleS (reg w 11) (reg w 16))
  | 55 => .ok (.cUleS (reg w 11) (reg w 16))
  | 56 => .ok (.cSfS (reg w 11) (reg w 16))
  | 57 => .ok (.cNgleS (reg w 11) (reg w 16))
  | 58 => .ok (.cSeqS (reg w 11) (reg w 16))
  | 59 => .ok (.cNglS (reg w 11) (reg w 16))
  | 60 => .ok (.cLtS (reg w 11) (reg w 16))
  | 61 => .ok (.cNgeS (reg w 11) (reg w 16))
  | 62 => .ok (.cLeS (reg w 11) (reg w 16))
  | 63 => .ok (.cNgtS (reg w 11) (reg w 16))
  | _ => .error .unimplementedCop1

/-- COP1 with fmt D, by funct (R325). -/
def decodeCop1D (w : Word) : Except Reject Instr :=
  match field w 0 6 with
  | 0 => .ok (.addD (reg w 6) (reg w 11) (reg w 16))
  | 1 => .ok (.subD (reg w 6) (reg w 11) (reg w 16))
  | 2 => .ok (.mulD (reg w 6) (reg w 11) (reg w 16))
  | 3 => .ok (.divD (reg w 6) (reg w 11) (reg w 16))
  | 4 => .ok (.sqrtD (reg w 6) (reg w 11))
  | 5 => .ok (.absD (reg w 6) (reg w 11))
  | 6 => .ok (.movD (reg w 6) (reg w 11))
  | 7 => .ok (.negD (reg w 6) (reg w 11))
  | 8 => .ok (.roundLD (reg w 6) (reg w 11))
  | 9 => .ok (.truncLD (reg w 6) (reg w 11))
  | 10 => .ok (.ceilLD (reg w 6) (reg w 11))
  | 11 => .ok (.floorLD (reg w 6) (reg w 11))
  | 12 => .ok (.roundWD (reg w 6) (reg w 11))
  | 13 => .ok (.truncWD (reg w 6) (reg w 11))
  | 14 => .ok (.ceilWD (reg w 6) (reg w 11))
  | 15 => .ok (.floorWD (reg w 6) (reg w 11))
  | 32 => .ok (.cvtSD (reg w 6) (reg w 11))
  | 36 => .ok (.cvtWD (reg w 6) (reg w 11))
  | 37 => .ok (.cvtLD (reg w 6) (reg w 11))
  | 48 => .ok (.cFD (reg w 11) (reg w 16))
  | 49 => .ok (.cUnD (reg w 11) (reg w 16))
  | 50 => .ok (.cEqD (reg w 11) (reg w 16))
  | 51 => .ok (.cUeqD (reg w 11) (reg w 16))
  | 52 => .ok (.cOltD (reg w 11) (reg w 16))
  | 53 => .ok (.cUltD (reg w 11) (reg w 16))
  | 54 => .ok (.cOleD (reg w 11) (reg w 16))
  | 55 => .ok (.cUleD (reg w 11) (reg w 16))
  | 56 => .ok (.cSfD (reg w 11) (reg w 16))
  | 57 => .ok (.cNgleD (reg w 11) (reg w 16))
  | 58 => .ok (.cSeqD (reg w 11) (reg w 16))
  | 59 => .ok (.cNglD (reg w 11) (reg w 16))
  | 60 => .ok (.cLtD (reg w 11) (reg w 16))
  | 61 => .ok (.cNgeD (reg w 11) (reg w 16))
  | 62 => .ok (.cLeD (reg w 11) (reg w 16))
  | 63 => .ok (.cNgtD (reg w 11) (reg w 16))
  | _ => .error .unimplementedCop1

/-- COP1 with fmt W, by funct (R325). -/
def decodeCop1W (w : Word) : Except Reject Instr :=
  match field w 0 6 with
  | 32 => .ok (.cvtSW (reg w 6) (reg w 11))
  | 33 => .ok (.cvtDW (reg w 6) (reg w 11))
  | _ => .error .unimplementedCop1

/-- COP1 with fmt L, by funct (R325). -/
def decodeCop1L (w : Word) : Except Reject Instr :=
  match field w 0 6 with
  | 32 => .ok (.cvtSL (reg w 6) (reg w 11))
  | 33 => .ok (.cvtDL (reg w 6) (reg w 11))
  | _ => .error .unimplementedCop1

/-- COP1, by rs (R324). -/
def decodeCop1 (w : Word) : Except Reject Instr :=
  match field w 21 5 with
  | 0 => .ok (.mfc1 (reg w 16) (reg w 11))
  | 1 => .ok (.dmfc1 (reg w 16) (reg w 11))
  | 2 => .ok (.cfc1 (reg w 16) (reg w 11))
  | 4 => .ok (.mtc1 (reg w 16) (reg w 11))
  | 5 => .ok (.dmtc1 (reg w 16) (reg w 11))
  | 6 => .ok (.ctc1 (reg w 16) (reg w 11))
  | 8 => decodeBc1 w
  | 16 => decodeCop1S w
  | 17 => decodeCop1D w
  | 20 => decodeCop1W w
  | 21 => decodeCop1L w
  | _ => .error .reservedCop1

/-- An instruction word, by its major opcode (R320). -/
def decode (w : Word) : Except Reject Instr :=
  match field w 26 6 with
  | 0 => decodeSpecial w
  | 1 => decodeRegimm w
  | 2 => .ok (.j (w.setWidth 26))
  | 3 => .ok (.jal (w.setWidth 26))
  | 4 => .ok (.beq (reg w 21) (reg w 16) (imm16 w))
  | 5 => .ok (.bne (reg w 21) (reg w 16) (imm16 w))
  | 6 => .ok (.blez (reg w 21) (imm16 w))
  | 7 => .ok (.bgtz (reg w 21) (imm16 w))
  | 8 => .ok (.addi (reg w 16) (reg w 21) (imm16 w))
  | 9 => .ok (.addiu (reg w 16) (reg w 21) (imm16 w))
  | 10 => .ok (.slti (reg w 16) (reg w 21) (imm16 w))
  | 11 => .ok (.sltiu (reg w 16) (reg w 21) (imm16 w))
  | 12 => .ok (.andi (reg w 16) (reg w 21) (imm16 w))
  | 13 => .ok (.ori (reg w 16) (reg w 21) (imm16 w))
  | 14 => .ok (.xori (reg w 16) (reg w 21) (imm16 w))
  | 15 => .ok (.lui (reg w 16) (imm16 w))
  | 16 => if field w 25 1 = 1 then decodeCo w else decodeCop0Move w
  | 17 => decodeCop1 w
  | 18 => .ok .cop2
  | 20 => .ok (.beql (reg w 21) (reg w 16) (imm16 w))
  | 21 => .ok (.bnel (reg w 21) (reg w 16) (imm16 w))
  | 22 => .ok (.blezl (reg w 21) (imm16 w))
  | 23 => .ok (.bgtzl (reg w 21) (imm16 w))
  | 24 => .ok (.daddi (reg w 16) (reg w 21) (imm16 w))
  | 25 => .ok (.daddiu (reg w 16) (reg w 21) (imm16 w))
  | 26 => .ok (.ldl (reg w 16) (reg w 21) (imm16 w))
  | 27 => .ok (.ldr (reg w 16) (reg w 21) (imm16 w))
  | 32 => .ok (.lb (reg w 16) (reg w 21) (imm16 w))
  | 33 => .ok (.lh (reg w 16) (reg w 21) (imm16 w))
  | 34 => .ok (.lwl (reg w 16) (reg w 21) (imm16 w))
  | 35 => .ok (.lw (reg w 16) (reg w 21) (imm16 w))
  | 36 => .ok (.lbu (reg w 16) (reg w 21) (imm16 w))
  | 37 => .ok (.lhu (reg w 16) (reg w 21) (imm16 w))
  | 38 => .ok (.lwr (reg w 16) (reg w 21) (imm16 w))
  | 39 => .ok (.lwu (reg w 16) (reg w 21) (imm16 w))
  | 40 => .ok (.sb (reg w 16) (reg w 21) (imm16 w))
  | 41 => .ok (.sh (reg w 16) (reg w 21) (imm16 w))
  | 42 => .ok (.swl (reg w 16) (reg w 21) (imm16 w))
  | 43 => .ok (.sw (reg w 16) (reg w 21) (imm16 w))
  | 44 => .ok (.sdl (reg w 16) (reg w 21) (imm16 w))
  | 45 => .ok (.sdr (reg w 16) (reg w 21) (imm16 w))
  | 46 => .ok (.swr (reg w 16) (reg w 21) (imm16 w))
  | 47 => .ok (.cache (BitVec.ofNat 5 (field w 16 5)) (reg w 21) (imm16 w))
  | 48 => .ok (.ll (reg w 16) (reg w 21) (imm16 w))
  | 49 => .ok (.lwc1 (reg w 16) (reg w 21) (imm16 w))
  | 50 => .ok (.lwc2 (reg w 16) (reg w 21) (imm16 w))
  | 52 => .ok (.lld (reg w 16) (reg w 21) (imm16 w))
  | 53 => .ok (.ldc1 (reg w 16) (reg w 21) (imm16 w))
  | 54 => .ok (.ldc2 (reg w 16) (reg w 21) (imm16 w))
  | 55 => .ok (.ld (reg w 16) (reg w 21) (imm16 w))
  | 56 => .ok (.sc (reg w 16) (reg w 21) (imm16 w))
  | 57 => .ok (.swc1 (reg w 16) (reg w 21) (imm16 w))
  | 58 => .ok (.swc2 (reg w 16) (reg w 21) (imm16 w))
  | 60 => .ok (.scd (reg w 16) (reg w 21) (imm16 w))
  | 61 => .ok (.sdc1 (reg w 16) (reg w 21) (imm16 w))
  | 62 => .ok (.sdc2 (reg w 16) (reg w 21) (imm16 w))
  | 63 => .ok (.sd (reg w 16) (reg w 21) (imm16 w))
  | _ => .error .reservedMajor

/-! ### Encoding -/

/-- Format R (R301). -/
def rWord (op rs rt rd sa funct : Nat) : Word :=
  BitVec.ofNat 32 (op * 2 ^ 26 + rs * 2 ^ 21 + rt * 2 ^ 16 + rd * 2 ^ 11 + sa * 2 ^ 6 + funct)

/-- Format I (R302). -/
def iWord (op rs rt imm : Nat) : Word := BitVec.ofNat 32 (op * 2 ^ 26 + rs * 2 ^ 21 + rt * 2 ^ 16 + imm)

/-- Format J (R303). -/
def jWord (op target : Nat) : Word := BitVec.ofNat 32 (op * 2 ^ 26 + target)

/-- SYSCALL and BREAK: a 20-bit code in bits 25:6 (R307). -/
def codeWord (code funct : Nat) : Word := BitVec.ofNat 32 (code * 2 ^ 6 + funct)

/-- The register traps: a 10-bit code in bits 15:6 (R307). -/
def trapWord (rs rt code funct : Nat) : Word := BitVec.ofNat 32 (rs * 2 ^ 21 + rt * 2 ^ 16 + code * 2 ^ 6 + funct)

/-- The word of an instruction, every ignored field 0 (R301 to R307, R320 to R325). -/
def encode (i : Instr) : Word :=
  match i with
  | .add rd rs rt => rWord 0 rs.val rt.val rd.val 0 32
  | .addu rd rs rt => rWord 0 rs.val rt.val rd.val 0 33
  | .sub rd rs rt => rWord 0 rs.val rt.val rd.val 0 34
  | .subu rd rs rt => rWord 0 rs.val rt.val rd.val 0 35
  | .addi rt rs imm => iWord 8 rs.val rt.val imm.toNat
  | .addiu rt rs imm => iWord 9 rs.val rt.val imm.toNat
  | .dadd rd rs rt => rWord 0 rs.val rt.val rd.val 0 44
  | .daddu rd rs rt => rWord 0 rs.val rt.val rd.val 0 45
  | .dsub rd rs rt => rWord 0 rs.val rt.val rd.val 0 46
  | .dsubu rd rs rt => rWord 0 rs.val rt.val rd.val 0 47
  | .daddi rt rs imm => iWord 24 rs.val rt.val imm.toNat
  | .daddiu rt rs imm => iWord 25 rs.val rt.val imm.toNat
  | .and rd rs rt => rWord 0 rs.val rt.val rd.val 0 36
  | .or rd rs rt => rWord 0 rs.val rt.val rd.val 0 37
  | .xor rd rs rt => rWord 0 rs.val rt.val rd.val 0 38
  | .nor rd rs rt => rWord 0 rs.val rt.val rd.val 0 39
  | .andi rt rs imm => iWord 12 rs.val rt.val imm.toNat
  | .ori rt rs imm => iWord 13 rs.val rt.val imm.toNat
  | .xori rt rs imm => iWord 14 rs.val rt.val imm.toNat
  | .lui rt imm => iWord 15 0 rt.val imm.toNat
  | .slt rd rs rt => rWord 0 rs.val rt.val rd.val 0 42
  | .sltu rd rs rt => rWord 0 rs.val rt.val rd.val 0 43
  | .slti rt rs imm => iWord 10 rs.val rt.val imm.toNat
  | .sltiu rt rs imm => iWord 11 rs.val rt.val imm.toNat
  | .sll rd rt sa => rWord 0 0 rt.val rd.val sa 0
  | .srl rd rt sa => rWord 0 0 rt.val rd.val sa 2
  | .sra rd rt sa => rWord 0 0 rt.val rd.val sa 3
  | .sllv rd rt rs => rWord 0 rs.val rt.val rd.val 0 4
  | .srlv rd rt rs => rWord 0 rs.val rt.val rd.val 0 6
  | .srav rd rt rs => rWord 0 rs.val rt.val rd.val 0 7
  | .dsll rd rt sa => rWord 0 0 rt.val rd.val sa 56
  | .dsrl rd rt sa => rWord 0 0 rt.val rd.val sa 58
  | .dsra rd rt sa => rWord 0 0 rt.val rd.val sa 59
  | .dsll32 rd rt sa => rWord 0 0 rt.val rd.val sa 60
  | .dsrl32 rd rt sa => rWord 0 0 rt.val rd.val sa 62
  | .dsra32 rd rt sa => rWord 0 0 rt.val rd.val sa 63
  | .dsllv rd rt rs => rWord 0 rs.val rt.val rd.val 0 20
  | .dsrlv rd rt rs => rWord 0 rs.val rt.val rd.val 0 22
  | .dsrav rd rt rs => rWord 0 rs.val rt.val rd.val 0 23
  | .mult rs rt => rWord 0 rs.val rt.val 0 0 24
  | .multu rs rt => rWord 0 rs.val rt.val 0 0 25
  | .div rs rt => rWord 0 rs.val rt.val 0 0 26
  | .divu rs rt => rWord 0 rs.val rt.val 0 0 27
  | .dmult rs rt => rWord 0 rs.val rt.val 0 0 28
  | .dmultu rs rt => rWord 0 rs.val rt.val 0 0 29
  | .ddiv rs rt => rWord 0 rs.val rt.val 0 0 30
  | .ddivu rs rt => rWord 0 rs.val rt.val 0 0 31
  | .mfhi rd => rWord 0 0 0 rd.val 0 16
  | .mthi rs => rWord 0 rs.val 0 0 0 17
  | .mflo rd => rWord 0 0 0 rd.val 0 18
  | .mtlo rs => rWord 0 rs.val 0 0 0 19
  | .j target => jWord 2 target.toNat
  | .jal target => jWord 3 target.toNat
  | .jr rs => rWord 0 rs.val 0 0 0 8
  | .jalr rd rs => rWord 0 rs.val 0 rd.val 0 9
  | .beq rs rt offset => iWord 4 rs.val rt.val offset.toNat
  | .bne rs rt offset => iWord 5 rs.val rt.val offset.toNat
  | .blez rs offset => iWord 6 rs.val 0 offset.toNat
  | .bgtz rs offset => iWord 7 rs.val 0 offset.toNat
  | .bltz rs offset => iWord 1 rs.val 0 offset.toNat
  | .bgez rs offset => iWord 1 rs.val 1 offset.toNat
  | .bltzal rs offset => iWord 1 rs.val 16 offset.toNat
  | .bgezal rs offset => iWord 1 rs.val 17 offset.toNat
  | .beql rs rt offset => iWord 20 rs.val rt.val offset.toNat
  | .bnel rs rt offset => iWord 21 rs.val rt.val offset.toNat
  | .blezl rs offset => iWord 22 rs.val 0 offset.toNat
  | .bgtzl rs offset => iWord 23 rs.val 0 offset.toNat
  | .bltzl rs offset => iWord 1 rs.val 2 offset.toNat
  | .bgezl rs offset => iWord 1 rs.val 3 offset.toNat
  | .bltzall rs offset => iWord 1 rs.val 18 offset.toNat
  | .bgezall rs offset => iWord 1 rs.val 19 offset.toNat
  | .lb rt base offset => iWord 32 base.val rt.val offset.toNat
  | .lbu rt base offset => iWord 36 base.val rt.val offset.toNat
  | .lh rt base offset => iWord 33 base.val rt.val offset.toNat
  | .lhu rt base offset => iWord 37 base.val rt.val offset.toNat
  | .lw rt base offset => iWord 35 base.val rt.val offset.toNat
  | .lwu rt base offset => iWord 39 base.val rt.val offset.toNat
  | .ld rt base offset => iWord 55 base.val rt.val offset.toNat
  | .sb rt base offset => iWord 40 base.val rt.val offset.toNat
  | .sh rt base offset => iWord 41 base.val rt.val offset.toNat
  | .sw rt base offset => iWord 43 base.val rt.val offset.toNat
  | .sd rt base offset => iWord 63 base.val rt.val offset.toNat
  | .lwl rt base offset => iWord 34 base.val rt.val offset.toNat
  | .lwr rt base offset => iWord 38 base.val rt.val offset.toNat
  | .ldl rt base offset => iWord 26 base.val rt.val offset.toNat
  | .ldr rt base offset => iWord 27 base.val rt.val offset.toNat
  | .swl rt base offset => iWord 42 base.val rt.val offset.toNat
  | .swr rt base offset => iWord 46 base.val rt.val offset.toNat
  | .sdl rt base offset => iWord 44 base.val rt.val offset.toNat
  | .sdr rt base offset => iWord 45 base.val rt.val offset.toNat
  | .ll rt base offset => iWord 48 base.val rt.val offset.toNat
  | .lld rt base offset => iWord 52 base.val rt.val offset.toNat
  | .sc rt base offset => iWord 56 base.val rt.val offset.toNat
  | .scd rt base offset => iWord 60 base.val rt.val offset.toNat
  | .sync stype => rWord 0 0 0 0 stype.toNat 15
  | .cache op base offset => iWord 47 base.val op.toNat offset.toNat
  | .syscall code => codeWord code.toNat 12
  | .brk code => codeWord code.toNat 13
  | .tge rs rt code => trapWord rs.val rt.val code.toNat 48
  | .tgeu rs rt code => trapWord rs.val rt.val code.toNat 49
  | .tlt rs rt code => trapWord rs.val rt.val code.toNat 50
  | .tltu rs rt code => trapWord rs.val rt.val code.toNat 51
  | .teq rs rt code => trapWord rs.val rt.val code.toNat 52
  | .tne rs rt code => trapWord rs.val rt.val code.toNat 54
  | .tgei rs imm => iWord 1 rs.val 8 imm.toNat
  | .tgeiu rs imm => iWord 1 rs.val 9 imm.toNat
  | .tlti rs imm => iWord 1 rs.val 10 imm.toNat
  | .tltiu rs imm => iWord 1 rs.val 11 imm.toNat
  | .teqi rs imm => iWord 1 rs.val 12 imm.toNat
  | .tnei rs imm => iWord 1 rs.val 14 imm.toNat
  | .mfc0 rt rd => rWord 16 0 rt.val rd.val 0 0
  | .dmfc0 rt rd => rWord 16 1 rt.val rd.val 0 0
  | .mtc0 rt rd => rWord 16 4 rt.val rd.val 0 0
  | .dmtc0 rt rd => rWord 16 5 rt.val rd.val 0 0
  | .tlbr => rWord 16 16 0 0 0 1
  | .tlbwi => rWord 16 16 0 0 0 2
  | .tlbwr => rWord 16 16 0 0 0 6
  | .tlbp => rWord 16 16 0 0 0 8
  | .eret => rWord 16 16 0 0 0 24
  | .lwc1 ft base offset => iWord 49 base.val ft.val offset.toNat
  | .ldc1 ft base offset => iWord 53 base.val ft.val offset.toNat
  | .swc1 ft base offset => iWord 57 base.val ft.val offset.toNat
  | .sdc1 ft base offset => iWord 61 base.val ft.val offset.toNat
  | .mfc1 rt fs => rWord 17 0 rt.val fs.val 0 0
  | .dmfc1 rt fs => rWord 17 1 rt.val fs.val 0 0
  | .cfc1 rt fs => rWord 17 2 rt.val fs.val 0 0
  | .mtc1 rt fs => rWord 17 4 rt.val fs.val 0 0
  | .dmtc1 rt fs => rWord 17 5 rt.val fs.val 0 0
  | .ctc1 rt fs => rWord 17 6 rt.val fs.val 0 0
  | .bc1f offset => iWord 17 8 0 offset.toNat
  | .bc1t offset => iWord 17 8 1 offset.toNat
  | .bc1fl offset => iWord 17 8 2 offset.toNat
  | .bc1tl offset => iWord 17 8 3 offset.toNat
  | .addS fd fs ft => rWord 17 16 ft.val fs.val fd.val 0
  | .addD fd fs ft => rWord 17 17 ft.val fs.val fd.val 0
  | .subS fd fs ft => rWord 17 16 ft.val fs.val fd.val 1
  | .subD fd fs ft => rWord 17 17 ft.val fs.val fd.val 1
  | .mulS fd fs ft => rWord 17 16 ft.val fs.val fd.val 2
  | .mulD fd fs ft => rWord 17 17 ft.val fs.val fd.val 2
  | .divS fd fs ft => rWord 17 16 ft.val fs.val fd.val 3
  | .divD fd fs ft => rWord 17 17 ft.val fs.val fd.val 3
  | .sqrtS fd fs => rWord 17 16 0 fs.val fd.val 4
  | .sqrtD fd fs => rWord 17 17 0 fs.val fd.val 4
  | .absS fd fs => rWord 17 16 0 fs.val fd.val 5
  | .absD fd fs => rWord 17 17 0 fs.val fd.val 5
  | .movS fd fs => rWord 17 16 0 fs.val fd.val 6
  | .movD fd fs => rWord 17 17 0 fs.val fd.val 6
  | .negS fd fs => rWord 17 16 0 fs.val fd.val 7
  | .negD fd fs => rWord 17 17 0 fs.val fd.val 7
  | .roundLS fd fs => rWord 17 16 0 fs.val fd.val 8
  | .roundLD fd fs => rWord 17 17 0 fs.val fd.val 8
  | .truncLS fd fs => rWord 17 16 0 fs.val fd.val 9
  | .truncLD fd fs => rWord 17 17 0 fs.val fd.val 9
  | .ceilLS fd fs => rWord 17 16 0 fs.val fd.val 10
  | .ceilLD fd fs => rWord 17 17 0 fs.val fd.val 10
  | .floorLS fd fs => rWord 17 16 0 fs.val fd.val 11
  | .floorLD fd fs => rWord 17 17 0 fs.val fd.val 11
  | .roundWS fd fs => rWord 17 16 0 fs.val fd.val 12
  | .roundWD fd fs => rWord 17 17 0 fs.val fd.val 12
  | .truncWS fd fs => rWord 17 16 0 fs.val fd.val 13
  | .truncWD fd fs => rWord 17 17 0 fs.val fd.val 13
  | .ceilWS fd fs => rWord 17 16 0 fs.val fd.val 14
  | .ceilWD fd fs => rWord 17 17 0 fs.val fd.val 14
  | .floorWS fd fs => rWord 17 16 0 fs.val fd.val 15
  | .floorWD fd fs => rWord 17 17 0 fs.val fd.val 15
  | .cvtSD fd fs => rWord 17 17 0 fs.val fd.val 32
  | .cvtSW fd fs => rWord 17 20 0 fs.val fd.val 32
  | .cvtSL fd fs => rWord 17 21 0 fs.val fd.val 32
  | .cvtDS fd fs => rWord 17 16 0 fs.val fd.val 33
  | .cvtDW fd fs => rWord 17 20 0 fs.val fd.val 33
  | .cvtDL fd fs => rWord 17 21 0 fs.val fd.val 33
  | .cvtWS fd fs => rWord 17 16 0 fs.val fd.val 36
  | .cvtWD fd fs => rWord 17 17 0 fs.val fd.val 36
  | .cvtLS fd fs => rWord 17 16 0 fs.val fd.val 37
  | .cvtLD fd fs => rWord 17 17 0 fs.val fd.val 37
  | .cFS fs ft => rWord 17 16 ft.val fs.val 0 48
  | .cFD fs ft => rWord 17 17 ft.val fs.val 0 48
  | .cUnS fs ft => rWord 17 16 ft.val fs.val 0 49
  | .cUnD fs ft => rWord 17 17 ft.val fs.val 0 49
  | .cEqS fs ft => rWord 17 16 ft.val fs.val 0 50
  | .cEqD fs ft => rWord 17 17 ft.val fs.val 0 50
  | .cUeqS fs ft => rWord 17 16 ft.val fs.val 0 51
  | .cUeqD fs ft => rWord 17 17 ft.val fs.val 0 51
  | .cOltS fs ft => rWord 17 16 ft.val fs.val 0 52
  | .cOltD fs ft => rWord 17 17 ft.val fs.val 0 52
  | .cUltS fs ft => rWord 17 16 ft.val fs.val 0 53
  | .cUltD fs ft => rWord 17 17 ft.val fs.val 0 53
  | .cOleS fs ft => rWord 17 16 ft.val fs.val 0 54
  | .cOleD fs ft => rWord 17 17 ft.val fs.val 0 54
  | .cUleS fs ft => rWord 17 16 ft.val fs.val 0 55
  | .cUleD fs ft => rWord 17 17 ft.val fs.val 0 55
  | .cSfS fs ft => rWord 17 16 ft.val fs.val 0 56
  | .cSfD fs ft => rWord 17 17 ft.val fs.val 0 56
  | .cNgleS fs ft => rWord 17 16 ft.val fs.val 0 57
  | .cNgleD fs ft => rWord 17 17 ft.val fs.val 0 57
  | .cSeqS fs ft => rWord 17 16 ft.val fs.val 0 58
  | .cSeqD fs ft => rWord 17 17 ft.val fs.val 0 58
  | .cNglS fs ft => rWord 17 16 ft.val fs.val 0 59
  | .cNglD fs ft => rWord 17 17 ft.val fs.val 0 59
  | .cLtS fs ft => rWord 17 16 ft.val fs.val 0 60
  | .cLtD fs ft => rWord 17 17 ft.val fs.val 0 60
  | .cNgeS fs ft => rWord 17 16 ft.val fs.val 0 61
  | .cNgeD fs ft => rWord 17 17 ft.val fs.val 0 61
  | .cLeS fs ft => rWord 17 16 ft.val fs.val 0 62
  | .cLeD fs ft => rWord 17 17 ft.val fs.val 0 62
  | .cNgtS fs ft => rWord 17 16 ft.val fs.val 0 63
  | .cNgtD fs ft => rWord 17 17 ft.val fs.val 0 63
  | .cop2 => jWord 18 0
  | .lwc2 rt base offset => iWord 50 base.val rt.val offset.toNat
  | .ldc2 rt base offset => iWord 54 base.val rt.val offset.toNat
  | .swc2 rt base offset => iWord 58 base.val rt.val offset.toNat
  | .sdc2 rt base offset => iWord 62 base.val rt.val offset.toNat

/-- What this decoder reads from an instruction whose bits, numbered as the opcode table numbers them, are `w`. -/
def decodeTableWord (nbits w : Nat) : Option Instr :=
  match decode (BitVec.ofNat 32 (w % 2 ^ nbits)) with
  | .ok i => some i
  | .error _ => none

end Sys2Proof
end

