-- ==== Sys2Proof/Machine/Operands.lean ====
section
/-! DEFINITION. Operand forms (`30_encoding.md` R310, R311): immediates are in `Bits.lean`; here the effective address, the targets of
branches and jumps, shift amounts, and the views of the floating-point registers (`45_fpu.md` R700). -/

namespace Sys2Proof.Machine

/-- `ea = x[base] + sext_64(offset)` (R550). -/
def effectiveAddress (base : RegIdx) (offset : Half) (s : State) : DWord := s.x base + sext16 offset

/-- `pc + 4 + sext_64(imm || 00)`, relative to the delay slot (R310). -/
def branchTargetOf (offset : Half) (s : State) : DWord := s.pc + 4#64 + branchOffset offset

/-- `(pc + 4)[63:28] || instr_index || 00` (R310, R511). -/
def jumpTargetOf (index : BitVec 26) (s : State) : DWord :=
  ((s.pc + 4#64) &&& 0xFFFFFFFFF0000000#64) ||| (index.setWidth 64 <<< 2)

/-- The link value `pc + 8` (R512). -/
def linkOf (s : State) : DWord := s.pc + 8#64

/-- `x[rs][4:0]`, the amount of a variable word shift (R310). -/
def shiftAmount5 (rs : RegIdx) (s : State) : Nat := (s.x rs).toNat % 32

/-- `x[rs][5:0]`, the amount of a variable doubleword shift (R310). -/
def shiftAmount6 (rs : RegIdx) (s : State) : Nat := (s.x rs).toNat % 64

/-- `n & ~1` for a register number (R700). -/
def evenReg (n : RegIdx) : RegIdx := ⟨n.val - n.val % 2, by omega⟩

/-- `FGR32(n)` (R700). -/
def State.fgr32 (n : RegIdx) (s : State) : Word :=
  if s.fr then bitField s.fpr[n.val] 0 32
  else if n.val % 2 = 0 then bitField s.fpr[n.val] 0 32
  else bitField s.fpr[(evenReg n).val] 32 32

/-- `SetFGR32(n, v)` (R700): the other half of the register is preserved (D71). -/
def State.setFgr32 (n : RegIdx) (v : Word) (s : State) : State :=
  if s.fr || n.val % 2 = 0 then { s with fpr := s.fpr.set n.val (bitField s.fpr[n.val] 32 32 ++ v) }
  else { s with fpr := s.fpr.set (evenReg n).val (v ++ bitField s.fpr[(evenReg n).val] 0 32) }

/-- `FGR64(n)` (R700). -/
def State.fgr64 (n : RegIdx) (s : State) : DWord :=
  if s.fr then s.fpr[n.val] else s.fpr[(evenReg n).val]

/-- `SetFGR64(n, v)` (R700). -/
def State.setFgr64 (n : RegIdx) (v : DWord) (s : State) : State :=
  if s.fr then { s with fpr := s.fpr.set n.val v } else { s with fpr := s.fpr.set (evenReg n).val v }

end Sys2Proof.Machine
end

