-- ==== Sys2Proof/Machine/Control.lean ====
section
/-! DEFINITION. Jumps, branches and branch-likely instructions (`42_control.md` R505 to R531). Registers are read before the link is written. -/

namespace Sys2Proof.Machine

/-- Write the link register x[31] (R512). -/
def link (s : State) : State := s.setX 31 (linkOf s)

/-- `s(x[rs]) < 0` and its like (R517 to R530). -/
def State.negative (rs : RegIdx) (s : State) : Bool := decide ((s.x rs).toInt < 0)
def State.positive (rs : RegIdx) (s : State) : Bool := decide (0 < (s.x rs).toInt)
def State.equal (rs rt : RegIdx) (s : State) : Bool := decide (s.x rs = s.x rt)

/-- J: R511. -/
def execJ (target : BitVec 26) (s : State) : Result :=
  s.branch true (jumpTargetOf target s)

/-- JAL: R512. -/
def execJal (target : BitVec 26) (s : State) : Result :=
  (link s).branch true (jumpTargetOf target s)

/-- JR: R513. -/
def execJr (rs : RegIdx) (s : State) : Result :=
  s.branch true (s.x rs)

/-- JALR: R514, the target read before the link is written (D26). -/
def execJalr (rd rs : RegIdx) (s : State) : Result :=
  (s.setX rd (linkOf s)).branch true (s.x rs)

/-- BEQ: R515. -/
def execBeq (rs rt : RegIdx) (offset : Half) (s : State) : Result :=
  s.branch (s.equal rs rt) (branchTargetOf offset s)

/-- BNE: R516. -/
def execBne (rs rt : RegIdx) (offset : Half) (s : State) : Result :=
  s.branch (!s.equal rs rt) (branchTargetOf offset s)

/-- BLEZ: R517. -/
def execBlez (rs : RegIdx) (offset : Half) (s : State) : Result :=
  s.branch (!s.positive rs) (branchTargetOf offset s)

/-- BGTZ: R518. -/
def execBgtz (rs : RegIdx) (offset : Half) (s : State) : Result :=
  s.branch (s.positive rs) (branchTargetOf offset s)

/-- BLTZ: R519. -/
def execBltz (rs : RegIdx) (offset : Half) (s : State) : Result :=
  s.branch (s.negative rs) (branchTargetOf offset s)

/-- BGEZ: R520. -/
def execBgez (rs : RegIdx) (offset : Half) (s : State) : Result :=
  s.branch (!s.negative rs) (branchTargetOf offset s)

/-- BLTZAL: R521. -/
def execBltzal (rs : RegIdx) (offset : Half) (s : State) : Result :=
  (link s).branch (s.negative rs) (branchTargetOf offset s)

/-- BGEZAL: R522. -/
def execBgezal (rs : RegIdx) (offset : Half) (s : State) : Result :=
  (link s).branch (!s.negative rs) (branchTargetOf offset s)

/-- BEQL: R523. -/
def execBeql (rs rt : RegIdx) (offset : Half) (s : State) : Result :=
  s.branchLikely (s.equal rs rt) (branchTargetOf offset s)

/-- BNEL: R524. -/
def execBnel (rs rt : RegIdx) (offset : Half) (s : State) : Result :=
  s.branchLikely (!s.equal rs rt) (branchTargetOf offset s)

/-- BLEZL: R525. -/
def execBlezl (rs : RegIdx) (offset : Half) (s : State) : Result :=
  s.branchLikely (!s.positive rs) (branchTargetOf offset s)

/-- BGTZL: R526. -/
def execBgtzl (rs : RegIdx) (offset : Half) (s : State) : Result :=
  s.branchLikely (s.positive rs) (branchTargetOf offset s)

/-- BLTZL: R527. -/
def execBltzl (rs : RegIdx) (offset : Half) (s : State) : Result :=
  s.branchLikely (s.negative rs) (branchTargetOf offset s)

/-- BGEZL: R528. -/
def execBgezl (rs : RegIdx) (offset : Half) (s : State) : Result :=
  s.branchLikely (!s.negative rs) (branchTargetOf offset s)

/-- BLTZALL: R529. -/
def execBltzall (rs : RegIdx) (offset : Half) (s : State) : Result :=
  (link s).branchLikely (s.negative rs) (branchTargetOf offset s)

/-- BGEZALL: R530. -/
def execBgezall (rs : RegIdx) (offset : Half) (s : State) : Result :=
  (link s).branchLikely (!s.negative rs) (branchTargetOf offset s)

end Sys2Proof.Machine
end

