-- ==== Sys2Proof/Machine/Flags.lean ====
section
/-! DEFINITION. Flag computations. The integer instructions have no flags (`10_state.md` R139); what they compute is the overflow of an
exact signed result (`40_integer.md` R400). The floating-point flags are the Cause, Enable and Flag fields of FCSR (R138). -/

namespace Sys2Proof.Machine

/-- An exact signed result that does not fit n bits. -/
def overflows (n : Nat) (t : Int) : Bool := decide (t < -(2 ^ (n - 1)) ∨ 2 ^ (n - 1) - 1 < t)

/-- No flag. -/
def FpFlags.none : FpFlags := ⟨false, false, false, false, false⟩

/-- The five bits V Z O U I, I lowest: their order in Cause (16:12), Enable (11:7) and Flag (6:2) (R138). -/
def FpFlags.bits (f : FpFlags) : BitVec 5 :=
  boolBit 5 f.v <<< 4 ||| boolBit 5 f.z <<< 3 ||| boolBit 5 f.o <<< 2 ||| boolBit 5 f.u <<< 1 ||| boolBit 5 f.i

/-- FCSR.Enable (R138). -/
def fcsrEnable (fcsr : Word) : BitVec 5 := bitField fcsr 7 5

/-- FCSR.RM (R138). -/
def fcsrRm (fcsr : Word) : BitVec 2 := bitField fcsr 0 2

/-- FCSR.FS (R138). -/
def fcsrFs (fcsr : Word) : Bool := bit fcsr 24

/-- FCSR.C (R138). -/
def fcsrC (fcsr : Word) : Bool := bit fcsr 23

/-- `FCSR.Cause <- 0`, bits 17:12. -/
def clearFpCause (fcsr : Word) : Word := fcsr &&& 0xFFFC0FFF#32

/-- `FCSR.Cause <- 0; FCSR.Cause.E <- 1` (R703). -/
def setFpUnimplemented (fcsr : Word) : Word := clearFpCause fcsr ||| 0x00020000#32

/-- `FCSR.Cause[V,Z,O,U,I] <- fl`, the E bit 0 (R703). -/
def setFpCause (fl : FpFlags) (fcsr : Word) : Word := clearFpCause fcsr ||| (fl.bits.setWidth 32 <<< 12)

/-- `FCSR.Flag <- FCSR.Flag | fl` (R703). -/
def accrueFpFlags (fl : FpFlags) (fcsr : Word) : Word := fcsr ||| (fl.bits.setWidth 32 <<< 2)

/-- Whether an enabled flag is among `fl` (R703). -/
def fpTraps (fl : FpFlags) (fcsr : Word) : Bool := decide (fl.bits &&& fcsrEnable fcsr ≠ 0#5)

/-- `FCSR.C <- b`. -/
def setFcsrC (b : Bool) (fcsr : Word) : Word := setBit fcsr 23 b

/-- What CTC1 finds in the FCSR it wrote: E, or a cause whose enable is set (R719, D88). -/
def fcsrTraps (fcsr : Word) : Bool :=
  bit fcsr 17 || decide (bitField fcsr 12 5 &&& fcsrEnable fcsr ≠ 0#5)

end Sys2Proof.Machine
end

