-- ==== Sys2Proof/Machine/Float.lean ====
section
/-! DEFINITION. The numerics record `FP` and the predicate `FP_UNIMPL` (`00_scope.md` R12; `45_fpu.md` R702, R703, R760, R790; D69, D87).
Both are parameters: `Config.fp`, `Config.fpCmp` and `Config.fpUnimpl` list the operands at which they differ from their defaults (log
entry 8). The default of `FP` is IEEE-754 binary32 and binary64, computed on exact integers and rounded once.

A number is a sign, a natural significand and an exponent: (-1)^neg * m * 2^e. Where a result is not a multiple of a power of two
(a quotient, a square root) it is given as the next lower multiple and a sticky bit. -/

namespace Sys2Proof.Machine

/-- Bits of the fraction field of a floating format. -/
def FpFmt.fracBits : FpFmt → Nat
  | .s => 23
  | .d => 52
  | _ => 0

/-- Bits of the exponent field of a floating format. -/
def FpFmt.expBits : FpFmt → Nat
  | .s => 8
  | .d => 11
  | _ => 0

/-- Bits of an integer format. -/
def FpFmt.intBits : FpFmt → Nat
  | .w => 32
  | .l => 64
  | _ => 0

/-- The exponent bias. -/
def FpFmt.bias (f : FpFmt) : Nat := 2 ^ (f.expBits - 1) - 1

/-- The all-ones exponent field. -/
def FpFmt.expMax (f : FpFmt) : Nat := 2 ^ f.expBits - 1

/-- The exponent of the last place of the smallest normal number. -/
def FpFmt.minQuantum (f : FpFmt) : Int := 1 - (f.bias : Int) - f.fracBits

/-- Numbers of the operations, the first argument of the free value `Config.nanResult`. -/
def FpOp.number : FpOp → Nat
  | .add => 0
  | .sub => 1
  | .mul => 2
  | .div => 3
  | .sqrt => 4
  | .abs => 5
  | .neg => 6
  | .cvt .s _ => 7
  | .cvt .d _ => 8
  | .cvt _ _ => 9

/-- The format of an operation's result. -/
def FpOp.result (op : FpOp) (f : FpFmt) : FpFmt :=
  match op with
  | .cvt dst _ => dst
  | _ => f

/-- The rounding mode of an operation: a conversion names its own (R740 to R751), the others take FCSR.RM (R703). -/
def FpOp.rounding (op : FpOp) (rm : RoundMode) : RoundMode :=
  match op with
  | .cvt _ own => own
  | _ => rm

/-! ### Reading an operand -/

/-- The fraction field. -/
def fpFrac (f : FpFmt) (x : DWord) : Nat := x.toNat % 2 ^ f.fracBits

/-- The exponent field. -/
def fpExp (f : FpFmt) (x : DWord) : Nat := x.toNat / 2 ^ f.fracBits % 2 ^ f.expBits

/-- The sign bit. -/
def fpNeg (f : FpFmt) (x : DWord) : Bool := bit x (f.fracBits + f.expBits)

/-- The magnitude bits, below the sign. -/
def fpMagnitude (f : FpFmt) (x : DWord) : Nat := x.toNat % 2 ^ (f.fracBits + f.expBits)

def fpIsNan (f : FpFmt) (x : DWord) : Bool := decide (fpExp f x = f.expMax ∧ fpFrac f x ≠ 0)

/-- MIPS legacy convention: a NaN whose fraction MSB is 1 is signaling (D87). -/
def fpIsSignaling (f : FpFmt) (x : DWord) : Bool := fpIsNan f x && bit x (f.fracBits - 1)

def fpIsInf (f : FpFmt) (x : DWord) : Bool := decide (fpExp f x = f.expMax ∧ fpFrac f x = 0)

def fpIsZero (f : FpFmt) (x : DWord) : Bool := decide (fpMagnitude f x = 0)

/-- Non-zero with zero exponent (R790). -/
def fpIsDenormal (f : FpFmt) (x : DWord) : Bool := decide (fpExp f x = 0 ∧ fpFrac f x ≠ 0)

/-- The significand of a finite operand. -/
def fpSig (f : FpFmt) (x : DWord) : Nat := if fpExp f x = 0 then fpFrac f x else 2 ^ f.fracBits + fpFrac f x

/-- The exponent of the last place of a finite operand. -/
def fpQuantum (f : FpFmt) (x : DWord) : Int := f.minQuantum + ((fpExp f x - 1 : Nat) : Int)

/-! ### Special values -/

/-- A value from its sign and magnitude bits. -/
def fpPack (f : FpFmt) (neg : Bool) (magnitude : Nat) : DWord :=
  BitVec.ofNat 64 ((if neg then 2 ^ (f.fracBits + f.expBits) else 0) + magnitude)

def fpInf (f : FpFmt) (neg : Bool) : DWord := fpPack f neg (f.expMax * 2 ^ f.fracBits)

def fpZero (f : FpFmt) (neg : Bool) : DWord := fpPack f neg 0

/-- The smallest normal number. -/
def fpMinNormal (f : FpFmt) (neg : Bool) : DWord := fpPack f neg (2 ^ f.fracBits)

/-- The largest finite number. -/
def fpMaxFinite (f : FpFmt) (neg : Bool) : DWord := fpPack f neg (f.expMax * 2 ^ f.fracBits - 1)

/-- The default NaN, 0x7FBF_FFFF or 0x7FF7_FFFF_FFFF_FFFF (D87). -/
def fpDefaultNan (f : FpFmt) : DWord := fpPack f false (f.expMax * 2 ^ f.fracBits + (2 ^ (f.fracBits - 1) - 1))

/-- A quiet NaN of the format with the sign and the fraction of `x`; the default NaN where that fraction would be 0 (D87). -/
def fpQuiet (f : FpFmt) (x : DWord) : DWord :=
  if x.toNat % 2 ^ (f.fracBits - 1) = 0 then fpDefaultNan f
  else fpPack f (fpNeg f x) (f.expMax * 2 ^ f.fracBits + x.toNat % 2 ^ (f.fracBits - 1))

/-- The NaN an operation on a quiet NaN answers: free, but a quiet NaN (log entry 9). -/
def fpNanResult (op : FpOp) (f : FpFmt) (a b : DWord) : DWord := fpQuiet f (Config.nanResult op.number a b)

/-! ### Results -/

/-- What a function of `FP` answers (R702): a value and the flags it signals; `tiny` says that the exact result is not zero and is below
the smallest normal magnitude of its format (R790(b), D87; log entry 10). -/
structure FpAnswer where
  value : DWord
  flags : FpFlags
  tiny  : Bool
deriving DecidableEq, Repr

/-- What an operation comes to (R703). -/
inductive FpOutcome where
  /-- An unimplemented operation (R790, D74). -/
  | unimplemented
  /-- A value and the IEEE flags it signals. -/
  | value (v : DWord) (fl : FpFlags)
deriving DecidableEq, Repr

/-- A value with flags, not tiny. -/
def fpFlagged (v : DWord) (fl : FpFlags) : FpAnswer := ⟨v, fl, false⟩

/-- An exact value with no flag. -/
def fpExact (v : DWord) : FpAnswer := fpFlagged v FpFlags.none

/-- Invalid operation: V and the default NaN (D87). -/
def fpInvalid (f : FpFmt) : FpAnswer := fpFlagged (fpDefaultNan f) { FpFlags.none with v := true }

def RoundMode.ofBits (rm : BitVec 2) : RoundMode :=
  match rm.toNat with
  | 0 => .nearest
  | 1 => .zero
  | 2 => .up
  | _ => .down

/-- Whether a magnitude is rounded up: `odd` its last bit, `half` the first bit below it, `rest` whether anything is below that. -/
def roundsUp (rm : RoundMode) (neg odd half rest : Bool) : Bool :=
  match rm with
  | .nearest => half && (rest || odd)
  | .zero => false
  | .up => !neg && (half || rest)
  | .down => neg && (half || rest)

/-- `m * 2^(-shift)` rounded to an integer, with whether it is inexact. -/
def roundShift (rm : RoundMode) (neg : Bool) (m shift : Nat) (sticky : Bool) : Nat × Bool :=
  let q := m / 2 ^ shift
  let half := decide (0 < shift) && decide (m / 2 ^ (shift - 1) % 2 = 1)
  let rest := sticky || (decide (0 < shift) && decide (m % 2 ^ (shift - 1) ≠ 0))
  (q + (if roundsUp rm neg (decide (q % 2 = 1)) half rest then 1 else 0), half || rest)

/-- Overflow (IEEE-754): infinity or the largest finite number by the rounding mode. -/
def fpOverflow (f : FpFmt) (rm : RoundMode) (neg : Bool) : FpAnswer :=
  let toInf := match rm with
    | .nearest => true
    | .zero => false
    | .up => !neg
    | .down => neg
  fpFlagged (if toInf then fpInf f neg else fpMaxFinite f neg) { FpFlags.none with o := true, i := true }

/-- Bits of a positive number. -/
def bitLength (m : Nat) : Nat := Nat.log2 m + 1

/-- An exact non-zero result `m * 2^e` (and a little more, if `sticky`) rounded once to a floating format (R702), a tiny one to a
denormal or to the smallest normal. Tininess is of the exact result (log entry 10). -/
def fpRound (f : FpFmt) (rm : RoundMode) (neg : Bool) (m : Nat) (e : Int) (sticky : Bool) : FpAnswer :=
  let normal := e + bitLength m - (f.fracBits + 1 : Nat)
  let q := max normal f.minQuantum
  let r := if q ≤ e then (m * 2 ^ (e - q).toNat, sticky) else roundShift rm neg m (q - e).toNat sticky
  let magnitude := (q - f.minQuantum).toNat * 2 ^ f.fracBits + r.1
  let tiny := decide (normal < f.minQuantum)
  if f.expMax * 2 ^ f.fracBits ≤ magnitude then fpOverflow f rm neg
  else ⟨fpPack f neg magnitude, { FpFlags.none with u := tiny && r.2, i := r.2 }, tiny⟩

/-- A signed exact result: zero has the sign of an exact difference, minus only toward minus infinity (R731). -/
def fpRoundInt (f : FpFmt) (rm : RoundMode) (v : Int) (e : Int) : FpAnswer :=
  if v = 0 then fpExact (fpZero f (decide (rm = .down)))
  else fpRound f rm (decide (v < 0)) v.natAbs e false

/-! ### Arithmetic -/

/-- A finite operand as a signed integer in units of `2^e`, for `e` not above its own exponent. -/
def fpUnits (f : FpFmt) (x : DWord) (e : Int) : Int :=
  let m : Int := (fpSig f x * 2 ^ (fpQuantum f x - e).toNat : Nat)
  if fpNeg f x then -m else m

/-- The sum of two operands that are not NaN. -/
def fpSum (f : FpFmt) (rm : RoundMode) (a b : DWord) : FpAnswer :=
  if fpIsInf f a then
    if fpIsInf f b && decide (fpNeg f a ≠ fpNeg f b) then fpInvalid f else fpExact a
  else if fpIsInf f b then fpExact b
  else if fpIsZero f a && fpIsZero f b && decide (fpNeg f a = fpNeg f b) then fpExact a
  else
    let e := min (fpQuantum f a) (fpQuantum f b)
    fpRoundInt f rm (fpUnits f a e + fpUnits f b e) e

/-- An operand with its sign changed. -/
def fpFlip (f : FpFmt) (x : DWord) : DWord := fpPack f (!fpNeg f x) (fpMagnitude f x)

/-- The product of two operands that are not NaN (R732). -/
def fpProduct (f : FpFmt) (rm : RoundMode) (a b : DWord) : FpAnswer :=
  let neg := fpNeg f a != fpNeg f b
  if fpIsInf f a || fpIsInf f b then
    if fpIsZero f a || fpIsZero f b then fpInvalid f else fpExact (fpInf f neg)
  else if fpIsZero f a || fpIsZero f b then fpExact (fpZero f neg)
  else fpRound f rm neg (fpSig f a * fpSig f b) (fpQuantum f a + fpQuantum f b) false

/-- Extra quotient bits, so that the quotient has more bits than the significand. -/
def divShift (f : FpFmt) (m : Nat) : Nat := f.fracBits + 3 + bitLength m

/-- The quotient of two operands that are not NaN (R733). -/
def fpQuotient (f : FpFmt) (rm : RoundMode) (a b : DWord) : FpAnswer :=
  let neg := fpNeg f a != fpNeg f b
  if fpIsInf f a then (if fpIsInf f b then fpInvalid f else fpExact (fpInf f neg))
  else if fpIsInf f b then fpExact (fpZero f neg)
  else if fpIsZero f b then
    if fpIsZero f a then fpInvalid f else fpFlagged (fpInf f neg) { FpFlags.none with z := true }
  else if fpIsZero f a then fpExact (fpZero f neg)
  else
    let k := divShift f (fpSig f b)
    let n := fpSig f a * 2 ^ k
    fpRound f rm neg (n / fpSig f b) (fpQuantum f a - fpQuantum f b - k) (decide (n % fpSig f b ≠ 0))

/-- The integer square root, one bit at a time from bit `k - 1` down. -/
def isqrt (m : Nat) : Nat → Nat → Nat
  | 0, r => r
  | k + 1, r => isqrt m k (if (r + 2 ^ k) * (r + 2 ^ k) ≤ m then r + 2 ^ k else r)

/-- The square root of an operand that is not NaN (R734); for a positive finite one the significand is made even in exponent and long
enough. -/
def fpRoot (f : FpFmt) (rm : RoundMode) (a : DWord) : FpAnswer :=
  if fpIsZero f a then fpExact a
  else if fpNeg f a then fpInvalid f
  else if fpIsInf f a then fpExact a
  else
    let sh := 2 * f.fracBits + 6 + (if fpQuantum f a % 2 = 0 then 0 else 1)
    let m := fpSig f a * 2 ^ sh
    let r := isqrt m (2 * f.fracBits + 8) 0
    fpRound f rm false r ((fpQuantum f a - sh) / 2) (decide (r * r ≠ m))

/-- An exact result that may be a denormal. -/
def fpExactIn (f : FpFmt) (v : DWord) : FpAnswer := ⟨v, FpFlags.none, fpIsDenormal f v⟩

/-! ### Conversions -/

/-- A floating operand that is not NaN to another floating format (R748, R749). -/
def fpToFloat (src dst : FpFmt) (rm : RoundMode) (a : DWord) : FpAnswer :=
  if fpIsInf src a then fpExact (fpInf dst (fpNeg src a))
  else if fpIsZero src a then fpExact (fpZero dst (fpNeg src a))
  else fpRound dst rm (fpNeg src a) (fpSig src a) (fpQuantum src a) false

/-- An operand of an integer format. -/
def fpIntOf (src : FpFmt) (a : DWord) : Int := if src = .w then (low32 a).toInt else a.toInt

/-- An integer operand to a floating format (R748, R749). -/
def fpFromInt (src dst : FpFmt) (rm : RoundMode) (a : DWord) : FpAnswer :=
  let v := fpIntOf src a
  if v = 0 then fpExact (fpZero dst false)
  else fpRound dst rm (decide (v < 0)) v.natAbs 0 false

/-- A finite floating operand rounded to an integer, with whether it is inexact. -/
def fpRoundToInt (src : FpFmt) (rm : RoundMode) (a : DWord) : Int × Bool :=
  let e := fpQuantum src a
  let r := if 0 ≤ e then (fpSig src a * 2 ^ e.toNat, false) else roundShift rm (fpNeg src a) (fpSig src a) (-e).toNat false
  (if fpNeg src a then -(r.1 : Int) else r.1, r.2)

/-- R790(c): an operand that no integer of the format stands for. -/
def fpNotInteger (src dst : FpFmt) (rm : RoundMode) (a : DWord) : Bool :=
  fpIsNan src a || fpIsInf src a || overflows dst.intBits (fpRoundToInt src rm a).1

/-- A floating operand to an integer format (R740 to R747, R750, R751); what is not representable is invalid, with a free value (log
entry 9). -/
def fpToInt (src dst : FpFmt) (rm : RoundMode) (a : DWord) : FpAnswer :=
  if fpNotInteger src dst rm a then fpFlagged (Config.invalidInteger dst a) { FpFlags.none with v := true }
  else fpFlagged (BitVec.ofInt 64 (fpRoundToInt src rm a).1) { FpFlags.none with i := (fpRoundToInt src rm a).2 }

/-- Whether a format is an integer format. -/
def FpFmt.isInteger (f : FpFmt) : Bool := f == .w || f == .l

/-! ### `FP` and `FP_UNIMPL` -/

/-- The default of `FP` on operands that are not NaN, but for conversions from an integer format (R702). -/
def fpNumber (op : FpOp) (f : FpFmt) (rm : RoundMode) (a b : DWord) : FpAnswer :=
  match op with
  | .add => fpSum f rm a b
  | .sub => fpSum f rm a (fpFlip f b)
  | .mul => fpProduct f rm a b
  | .div => fpQuotient f rm a b
  | .sqrt => fpRoot f rm a
  | .abs => fpExactIn f (fpPack f false (fpMagnitude f a))
  | .neg => fpExactIn f (fpFlip f a)
  | .cvt dst own => if f.isInteger then fpFromInt f dst own a else fpToFloat f dst own a

/-- The default of `FP` (R12, R702, D87): a signaling NaN is invalid, a quiet NaN gives a quiet NaN. An operation of one operand has `b` 0. -/
def fpIeee (op : FpOp) (f : FpFmt) (rm : RoundMode) (a b : DWord) : FpAnswer :=
  if (op.result f).isInteger then fpToInt f (op.result f) (op.rounding rm) a
  else if fpIsSignaling f a || fpIsSignaling f b then fpInvalid (op.result f)
  else if fpIsNan f a || fpIsNan f b then fpExact (fpNanResult op (op.result f) a b)
  else fpNumber op f rm a b

/-- `FP.op(operands, rm)`: the parameter's answer, and the default's at the operands it does not name. -/
def fpAnswer (cfg : Config) (op : FpOp) (f : FpFmt) (rm : RoundMode) (a b : DWord) : FpAnswer :=
  match cfg.fp.find? (fun x => decide (x.operands = ⟨op, f, a, b, op.rounding rm⟩)) with
  | some x => ⟨x.value, x.flags, fpIsDenormal (op.result f) x.value⟩
  | none => fpIeee op f rm a b

/-- R790(a). -/
def fpOperandUnimplemented (f : FpFmt) (x : DWord) : Bool := fpIsDenormal f x || fpIsSignaling f x

/-- The operations of R790(b). -/
def FpOp.canBeTiny (op : FpOp) (f : FpFmt) : Bool :=
  match op with
  | .add | .sub | .mul | .div | .sqrt => true
  | .abs | .neg => false
  | .cvt dst _ => dst == .s && f == .d

/-- R790(d): an L operand, of a conversion to a floating format, outside -2^55 to 2^55 - 1. -/
def fpLongUnimplemented (op : FpOp) (f : FpFmt) (a : DWord) : Bool :=
  f == .l && !(op.result f).isInteger && decide (fpIntOf f a < -(2 ^ 55) ∨ 2 ^ 55 - 1 < fpIntOf f a)

/-- The default of `FP_UNIMPL` (R790, clauses (a) to (d)). -/
def fpUnimplDefault (op : FpOp) (f : FpFmt) (fcsr : Word) (a b : DWord) : Bool :=
  fpOperandUnimplemented f a || fpOperandUnimplemented f b
    || ((!fcsrFs fcsr || bit fcsr 8 || bit fcsr 7) && op.canBeTiny f
        && (fpIeee op f (RoundMode.ofBits (fcsrRm fcsr)) a b).tiny)
    || ((op.result f).isInteger && fpNotInteger f (op.result f) (op.rounding (RoundMode.ofBits (fcsrRm fcsr))) a)
    || fpLongUnimplemented op f a

/-- `FP_UNIMPL(op, fmt, operands, rm)`: the parameter's answer, and the default's at the operands it does not name. -/
def fpUnimplemented (cfg : Config) (op : FpOp) (f : FpFmt) (fcsr : Word) (a b : DWord) : Bool :=
  match cfg.fpUnimpl.find? (fun x => decide (x.operands = ⟨op, f, a, b, RoundMode.ofBits (fcsrRm fcsr)⟩)) with
  | some x => x.unimplemented
  | none => fpUnimplDefault op f fcsr a b

/-- The flushed value of a tiny result (D87). -/
def fpFlush (f : FpFmt) (rm : RoundMode) (neg : Bool) : DWord :=
  match rm, neg with
  | .up, false => fpMinNormal f false
  | .down, true => fpMinNormal f true
  | _, _ => fpZero f neg

/-- An answer with the flush of D87, when FCSR.FS = 1: a tiny result gives way to the flushed value with U and I. -/
def fpFlushed (fs : Bool) (f : FpFmt) (rm : RoundMode) (r : FpAnswer) : FpOutcome :=
  if fs && r.tiny then .value (fpFlush f rm (fpNeg f r.value)) { FpFlags.none with u := true, i := true }
  else .value r.value r.flags

/-- What `FpArith` finds: an unimplemented operation, or the answer of `FP` with the flush of D87 (R703). -/
def fpOutcome (cfg : Config) (op : FpOp) (f : FpFmt) (fcsr : Word) (a b : DWord) : FpOutcome :=
  let rm := RoundMode.ofBits (fcsrRm fcsr)
  if fpUnimplemented cfg op f fcsr a b then .unimplemented
  else fpFlushed (fcsrFs fcsr) (op.result f) (op.rounding rm) (fpAnswer cfg op f rm a b)

/-! ### Comparison -/

/-- An operand that is not a NaN as an integer in the order of the numbers. -/
def fpKey (f : FpFmt) (x : DWord) : Int := if fpNeg f x then -(fpMagnitude f x : Int) else fpMagnitude f x

/-- The default of `FP.cmp` (R702, R760). -/
def fpCmpIeee (f : FpFmt) (a b : DWord) : FpOrder :=
  if fpIsNan f a || fpIsNan f b then .un
  else if fpKey f a < fpKey f b then .lt
  else if fpKey f a = fpKey f b then .eq
  else .gt

/-- `FP.cmp`: the parameter's answer, and the default's at the operands it does not name. -/
def fpCmp (cfg : Config) (f : FpFmt) (a b : DWord) : FpOrder :=
  match cfg.fpCmp.find? (fun x => decide (x.fmt = f ∧ x.a = a ∧ x.b = b)) with
  | some x => x.order
  | none => fpCmpIeee f a b

/-- The result of a compare condition (R760). -/
def fpCondHolds (cond : BitVec 4) (o : FpOrder) : Bool :=
  (decide (o = .lt) && bit cond 2) || (decide (o = .eq) && bit cond 1) || (decide (o = .un) && bit cond 0)

/-! ### The procedures of the instructions -/

/-- An operand as its format reads it (R700). -/
def State.fpRead (f : FpFmt) (n : RegIdx) (s : State) : DWord :=
  match f with
  | .s | .w => zext32 (s.fgr32 n)
  | .d | .l => s.fgr64 n

/-- A result as its format writes it (R700). -/
def State.fpWrite (f : FpFmt) (n : RegIdx) (v : DWord) (s : State) : State :=
  match f with
  | .s | .w => s.setFgr32 n (low32 v)
  | .d | .l => s.setFgr64 n v

/-- Set FCSR. -/
def State.setFcsr (w : Word) (s : State) : State := { s with fcsr := w }

/-- `FCSR.Cause <- 0; FCSR.Cause.E <- 1; raise FPE()` (R703, D74). -/
def fpUnimplementedTrap (s : State) : State := takeException .fpe (s.setFcsr (setFpUnimplemented s.fcsr))

/-- `FpArith` once the operation has answered (R703). -/
def fpArith (o : FpOutcome) (dst : FpFmt) (fd : RegIdx) (s : State) : Result :=
  match o with
  | .unimplemented => .next (fpUnimplementedTrap s)
  | .value v fl =>
    if fpTraps fl s.fcsr then .next (takeException .fpe (s.setFcsr (setFpCause fl s.fcsr)))
    else .next (((s.setFcsr (accrueFpFlags fl (setFpCause fl s.fcsr))).fpWrite dst fd v).retire)

/-- When a compare signals V (R760). -/
def fpCompareInvalid (f : FpFmt) (cond : BitVec 4) (o : FpOrder) (a b : DWord) : Bool :=
  decide (o = .un) && (bit cond 3 || fpIsSignaling f a || fpIsSignaling f b)

/-- `FpCompare(fmt, cond, fs, ft)` for the legal formats (R760). -/
def fpCompare (f : FpFmt) (cond : BitVec 4) (fs ft : RegIdx) (s : State) : Result :=
  let a := s.fpRead f fs
  let b := s.fpRead f ft
  let o := fpCmp s.cfg f a b
  let fl : FpFlags := { FpFlags.none with v := fpCompareInvalid f cond o a b }
  if fpTraps fl s.fcsr then .next (takeException .fpe (s.setFcsr (setFpCause fl s.fcsr)))
  else .next ((s.setFcsr (setFcsrC (fpCondHolds cond o) (accrueFpFlags fl (setFpCause fl s.fcsr)))).retire)

end Sys2Proof.Machine
end

