-- ==== Sys2Proof/Machine/Integer.lean ====
section
/-! DEFINITION. Integer arithmetic, logical, set and shift instructions (`40_integer.md` R400 to R440). -/

namespace Sys2Proof.Machine

/-! ### Shared operations -/

/-- Write a 32-bit result sign-extended and go on (R400(c)). -/
def finishWord (rd : RegIdx) (v : Word) (s : State) : Result := (s.setX rd (sext32 v)).done

/-- Write a 64-bit result and go on. -/
def finishDouble (rd : RegIdx) (v : DWord) (s : State) : Result := (s.setX rd v).done

/-- A trapping word operation on its exact signed result: Ov, or the result (R400(e)). -/
def finishTrappingWord (rd : RegIdx) (t : Int) (s : State) : Result :=
  if overflows 32 t then .next (takeException .ov s) else finishWord rd (BitVec.ofInt 32 t) s

/-- A trapping doubleword operation on its exact signed result (R400(e)). -/
def finishTrappingDouble (rd : RegIdx) (t : Int) (s : State) : Result :=
  if overflows 64 t then .next (takeException .ov s) else finishDouble rd (BitVec.ofInt 64 t) s

/-- An operation that needs 64-bit operations enabled (R400(d), R803). -/
def with64 (k : State → Result) (s : State) : Result := (require64 s).finish fun _ s => k s

/-- 1 or 0 (R421 to R424). -/
def setBool (b : Bool) : DWord := boolBit 64 b

/-! ### Add and subtract -/

/-- ADD: R401. -/
def execAdd (rd rs rt : RegIdx) (s : State) : Result :=
  finishTrappingWord rd ((low32 (s.x rs)).toInt + (low32 (s.x rt)).toInt) s

/-- ADDU: R402. -/
def execAddu (rd rs rt : RegIdx) (s : State) : Result :=
  finishWord rd (low32 (s.x rs) + low32 (s.x rt)) s

/-- SUB: R403. -/
def execSub (rd rs rt : RegIdx) (s : State) : Result :=
  finishTrappingWord rd ((low32 (s.x rs)).toInt - (low32 (s.x rt)).toInt) s

/-- SUBU: R404. -/
def execSubu (rd rs rt : RegIdx) (s : State) : Result :=
  finishWord rd (low32 (s.x rs) - low32 (s.x rt)) s

/-- ADDI: R405. -/
def execAddi (rt rs : RegIdx) (imm : Half) (s : State) : Result :=
  finishTrappingWord rt ((low32 (s.x rs)).toInt + imm.toInt) s

/-- ADDIU: R406. -/
def execAddiu (rt rs : RegIdx) (imm : Half) (s : State) : Result :=
  finishWord rt (low32 (s.x rs) + low32 (sext16 imm)) s

/-- DADD: R407. -/
def execDadd (rd rs rt : RegIdx) (s : State) : Result :=
  with64 (fun s => finishTrappingDouble rd ((s.x rs).toInt + (s.x rt).toInt) s) s

/-- DADDU: R408. -/
def execDaddu (rd rs rt : RegIdx) (s : State) : Result :=
  with64 (fun s => finishDouble rd (s.x rs + s.x rt) s) s

/-- DSUB: R409. -/
def execDsub (rd rs rt : RegIdx) (s : State) : Result :=
  with64 (fun s => finishTrappingDouble rd ((s.x rs).toInt - (s.x rt).toInt) s) s

/-- DSUBU: R410. -/
def execDsubu (rd rs rt : RegIdx) (s : State) : Result :=
  with64 (fun s => finishDouble rd (s.x rs - s.x rt) s) s

/-- DADDI: R411. -/
def execDaddi (rt rs : RegIdx) (imm : Half) (s : State) : Result :=
  with64 (fun s => finishTrappingDouble rt ((s.x rs).toInt + imm.toInt) s) s

/-- DADDIU: R412. -/
def execDaddiu (rt rs : RegIdx) (imm : Half) (s : State) : Result :=
  with64 (fun s => finishDouble rt (s.x rs + sext16 imm) s) s

/-! ### Logical -/

/-- AND: R413. -/
def execAnd (rd rs rt : RegIdx) (s : State) : Result :=
  finishDouble rd (s.x rs &&& s.x rt) s

/-- OR: R414. -/
def execOr (rd rs rt : RegIdx) (s : State) : Result :=
  finishDouble rd (s.x rs ||| s.x rt) s

/-- XOR: R415. -/
def execXor (rd rs rt : RegIdx) (s : State) : Result :=
  finishDouble rd (s.x rs ^^^ s.x rt) s

/-- NOR: R416. -/
def execNor (rd rs rt : RegIdx) (s : State) : Result :=
  finishDouble rd (~~~(s.x rs ||| s.x rt)) s

/-- ANDI: R417. -/
def execAndi (rt rs : RegIdx) (imm : Half) (s : State) : Result :=
  finishDouble rt (s.x rs &&& zext16 imm) s

/-- ORI: R418. -/
def execOri (rt rs : RegIdx) (imm : Half) (s : State) : Result :=
  finishDouble rt (s.x rs ||| zext16 imm) s

/-- XORI: R419. -/
def execXori (rt rs : RegIdx) (imm : Half) (s : State) : Result :=
  finishDouble rt (s.x rs ^^^ zext16 imm) s

/-- LUI: R420. -/
def execLui (rt : RegIdx) (imm : Half) (s : State) : Result :=
  finishWord rt (imm ++ 0#16) s

/-! ### Set on less than -/

/-- SLT: R421. -/
def execSlt (rd rs rt : RegIdx) (s : State) : Result :=
  finishDouble rd (setBool ((s.x rs).slt (s.x rt))) s

/-- SLTU: R422. -/
def execSltu (rd rs rt : RegIdx) (s : State) : Result :=
  finishDouble rd (setBool ((s.x rs).ult (s.x rt))) s

/-- SLTI: R423. -/
def execSlti (rt rs : RegIdx) (imm : Half) (s : State) : Result :=
  finishDouble rt (setBool ((s.x rs).slt (sext16 imm))) s

/-- SLTIU: R424, the immediate sign-extended and compared unsigned. -/
def execSltiu (rt rs : RegIdx) (imm : Half) (s : State) : Result :=
  finishDouble rt (setBool ((s.x rs).ult (sext16 imm))) s

/-! ### Shifts -/

/-- SLL: R425. -/
def execSll (rd rt : RegIdx) (sa : Nat) (s : State) : Result :=
  finishWord rd (low32 (s.x rt) <<< sa) s

/-- SRL: R426. -/
def execSrl (rd rt : RegIdx) (sa : Nat) (s : State) : Result :=
  finishWord rd (low32 (s.x rt) >>> sa) s

/-- SRA: R427, the 64-bit source (D84). -/
def execSra (rd rt : RegIdx) (sa : Nat) (s : State) : Result :=
  finishWord rd (low32 ((s.x rt).sshiftRight sa)) s

/-- SLLV: R428. -/
def execSllv (rd rt rs : RegIdx) (s : State) : Result :=
  finishWord rd (low32 (s.x rt) <<< shiftAmount5 rs s) s

/-- SRLV: R429. -/
def execSrlv (rd rt rs : RegIdx) (s : State) : Result :=
  finishWord rd (low32 (s.x rt) >>> shiftAmount5 rs s) s

/-- SRAV: R430, the 64-bit source (D84). -/
def execSrav (rd rt rs : RegIdx) (s : State) : Result :=
  finishWord rd (low32 ((s.x rt).sshiftRight (shiftAmount5 rs s))) s

/-- DSLL: R431. -/
def execDsll (rd rt : RegIdx) (sa : Nat) (s : State) : Result :=
  with64 (fun s => finishDouble rd (s.x rt <<< sa) s) s

/-- DSRL: R432. -/
def execDsrl (rd rt : RegIdx) (sa : Nat) (s : State) : Result :=
  with64 (fun s => finishDouble rd (s.x rt >>> sa) s) s

/-- DSRA: R433. -/
def execDsra (rd rt : RegIdx) (sa : Nat) (s : State) : Result :=
  with64 (fun s => finishDouble rd ((s.x rt).sshiftRight sa) s) s

/-- DSLL32: R434. -/
def execDsll32 (rd rt : RegIdx) (sa : Nat) (s : State) : Result :=
  with64 (fun s => finishDouble rd (s.x rt <<< (sa + 32)) s) s

/-- DSRL32: R435. -/
def execDsrl32 (rd rt : RegIdx) (sa : Nat) (s : State) : Result :=
  with64 (fun s => finishDouble rd (s.x rt >>> (sa + 32)) s) s

/-- DSRA32: R436. -/
def execDsra32 (rd rt : RegIdx) (sa : Nat) (s : State) : Result :=
  with64 (fun s => finishDouble rd ((s.x rt).sshiftRight (sa + 32)) s) s

/-- DSLLV: R437. -/
def execDsllv (rd rt rs : RegIdx) (s : State) : Result :=
  with64 (fun s => finishDouble rd (s.x rt <<< shiftAmount6 rs s) s) s

/-- DSRLV: R438. -/
def execDsrlv (rd rt rs : RegIdx) (s : State) : Result :=
  with64 (fun s => finishDouble rd (s.x rt >>> shiftAmount6 rs s) s) s

/-- DSRAV: R439. -/
def execDsrav (rd rt rs : RegIdx) (s : State) : Result :=
  with64 (fun s => finishDouble rd ((s.x rt).sshiftRight (shiftAmount6 rs s)) s) s

end Sys2Proof.Machine
end

