-- ==== Sys2Proof/Machine/LoadStore.lean ====
section
/-! DEFINITION. Loads, stores, load-linked and store-conditional, SYNC and CACHE (`43_loadstore.md` R550 to R597). -/

namespace Sys2Proof.Machine

/-! ### Shared operations -/

/-- A load of `n` bytes into rt through an extension of the value read (R552 to R559). -/
def loadWith (ext : DWord → DWord) (n : Nat) (rt base : RegIdx) (offset : Half) (s : State) : Result :=
  (memRead (effectiveAddress base offset s) n s).finish fun v s => finishDouble rt (ext v) s

/-- A store of `n` bytes of rt (R560 to R563). -/
def storeWith (n : Nat) (rt base : RegIdx) (offset : Half) (s : State) : Result :=
  (memWrite (effectiveAddress base offset s) n (s.x rt) s).finish fun _ s => s.done

/-- `sext_64` of the low `n` bits. -/
def sextLow (n : Nat) (v : DWord) : DWord := (v.setWidth n).signExtend 64

/-- The aligned unit of `n` bytes that contains an address, `ea & ~(n - 1)` (R564). -/
def alignDown (ea : DWord) (n : Nat) : DWord := ea - BitVec.ofNat 64 (ea.toNat % n)

/-- An unaligned load: the aligned unit merged into the old value of rt (R564 to R567). An address error records the effective address (R811,
R212); a TLB exception the aligned one, DEDUCED from the pseudocode's `MemRead(ea & ~3, 4)` (R218, R219; log entry 32). -/
def loadMerge (merge : Nat → DWord → DWord → DWord) (n : Nat) (rt base : RegIdx) (offset : Half) (s : State) : Result :=
  let ea := effectiveAddress base offset s
  ((memRead (alignDown ea n) n s).withAddress (s.adjusted ea)).finish fun v s => finishDouble rt (merge (ea.toNat % n) v (s.x rt)) s

/-- LWL's merge: byte offset, word read, old register (R564, D27). -/
def mergeLwl (b : Nat) (w old : DWord) : DWord :=
  sext32 ((low32 w <<< (8 * b)) ||| (low32 old &&& BitVec.ofNat 32 (2 ^ (8 * b) - 1)))

/-- LWR's merge (R565, D27). -/
def mergeLwr (b : Nat) (w old : DWord) : DWord :=
  sext32 ((low32 w >>> (8 * (3 - b))) ||| (low32 old &&& ~~~(0xFFFFFFFF#32 >>> (8 * (3 - b)))))

/-- LDL's merge (R566). -/
def mergeLdl (b : Nat) (d old : DWord) : DWord := (d <<< (8 * b)) ||| (old &&& BitVec.ofNat 64 (2 ^ (8 * b) - 1))

/-- LDR's merge (R567). -/
def mergeLdr (b : Nat) (d old : DWord) : DWord :=
  (d >>> (8 * (7 - b))) ||| (old &&& ~~~(0xFFFFFFFFFFFFFFFF#64 >>> (8 * (7 - b))))

/-- An unaligned store: a masked write of the aligned unit; `place` gives the value and the mask from the byte offset and rt
(R568 to R571). The address an exception records is as for `loadMerge` (R811; DEDUCED, log entry 32). -/
def storeMasked (place : Nat → DWord → DWord × DWord) (n : Nat) (rt base : RegIdx) (offset : Half) (s : State) : Result :=
  let ea := effectiveAddress base offset s
  let p := place (ea.toNat % n) (s.x rt)
  ((memWriteMasked (alignDown ea n) n p.1 p.2 s).withAddress (s.adjusted ea)).finish fun _ s => s.done

/-- SWL's value and mask (R568). -/
def placeSwl (b : Nat) (v : DWord) : DWord × DWord :=
  (zext32 (low32 v >>> (8 * b)), zext32 (0xFFFFFFFF#32 >>> (8 * b)))

/-- SWR's value and mask (R569). -/
def placeSwr (b : Nat) (v : DWord) : DWord × DWord :=
  (zext32 (low32 v <<< (8 * (3 - b))), zext32 (0xFFFFFFFF#32 <<< (8 * (3 - b))))

/-- SDL's value and mask (R570). -/
def placeSdl (b : Nat) (v : DWord) : DWord × DWord := (v >>> (8 * b), 0xFFFFFFFFFFFFFFFF#64 >>> (8 * b))

/-- SDR's value and mask (R571). -/
def placeSdr (b : Nat) (v : DWord) : DWord × DWord := (v <<< (8 * (7 - b)), 0xFFFFFFFFFFFFFFFF#64 <<< (8 * (7 - b)))

/-- Set LLbit and LLAddr to the physical address of a load-linked (R578, D28). -/
def State.reserve (pa : Word) (s : State) : State :=
  { s with llBit := true, cop0 := { s.cop0 with llAddr := pa >>> 4 } }

/-- A load-linked of `n` bytes (R578, R579). -/
def loadLinked (ext : DWord → DWord) (n : Nat) (rt base : RegIdx) (offset : Half) (s : State) : Result :=
  (memReadPa (effectiveAddress base offset s) n s).finish fun r s => finishDouble rt (ext r.2) (s.reserve r.1)

/-- A store-conditional of `n` bytes (R580, R581). -/
def storeConditional (n : Nat) (rt base : RegIdx) (offset : Half) (s : State) : Result :=
  (memWriteConditional (effectiveAddress base offset s) n (s.x rt) s).finish fun ok s => finishDouble rt (setBool ok) s

/-! ### Loads -/

/-- LB: R553. -/
def execLb (rt base : RegIdx) (offset : Half) (s : State) : Result :=
  loadWith (sextLow 8) 1 rt base offset s

/-- LBU: R554. -/
def execLbu (rt base : RegIdx) (offset : Half) (s : State) : Result :=
  loadWith id 1 rt base offset s

/-- LH: R555. -/
def execLh (rt base : RegIdx) (offset : Half) (s : State) : Result :=
  loadWith (sextLow 16) 2 rt base offset s

/-- LHU: R556. -/
def execLhu (rt base : RegIdx) (offset : Half) (s : State) : Result :=
  loadWith id 2 rt base offset s

/-- LW: R557. -/
def execLw (rt base : RegIdx) (offset : Half) (s : State) : Result :=
  loadWith (sextLow 32) 4 rt base offset s

/-- LWU: R558. -/
def execLwu (rt base : RegIdx) (offset : Half) (s : State) : Result :=
  with64 (fun s => loadWith id 4 rt base offset s) s

/-- LD: R559. -/
def execLd (rt base : RegIdx) (offset : Half) (s : State) : Result :=
  with64 (fun s => loadWith id 8 rt base offset s) s

/-! ### Stores -/

/-- SB: R560. -/
def execSb (rt base : RegIdx) (offset : Half) (s : State) : Result :=
  storeWith 1 rt base offset s

/-- SH: R561. -/
def execSh (rt base : RegIdx) (offset : Half) (s : State) : Result :=
  storeWith 2 rt base offset s

/-- SW: R562. -/
def execSw (rt base : RegIdx) (offset : Half) (s : State) : Result :=
  storeWith 4 rt base offset s

/-- SD: R563. -/
def execSd (rt base : RegIdx) (offset : Half) (s : State) : Result :=
  with64 (fun s => storeWith 8 rt base offset s) s

/-! ### Unaligned loads and stores -/

/-- LWL: R564. -/
def execLwl (rt base : RegIdx) (offset : Half) (s : State) : Result :=
  loadMerge mergeLwl 4 rt base offset s

/-- LWR: R565. -/
def execLwr (rt base : RegIdx) (offset : Half) (s : State) : Result :=
  loadMerge mergeLwr 4 rt base offset s

/-- LDL: R566. -/
def execLdl (rt base : RegIdx) (offset : Half) (s : State) : Result :=
  with64 (fun s => loadMerge mergeLdl 8 rt base offset s) s

/-- LDR: R567. -/
def execLdr (rt base : RegIdx) (offset : Half) (s : State) : Result :=
  with64 (fun s => loadMerge mergeLdr 8 rt base offset s) s

/-- SWL: R568. -/
def execSwl (rt base : RegIdx) (offset : Half) (s : State) : Result :=
  storeMasked placeSwl 4 rt base offset s

/-- SWR: R569. -/
def execSwr (rt base : RegIdx) (offset : Half) (s : State) : Result :=
  storeMasked placeSwr 4 rt base offset s

/-- SDL: R570. -/
def execSdl (rt base : RegIdx) (offset : Half) (s : State) : Result :=
  with64 (fun s => storeMasked placeSdl 8 rt base offset s) s

/-- SDR: R571. -/
def execSdr (rt base : RegIdx) (offset : Half) (s : State) : Result :=
  with64 (fun s => storeMasked placeSdr 8 rt base offset s) s

/-! ### Load-linked, store-conditional, SYNC, CACHE -/

/-- LL: R578. -/
def execLl (rt base : RegIdx) (offset : Half) (s : State) : Result :=
  loadLinked (sextLow 32) 4 rt base offset s

/-- LLD: R579. -/
def execLld (rt base : RegIdx) (offset : Half) (s : State) : Result :=
  with64 (fun s => loadLinked id 8 rt base offset s) s

/-- SC: R580. -/
def execSc (rt base : RegIdx) (offset : Half) (s : State) : Result :=
  storeConditional 4 rt base offset s

/-- SCD: R581. -/
def execScd (rt base : RegIdx) (offset : Half) (s : State) : Result :=
  with64 (fun s => storeConditional 8 rt base offset s) s

/-- SYNC: R582: no operation, because every access is already ordered (R260, D29). -/
def execSync (_stype : BitVec 5) (s : State) : Result :=
  s.done

/-- CACHE: R584. -/
def execCache (op : BitVec 5) (base : RegIdx) (offset : Half) (s : State) : Result :=
  (checkCop 0#2 s).finish fun _ s =>
  (translate (effectiveAddress base offset s) .load s).finish fun p s =>
  (cacheOp op p.1 s).finish fun _ s => s.done

end Sys2Proof.Machine
end

