-- ==== Sys2Proof/Machine/Cop0.lean ====
section
/-! DEFINITION. Reading and writing coprocessor-0 registers by number, and the operations on TLB entries (`10_state.md` R112 to R133;
`44_system.md` R624 to R634). -/

namespace Sys2Proof.Machine

/-- PRId (R127). -/
def prId : Word := 0x00000B22#32

/-- `ReadCop0(n)`: a 32-bit register is zero-extended (R624, D31); unused numbers, CacheErr and TagHi read 0 (D30). -/
def readCop0 (n : RegIdx) (s : State) : DWord :=
  let c := s.cop0
  match n.val with
  | 0 => zext32 c.index
  | 1 => zext32 c.random
  | 2 => c.entryLo0
  | 3 => c.entryLo1
  | 4 => c.context
  | 5 => zext32 c.pageMask
  | 6 => zext32 c.wired
  | 8 => c.badVAddr
  | 9 => zext32 s.count
  | 10 => c.entryHi
  | 11 => zext32 c.compare
  | 12 => zext32 c.status
  | 13 => zext32 s.causeView
  | 14 => c.epc
  | 15 => zext32 prId
  | 16 => zext32 c.config
  | 17 => zext32 c.llAddr
  | 18 => zext32 c.watchLo
  | 19 => zext32 c.watchHi
  | 20 => c.xContext
  | 26 => zext32 c.parityError
  | 28 => zext32 c.tagLo
  | 30 => c.errorEpc
  | _ => 0#64

/-- The coprocessor-0 registers after a write to number `n` (R113, R625); a write to Wired sets Random, a write to Compare clears IP7; the Status mask keeps TS and the zero bits, the Cause
mask is IP1:0, and the Config mask leaves BE alone (D5). -/
def Cop0.written (n : Nat) (v : DWord) (c : Cop0) : Cop0 :=
  let w := low32 v
  match n with
  | 0 => { c with index := masked 0x8000003F#32 c.index w }
  | 2 => { c with entryLo0 := masked 0x000000003FFFFFFF#64 c.entryLo0 v }
  | 3 => { c with entryLo1 := masked 0x000000003FFFFFFF#64 c.entryLo1 v }
  | 4 => { c with context := masked 0xFFFFFFFFFF800000#64 c.context v }
  | 5 => { c with pageMask := masked 0x01FFE000#32 c.pageMask w }
  | 6 => { c with wired := masked 0x0000003F#32 c.wired w, random := 31#32 }
  | 10 => { c with entryHi := masked 0xC00000FFFFFFE0FF#64 c.entryHi v }
  | 11 => { c with compare := w, cause := setBit c.cause 15 false }
  | 12 => { c with status := masked 0xFF57FFFF#32 c.status w }
  | 13 => { c with cause := masked 0x00000300#32 c.cause w }
  | 14 => { c with epc := v }
  | 16 => { c with config := masked 0x0F00000F#32 c.config w }
  | 17 => { c with llAddr := w }
  | 18 => { c with watchLo := masked 0xFFFFFFFB#32 c.watchLo w }
  | 19 => { c with watchHi := masked 0x0000000F#32 c.watchHi w }
  | 20 => { c with xContext := masked 0xFFFFFFFE00000000#64 c.xContext v }
  | 26 => { c with parityError := masked 0x000000FF#32 c.parityError w }
  | 28 => { c with tagLo := masked 0x0FFFFFC0#32 c.tagLo w }
  | 30 => { c with errorEpc := v }
  | _ => c

/-- `WriteCop0(n, v)` with the side effects of R625: Count and Compare reschedule the timer (R905, D35). -/
def writeCop0 (n : RegIdx) (v : DWord) (s : State) : State :=
  let t := { s with cop0 := s.cop0.written n.val v }
  match n.val with
  | 9 => State.scheduleCompare s.elapsed { t with count33 := (low32 v) ++ 0#1 }
  | 11 => t.scheduleCompare s.elapsed
  | _ => t

/-! ### TLB operations -/

/-- Each pair of mask bits becomes its upper bit (R634, D40). -/
def normaliseMask (m : BitVec 12) : BitVec 12 := (m &&& 0xAAA#12) ||| ((m &&& 0xAAA#12) >>> 1)

/-- A half of an entry from an EntryLo register (R634). -/
def TlbHalf.ofEntryLo (v : DWord) : TlbHalf where
  pfn := bitField v 6 24
  c := bitField v 3 3
  d := bit v 2
  v := bit v 1

/-- The entry that the COP0 registers describe (R634, D40, D45). -/
def Cop0.tlbEntry (c : Cop0) : TlbEntry where
  mask := normaliseMask (bitField c.pageMask 13 12)
  vpn2 := bitField c.entryHi 13 27 &&& ~~~((normaliseMask (bitField c.pageMask 13 12)).setWidth 27)
  r := bitField c.entryHi 62 2
  asid := bitField c.entryHi 0 8
  g := bit c.entryLo0 0 && bit c.entryLo1 0
  lo0 := TlbHalf.ofEntryLo c.entryLo0
  lo1 := TlbHalf.ofEntryLo c.entryLo1

/-- `TlbWrite(i)` (R634). -/
def tlbWrite (i : Fin 32) (s : State) : State := { s with tlb := s.tlb.set i.val s.cop0.tlbEntry }

/-- Index[4:0] (R114, D42). -/
def State.indexEntry (s : State) : Fin 32 := (bitField s.cop0.index 0 5).toFin

/-- Random[4:0] (R115, D42). -/
def State.randomEntry (s : State) : Fin 32 := (bitField s.cop0.random 0 5).toFin

/-- EntryLo from a half and the entry's G (R630, D45). -/
def TlbHalf.toEntryLo (g : Bool) (h : TlbHalf) : DWord :=
  (h.pfn.setWidth 64 <<< 6) ||| (h.c.setWidth 64 <<< 3) ||| (boolBit 64 h.d <<< 2) ||| (boolBit 64 h.v <<< 1) ||| boolBit 64 g

/-- EntryHi from an entry (R630). -/
def TlbEntry.toEntryHi (e : TlbEntry) : DWord :=
  (e.r.setWidth 64 <<< 62) ||| (e.vpn2.setWidth 64 <<< 13) ||| e.asid.setWidth 64

/-- The COP0 registers after reading an entry (R630). -/
def Cop0.readEntry (e : TlbEntry) (c : Cop0) : Cop0 :=
  { c with
    pageMask := e.mask.setWidth 32 <<< 13
    entryHi := e.toEntryHi
    entryLo0 := e.lo0.toEntryLo e.g
    entryLo1 := e.lo1.toEntryLo e.g }

/-- Index after a probe (R633, D43). -/
def probeIndex (found : Option (Nat × TlbEntry)) (index : Word) : Word :=
  match found with
  | some (i, _) => BitVec.ofNat 32 i
  | none => 0x80000000#32 ||| (index &&& 0x3F#32)

/-- `TLBP` (R633): the lookup of translation, on the EntryHi address. -/
def tlbProbe (s : State) : State :=
  { s with cop0 := { s.cop0 with
      index := probeIndex (s.tlbFind s.cop0.entryHi (bitField s.cop0.entryHi 0 8)) s.cop0.index } }

end Sys2Proof.Machine
end

