-- ==== Sys2Proof/Machine/System.lean ====
section
/-! DEFINITION. System calls, traps, coprocessor-0 moves, TLB operations, ERET, and the encodings of absent and reserved instructions
(`44_system.md` R600 to R660; `45_fpu.md` R703). -/

namespace Sys2Proof.Machine

/-! ### Shared operations -/

/-- Take the exception, whatever the operands. -/
def raiseAlways (e : Exc) (s : State) : Result := .next (takeException e s)

/-- A conditional trap (R602 to R613). -/
def trapIf (c : Bool) (s : State) : Result := if c then .next (takeException .tr s) else s.done

/-- An instruction that needs coprocessor `n` (R802). -/
def withCop (n : BitVec 2) (k : State → Result) (s : State) : Result := (checkCop n s).finish fun _ s => k s

/-- An encoding of the absent coprocessor 2: CpU(2) when CU2 = 0, RI otherwise (R660, D23). -/
def absentCop2 (s : State) : Result := withCop 2#2 (raiseAlways .ri) s

/-! ### System calls, breakpoints and traps -/

/-- SYSCALL: R600. -/
def execSyscall (_code : BitVec 20) (s : State) : Result :=
  raiseAlways .sys s

/-- BREAK: R601. -/
def execBrk (_code : BitVec 20) (s : State) : Result :=
  raiseAlways .bp s

/-- TGE: R602. -/
def execTge (rs rt : RegIdx) (_code : BitVec 10) (s : State) : Result :=
  trapIf (!(s.x rs).slt (s.x rt)) s

/-- TGEU: R603. -/
def execTgeu (rs rt : RegIdx) (_code : BitVec 10) (s : State) : Result :=
  trapIf (!(s.x rs).ult (s.x rt)) s

/-- TLT: R604. -/
def execTlt (rs rt : RegIdx) (_code : BitVec 10) (s : State) : Result :=
  trapIf ((s.x rs).slt (s.x rt)) s

/-- TLTU: R605. -/
def execTltu (rs rt : RegIdx) (_code : BitVec 10) (s : State) : Result :=
  trapIf ((s.x rs).ult (s.x rt)) s

/-- TEQ: R606. -/
def execTeq (rs rt : RegIdx) (_code : BitVec 10) (s : State) : Result :=
  trapIf (decide (s.x rs = s.x rt)) s

/-- TNE: R607. -/
def execTne (rs rt : RegIdx) (_code : BitVec 10) (s : State) : Result :=
  trapIf (decide (s.x rs ≠ s.x rt)) s

/-- TGEI: R608. -/
def execTgei (rs : RegIdx) (imm : Half) (s : State) : Result :=
  trapIf (!(s.x rs).slt (sext16 imm)) s

/-- TGEIU: R609. -/
def execTgeiu (rs : RegIdx) (imm : Half) (s : State) : Result :=
  trapIf (!(s.x rs).ult (sext16 imm)) s

/-- TLTI: R610. -/
def execTlti (rs : RegIdx) (imm : Half) (s : State) : Result :=
  trapIf ((s.x rs).slt (sext16 imm)) s

/-- TLTIU: R611. -/
def execTltiu (rs : RegIdx) (imm : Half) (s : State) : Result :=
  trapIf ((s.x rs).ult (sext16 imm)) s

/-- TEQI: R612. -/
def execTeqi (rs : RegIdx) (imm : Half) (s : State) : Result :=
  trapIf (decide (s.x rs = sext16 imm)) s

/-- TNEI: R613. -/
def execTnei (rs : RegIdx) (imm : Half) (s : State) : Result :=
  trapIf (decide (s.x rs ≠ sext16 imm)) s

/-! ### Coprocessor-0 moves -/

/-- MFC0: R620. -/
def execMfc0 (rt rd : RegIdx) (s : State) : Result :=
  withCop 0#2 (fun s => finishWord rt (low32 (readCop0 rd s)) s) s

/-- DMFC0: R621. -/
def execDmfc0 (rt rd : RegIdx) (s : State) : Result :=
  withCop 0#2 (with64 fun s => finishDouble rt (readCop0 rd s) s) s

/-- MTC0: R622. -/
def execMtc0 (rt rd : RegIdx) (s : State) : Result :=
  withCop 0#2 (fun s => (writeCop0 rd (sext32 (low32 (s.x rt))) s).done) s

/-- DMTC0: R623. -/
def execDmtc0 (rt rd : RegIdx) (s : State) : Result :=
  withCop 0#2 (with64 fun s => (writeCop0 rd (s.x rt) s).done) s

/-! ### TLB operations and exception return -/

/-- TLBR: R630. -/
def execTlbr (s : State) : Result :=
  withCop 0#2 (fun s => State.done { s with cop0 := s.cop0.readEntry s.tlb[s.indexEntry.val] }) s

/-- TLBWI: R631. -/
def execTlbwi (s : State) : Result :=
  withCop 0#2 (fun s => (tlbWrite s.indexEntry s).done) s

/-- TLBWR: R632. -/
def execTlbwr (s : State) : Result :=
  withCop 0#2 (fun s => (tlbWrite s.randomEntry s).done) s

/-- TLBP: R633. -/
def execTlbp (s : State) : Result :=
  withCop 0#2 (fun s => (tlbProbe s).done) s

/-- ERET: R640: the pc is written, so Advance does nothing (R508). -/
def execEret (s : State) : Result :=
  withCop 0#2 (fun s => .next (returnFromException s)) s

/-! ### Coprocessor 2, absent -/

/-- COP2: R660. -/
def execCop2 (s : State) : Result :=
  absentCop2 s

/-- LWC2: R660. -/
def execLwc2 (_rt _base : RegIdx) (_offset : Half) (s : State) : Result :=
  absentCop2 s

/-- LDC2: R660. -/
def execLdc2 (_rt _base : RegIdx) (_offset : Half) (s : State) : Result :=
  absentCop2 s

/-- SWC2: R660. -/
def execSwc2 (_rt _base : RegIdx) (_offset : Half) (s : State) : Result :=
  absentCop2 s

/-- SDC2: R660. -/
def execSdc2 (_rt _base : RegIdx) (_offset : Half) (s : State) : Result :=
  absentCop2 s

/-! ### Encodings that are no instruction of the table -/

/-- What executing a rejected word does (R650, R703; D21, D74). -/
def execReserved (r : Reject) (s : State) : Result :=
  match r with
  | .reservedMajor | .reservedSpecial | .reservedRegimm => raiseAlways .ri s
  | .reservedCop0 => withCop 0#2 (raiseAlways .ri) s
  | .reservedCop1 => withCop 1#2 (raiseAlways .ri) s
  | .unimplementedCop1 => withCop 1#2 (fun s => .next (fpUnimplementedTrap s)) s

end Sys2Proof.Machine
end

