-- ==== Sys2Proof/Machine/Fpu.lean ====
section
/-! DEFINITION. The instructions of coprocessor 1 (`45_fpu.md` R700 to R791). Each first checks that the coprocessor is usable (R701). -/

namespace Sys2Proof.Machine

/-! ### Shared operations -/

/-- An operation of two operands (R703, R730 to R733). -/
def fpBinary (op : FpOp) (f : FpFmt) (fd fs ft : RegIdx) (s : State) : Result :=
  fpArith (fpOutcome s.cfg op f s.fcsr (s.fpRead f fs) (s.fpRead f ft)) f fd s

/-- An operation of one operand (R703, R734 to R751). -/
def fpUnary (op : FpOp) (f : FpFmt) (fd fs : RegIdx) (s : State) : Result :=
  fpArith (fpOutcome s.cfg op f s.fcsr (s.fpRead f fs) 0#64) (op.result f) fd s

/-- A conversion to an integer format in a rounding mode of its own (R740 to R747). -/
def fpConvertFixed (rm : RoundMode) (src dst : FpFmt) (fd fs : RegIdx) (s : State) : Result := fpUnary (.cvt dst rm) src fd fs s

/-- A conversion in the mode of FCSR.RM (R748 to R751). -/
def fpConvertRm (src dst : FpFmt) (fd fs : RegIdx) (s : State) : Result :=
  fpUnary (.cvt dst (RoundMode.ofBits (fcsrRm s.fcsr))) src fd fs s

/-- FCR0 or FCSR, or 0 for another control register (R716, D73). -/
def readFcr (n : RegIdx) (s : State) : Word := if n = 0 then s.cfg.fcr0 else if n = 31 then s.fcsr else 0#32

/-- CTC1's effect: FCSR takes the value, and FPE follows if it finds an enabled cause (R719, D88). -/
def writeFcr (n : RegIdx) (v : Word) (s : State) : Result :=
  if n = 31 then
    let t := s.setFcsr (v &&& 0x0183FFFF#32)
    if fcsrTraps t.fcsr then .next (takeException .fpe t) else t.done
  else s.done

/-! ### Loads, stores and moves -/

/-- LWC1: R710. -/
def execLwc1 (ft base : RegIdx) (offset : Half) (s : State) : Result :=
  withCop 1#2 (fun s => (memRead (effectiveAddress base offset s) 4 s).finish fun v s => (s.setFgr32 ft (low32 v)).done) s

/-- LDC1: R711. -/
def execLdc1 (ft base : RegIdx) (offset : Half) (s : State) : Result :=
  withCop 1#2 (fun s => (memRead (effectiveAddress base offset s) 8 s).finish fun v s => (s.setFgr64 ft v).done) s

/-- SWC1: R712. -/
def execSwc1 (ft base : RegIdx) (offset : Half) (s : State) : Result :=
  withCop 1#2 (fun s => (memWrite (effectiveAddress base offset s) 4 (zext32 (s.fgr32 ft)) s).finish fun _ s => s.done) s

/-- SDC1: R713. -/
def execSdc1 (ft base : RegIdx) (offset : Half) (s : State) : Result :=
  withCop 1#2 (fun s => (memWrite (effectiveAddress base offset s) 8 (s.fgr64 ft) s).finish fun _ s => s.done) s

/-- MFC1: R714. -/
def execMfc1 (rt fs : RegIdx) (s : State) : Result :=
  withCop 1#2 (fun s => finishWord rt (s.fgr32 fs) s) s

/-- DMFC1: R715. -/
def execDmfc1 (rt fs : RegIdx) (s : State) : Result :=
  withCop 1#2 (with64 fun s => finishDouble rt (s.fgr64 fs) s) s

/-- CFC1: R716. -/
def execCfc1 (rt fs : RegIdx) (s : State) : Result :=
  withCop 1#2 (fun s => finishWord rt (readFcr fs s) s) s

/-- MTC1: R717. -/
def execMtc1 (rt fs : RegIdx) (s : State) : Result :=
  withCop 1#2 (fun s => (s.setFgr32 fs (low32 (s.x rt))).done) s

/-- DMTC1: R718. -/
def execDmtc1 (rt fs : RegIdx) (s : State) : Result :=
  withCop 1#2 (with64 fun s => (s.setFgr64 fs (s.x rt)).done) s

/-- CTC1: R719. -/
def execCtc1 (rt fs : RegIdx) (s : State) : Result :=
  withCop 1#2 (fun s => writeFcr fs (low32 (s.x rt)) s) s

/-! ### Branches on the condition bit -/

/-- BC1F: R720. -/
def execBc1f (offset : Half) (s : State) : Result :=
  withCop 1#2 (fun s => s.branch (!fcsrC s.fcsr) (branchTargetOf offset s)) s

/-- BC1T: R721. -/
def execBc1t (offset : Half) (s : State) : Result :=
  withCop 1#2 (fun s => s.branch (fcsrC s.fcsr) (branchTargetOf offset s)) s

/-- BC1FL: R722. -/
def execBc1fl (offset : Half) (s : State) : Result :=
  withCop 1#2 (fun s => s.branchLikely (!fcsrC s.fcsr) (branchTargetOf offset s)) s

/-- BC1TL: R723. -/
def execBc1tl (offset : Half) (s : State) : Result :=
  withCop 1#2 (fun s => s.branchLikely (fcsrC s.fcsr) (branchTargetOf offset s)) s

/-! ### Arithmetic -/

/-- ADD.S: R730. -/
def execAddS (fd fs ft : RegIdx) (s : State) : Result :=
  withCop 1#2 (fun s => fpBinary .add .s fd fs ft s) s

/-- ADD.D: R730. -/
def execAddD (fd fs ft : RegIdx) (s : State) : Result :=
  withCop 1#2 (fun s => fpBinary .add .d fd fs ft s) s

/-- SUB.S: R731. -/
def execSubS (fd fs ft : RegIdx) (s : State) : Result :=
  withCop 1#2 (fun s => fpBinary .sub .s fd fs ft s) s

/-- SUB.D: R731. -/
def execSubD (fd fs ft : RegIdx) (s : State) : Result :=
  withCop 1#2 (fun s => fpBinary .sub .d fd fs ft s) s

/-- MUL.S: R732. -/
def execMulS (fd fs ft : RegIdx) (s : State) : Result :=
  withCop 1#2 (fun s => fpBinary .mul .s fd fs ft s) s

/-- MUL.D: R732. -/
def execMulD (fd fs ft : RegIdx) (s : State) : Result :=
  withCop 1#2 (fun s => fpBinary .mul .d fd fs ft s) s

/-- DIV.S: R733. -/
def execDivS (fd fs ft : RegIdx) (s : State) : Result :=
  withCop 1#2 (fun s => fpBinary .div .s fd fs ft s) s

/-- DIV.D: R733. -/
def execDivD (fd fs ft : RegIdx) (s : State) : Result :=
  withCop 1#2 (fun s => fpBinary .div .d fd fs ft s) s

/-- SQRT.S: R734. -/
def execSqrtS (fd fs : RegIdx) (s : State) : Result :=
  withCop 1#2 (fun s => fpUnary .sqrt .s fd fs s) s

/-- SQRT.D: R734. -/
def execSqrtD (fd fs : RegIdx) (s : State) : Result :=
  withCop 1#2 (fun s => fpUnary .sqrt .d fd fs s) s

/-- ABS.S: R735. -/
def execAbsS (fd fs : RegIdx) (s : State) : Result :=
  withCop 1#2 (fun s => fpUnary .abs .s fd fs s) s

/-- ABS.D: R735. -/
def execAbsD (fd fs : RegIdx) (s : State) : Result :=
  withCop 1#2 (fun s => fpUnary .abs .d fd fs s) s

/-- MOV.S: R736: a copy of the bits, FCSR unchanged. -/
def execMovS (fd fs : RegIdx) (s : State) : Result :=
  withCop 1#2 (fun s => (s.fpWrite .s fd (s.fpRead .s fs)).done) s

/-- MOV.D: R736: a copy of the bits, FCSR unchanged. -/
def execMovD (fd fs : RegIdx) (s : State) : Result :=
  withCop 1#2 (fun s => (s.fpWrite .d fd (s.fpRead .d fs)).done) s

/-- NEG.S: R737. -/
def execNegS (fd fs : RegIdx) (s : State) : Result :=
  withCop 1#2 (fun s => fpUnary .neg .s fd fs s) s

/-- NEG.D: R737. -/
def execNegD (fd fs : RegIdx) (s : State) : Result :=
  withCop 1#2 (fun s => fpUnary .neg .d fd fs s) s

/-! ### Conversions -/

/-- ROUND.L.S: R740. -/
def execRoundLS (fd fs : RegIdx) (s : State) : Result :=
  withCop 1#2 (fun s => fpConvertFixed .nearest .s .l fd fs s) s

/-- ROUND.L.D: R740. -/
def execRoundLD (fd fs : RegIdx) (s : State) : Result :=
  withCop 1#2 (fun s => fpConvertFixed .nearest .d .l fd fs s) s

/-- TRUNC.L.S: R741. -/
def execTruncLS (fd fs : RegIdx) (s : State) : Result :=
  withCop 1#2 (fun s => fpConvertFixed .zero .s .l fd fs s) s

/-- TRUNC.L.D: R741. -/
def execTruncLD (fd fs : RegIdx) (s : State) : Result :=
  withCop 1#2 (fun s => fpConvertFixed .zero .d .l fd fs s) s

/-- CEIL.L.S: R742. -/
def execCeilLS (fd fs : RegIdx) (s : State) : Result :=
  withCop 1#2 (fun s => fpConvertFixed .up .s .l fd fs s) s

/-- CEIL.L.D: R742. -/
def execCeilLD (fd fs : RegIdx) (s : State) : Result :=
  withCop 1#2 (fun s => fpConvertFixed .up .d .l fd fs s) s

/-- FLOOR.L.S: R743. -/
def execFloorLS (fd fs : RegIdx) (s : State) : Result :=
  withCop 1#2 (fun s => fpConvertFixed .down .s .l fd fs s) s

/-- FLOOR.L.D: R743. -/
def execFloorLD (fd fs : RegIdx) (s : State) : Result :=
  withCop 1#2 (fun s => fpConvertFixed .down .d .l fd fs s) s

/-- ROUND.W.S: R744. -/
def execRoundWS (fd fs : RegIdx) (s : State) : Result :=
  withCop 1#2 (fun s => fpConvertFixed .nearest .s .w fd fs s) s

/-- ROUND.W.D: R744. -/
def execRoundWD (fd fs : RegIdx) (s : State) : Result :=
  withCop 1#2 (fun s => fpConvertFixed .nearest .d .w fd fs s) s

/-- TRUNC.W.S: R745. -/
def execTruncWS (fd fs : RegIdx) (s : State) : Result :=
  withCop 1#2 (fun s => fpConvertFixed .zero .s .w fd fs s) s

/-- TRUNC.W.D: R745. -/
def execTruncWD (fd fs : RegIdx) (s : State) : Result :=
  withCop 1#2 (fun s => fpConvertFixed .zero .d .w fd fs s) s

/-- CEIL.W.S: R746. -/
def execCeilWS (fd fs : RegIdx) (s : State) : Result :=
  withCop 1#2 (fun s => fpConvertFixed .up .s .w fd fs s) s

/-- CEIL.W.D: R746. -/
def execCeilWD (fd fs : RegIdx) (s : State) : Result :=
  withCop 1#2 (fun s => fpConvertFixed .up .d .w fd fs s) s

/-- FLOOR.W.S: R747. -/
def execFloorWS (fd fs : RegIdx) (s : State) : Result :=
  withCop 1#2 (fun s => fpConvertFixed .down .s .w fd fs s) s

/-- FLOOR.W.D: R747. -/
def execFloorWD (fd fs : RegIdx) (s : State) : Result :=
  withCop 1#2 (fun s => fpConvertFixed .down .d .w fd fs s) s

/-- CVT.S.D: R748. -/
def execCvtSD (fd fs : RegIdx) (s : State) : Result :=
  withCop 1#2 (fun s => fpConvertRm .d .s fd fs s) s

/-- CVT.D.S: R749. -/
def execCvtDS (fd fs : RegIdx) (s : State) : Result :=
  withCop 1#2 (fun s => fpConvertRm .s .d fd fs s) s

/-- CVT.S.W: R748. -/
def execCvtSW (fd fs : RegIdx) (s : State) : Result :=
  withCop 1#2 (fun s => fpConvertRm .w .s fd fs s) s

/-- CVT.S.L: R748. -/
def execCvtSL (fd fs : RegIdx) (s : State) : Result :=
  withCop 1#2 (fun s => fpConvertRm .l .s fd fs s) s

/-- CVT.D.W: R749. -/
def execCvtDW (fd fs : RegIdx) (s : State) : Result :=
  withCop 1#2 (fun s => fpConvertRm .w .d fd fs s) s

/-- CVT.D.L: R749. -/
def execCvtDL (fd fs : RegIdx) (s : State) : Result :=
  withCop 1#2 (fun s => fpConvertRm .l .d fd fs s) s

/-- CVT.W.S: R750. -/
def execCvtWS (fd fs : RegIdx) (s : State) : Result :=
  withCop 1#2 (fun s => fpConvertRm .s .w fd fs s) s

/-- CVT.W.D: R750. -/
def execCvtWD (fd fs : RegIdx) (s : State) : Result :=
  withCop 1#2 (fun s => fpConvertRm .d .w fd fs s) s

/-- CVT.L.S: R751. -/
def execCvtLS (fd fs : RegIdx) (s : State) : Result :=
  withCop 1#2 (fun s => fpConvertRm .s .l fd fs s) s

/-- CVT.L.D: R751. -/
def execCvtLD (fd fs : RegIdx) (s : State) : Result :=
  withCop 1#2 (fun s => fpConvertRm .d .l fd fs s) s

/-! ### Compares -/

/-- C.F.S: R761. -/
def execCFS (fs ft : RegIdx) (s : State) : Result :=
  withCop 1#2 (fun s => fpCompare .s 0#4 fs ft s) s

/-- C.F.D: R761. -/
def execCFD (fs ft : RegIdx) (s : State) : Result :=
  withCop 1#2 (fun s => fpCompare .d 0#4 fs ft s) s

/-- C.UN.S: R762. -/
def execCUnS (fs ft : RegIdx) (s : State) : Result :=
  withCop 1#2 (fun s => fpCompare .s 1#4 fs ft s) s

/-- C.UN.D: R762. -/
def execCUnD (fs ft : RegIdx) (s : State) : Result :=
  withCop 1#2 (fun s => fpCompare .d 1#4 fs ft s) s

/-- C.EQ.S: R763. -/
def execCEqS (fs ft : RegIdx) (s : State) : Result :=
  withCop 1#2 (fun s => fpCompare .s 2#4 fs ft s) s

/-- C.EQ.D: R763. -/
def execCEqD (fs ft : RegIdx) (s : State) : Result :=
  withCop 1#2 (fun s => fpCompare .d 2#4 fs ft s) s

/-- C.UEQ.S: R764. -/
def execCUeqS (fs ft : RegIdx) (s : State) : Result :=
  withCop 1#2 (fun s => fpCompare .s 3#4 fs ft s) s

/-- C.UEQ.D: R764. -/
def execCUeqD (fs ft : RegIdx) (s : State) : Result :=
  withCop 1#2 (fun s => fpCompare .d 3#4 fs ft s) s

/-- C.OLT.S: R765. -/
def execCOltS (fs ft : RegIdx) (s : State) : Result :=
  withCop 1#2 (fun s => fpCompare .s 4#4 fs ft s) s

/-- C.OLT.D: R765. -/
def execCOltD (fs ft : RegIdx) (s : State) : Result :=
  withCop 1#2 (fun s => fpCompare .d 4#4 fs ft s) s

/-- C.ULT.S: R766. -/
def execCUltS (fs ft : RegIdx) (s : State) : Result :=
  withCop 1#2 (fun s => fpCompare .s 5#4 fs ft s) s

/-- C.ULT.D: R766. -/
def execCUltD (fs ft : RegIdx) (s : State) : Result :=
  withCop 1#2 (fun s => fpCompare .d 5#4 fs ft s) s

/-- C.OLE.S: R767. -/
def execCOleS (fs ft : RegIdx) (s : State) : Result :=
  withCop 1#2 (fun s => fpCompare .s 6#4 fs ft s) s

/-- C.OLE.D: R767. -/
def execCOleD (fs ft : RegIdx) (s : State) : Result :=
  withCop 1#2 (fun s => fpCompare .d 6#4 fs ft s) s

/-- C.ULE.S: R768. -/
def execCUleS (fs ft : RegIdx) (s : State) : Result :=
  withCop 1#2 (fun s => fpCompare .s 7#4 fs ft s) s

/-- C.ULE.D: R768. -/
def execCUleD (fs ft : RegIdx) (s : State) : Result :=
  withCop 1#2 (fun s => fpCompare .d 7#4 fs ft s) s

/-- C.SF.S: R769. -/
def execCSfS (fs ft : RegIdx) (s : State) : Result :=
  withCop 1#2 (fun s => fpCompare .s 8#4 fs ft s) s

/-- C.SF.D: R769. -/
def execCSfD (fs ft : RegIdx) (s : State) : Result :=
  withCop 1#2 (fun s => fpCompare .d 8#4 fs ft s) s

/-- C.NGLE.S: R770. -/
def execCNgleS (fs ft : RegIdx) (s : State) : Result :=
  withCop 1#2 (fun s => fpCompare .s 9#4 fs ft s) s

/-- C.NGLE.D: R770. -/
def execCNgleD (fs ft : RegIdx) (s : State) : Result :=
  withCop 1#2 (fun s => fpCompare .d 9#4 fs ft s) s

/-- C.SEQ.S: R771. -/
def execCSeqS (fs ft : RegIdx) (s : State) : Result :=
  withCop 1#2 (fun s => fpCompare .s 10#4 fs ft s) s

/-- C.SEQ.D: R771. -/
def execCSeqD (fs ft : RegIdx) (s : State) : Result :=
  withCop 1#2 (fun s => fpCompare .d 10#4 fs ft s) s

/-- C.NGL.S: R772. -/
def execCNglS (fs ft : RegIdx) (s : State) : Result :=
  withCop 1#2 (fun s => fpCompare .s 11#4 fs ft s) s

/-- C.NGL.D: R772. -/
def execCNglD (fs ft : RegIdx) (s : State) : Result :=
  withCop 1#2 (fun s => fpCompare .d 11#4 fs ft s) s

/-- C.LT.S: R773. -/
def execCLtS (fs ft : RegIdx) (s : State) : Result :=
  withCop 1#2 (fun s => fpCompare .s 12#4 fs ft s) s

/-- C.LT.D: R773. -/
def execCLtD (fs ft : RegIdx) (s : State) : Result :=
  withCop 1#2 (fun s => fpCompare .d 12#4 fs ft s) s

/-- C.NGE.S: R774. -/
def execCNgeS (fs ft : RegIdx) (s : State) : Result :=
  withCop 1#2 (fun s => fpCompare .s 13#4 fs ft s) s

/-- C.NGE.D: R774. -/
def execCNgeD (fs ft : RegIdx) (s : State) : Result :=
  withCop 1#2 (fun s => fpCompare .d 13#4 fs ft s) s

/-- C.LE.S: R775. -/
def execCLeS (fs ft : RegIdx) (s : State) : Result :=
  withCop 1#2 (fun s => fpCompare .s 14#4 fs ft s) s

/-- C.LE.D: R775. -/
def execCLeD (fs ft : RegIdx) (s : State) : Result :=
  withCop 1#2 (fun s => fpCompare .d 14#4 fs ft s) s

/-- C.NGT.S: R776. -/
def execCNgtS (fs ft : RegIdx) (s : State) : Result :=
  withCop 1#2 (fun s => fpCompare .s 15#4 fs ft s) s

/-- C.NGT.D: R776. -/
def execCNgtD (fs ft : RegIdx) (s : State) : Result :=
  withCop 1#2 (fun s => fpCompare .d 15#4 fs ft s) s

end Sys2Proof.Machine
end

