-- ==== Sys2Proof/Machine/MulDiv.lean ====
section
/-! DEFINITION. Multiply, divide and the HI/LO moves (`41_muldiv.md` R450 to R463). -/

namespace Sys2Proof.Machine

/-- HI and LO take their values and the instruction ends (R450). -/
def finishHiLo (h l : DWord) (s : State) : Result := (s.setHiLo h l).done

/-- A 64-bit product as two sign-extended words, HI first (R450(b)). -/
def productWords (p : DWord) : DWord × DWord := (sext32 (bitField p 32 32), sext32 (bitField p 0 32))

/-- HI and LO of DIV (R453, D85): `Int.tdiv` truncates toward zero. -/
def divideWord (a b : Word) : DWord × DWord :=
  if b.toInt = 0 then (sext32 a, if a.toInt < 0 then 1#64 else 0xFFFFFFFFFFFFFFFF#64)
  else (sext32 (BitVec.ofInt 32 (a.toInt.tmod b.toInt)), sext32 (BitVec.ofInt 32 (a.toInt.tdiv b.toInt)))

/-- HI and LO of DIVU (R454, D85). -/
def divideWordUnsigned (a b : Word) : DWord × DWord :=
  if b.toNat = 0 then (sext32 a, 0xFFFFFFFFFFFFFFFF#64)
  else (sext32 (BitVec.ofNat 32 (a.toNat % b.toNat)), sext32 (BitVec.ofNat 32 (a.toNat / b.toNat)))

/-- HI and LO of DDIV (R457, D85): the quotient of the most negative value by -1 wraps to it. -/
def divideDouble (a b : DWord) : DWord × DWord :=
  if b.toInt = 0 then (a, if a.toInt < 0 then 1#64 else 0xFFFFFFFFFFFFFFFF#64)
  else (BitVec.ofInt 64 (a.toInt.tmod b.toInt), BitVec.ofInt 64 (a.toInt.tdiv b.toInt))

/-- HI and LO of DDIVU (R458, D85). -/
def divideDoubleUnsigned (a b : DWord) : DWord × DWord :=
  if b.toNat = 0 then (a, 0xFFFFFFFFFFFFFFFF#64)
  else (BitVec.ofNat 64 (a.toNat % b.toNat), BitVec.ofNat 64 (a.toNat / b.toNat))

/-- HI and LO of a 128-bit product (R455, R456). -/
def productDoubles (p : BitVec 128) : DWord × DWord := (bitField p 64 64, bitField p 0 64)

/-- End with a pair of results, HI first. -/
def finishPair (r : DWord × DWord) (s : State) : Result := finishHiLo r.1 r.2 s

/-- MULT: R451. -/
def execMult (rs rt : RegIdx) (s : State) : Result :=
  finishPair (productWords (BitVec.ofInt 64 ((low32 (s.x rs)).toInt * (low32 (s.x rt)).toInt))) s

/-- MULTU: R452. -/
def execMultu (rs rt : RegIdx) (s : State) : Result :=
  finishPair (productWords (BitVec.ofNat 64 ((low32 (s.x rs)).toNat * (low32 (s.x rt)).toNat))) s

/-- DIV: R453. -/
def execDiv (rs rt : RegIdx) (s : State) : Result :=
  finishPair (divideWord (low32 (s.x rs)) (low32 (s.x rt))) s

/-- DIVU: R454. -/
def execDivu (rs rt : RegIdx) (s : State) : Result :=
  finishPair (divideWordUnsigned (low32 (s.x rs)) (low32 (s.x rt))) s

/-- DMULT: R455. -/
def execDmult (rs rt : RegIdx) (s : State) : Result :=
  with64 (fun s => finishPair (productDoubles (BitVec.ofInt 128 ((s.x rs).toInt * (s.x rt).toInt))) s) s

/-- DMULTU: R456. -/
def execDmultu (rs rt : RegIdx) (s : State) : Result :=
  with64 (fun s => finishPair (productDoubles (BitVec.ofNat 128 ((s.x rs).toNat * (s.x rt).toNat))) s) s

/-- DDIV: R457. -/
def execDdiv (rs rt : RegIdx) (s : State) : Result :=
  with64 (fun s => finishPair (divideDouble (s.x rs) (s.x rt)) s) s

/-- DDIVU: R458. -/
def execDdivu (rs rt : RegIdx) (s : State) : Result :=
  with64 (fun s => finishPair (divideDoubleUnsigned (s.x rs) (s.x rt)) s) s

/-- MFHI: R459. -/
def execMfhi (rd : RegIdx) (s : State) : Result :=
  finishDouble rd s.hi s

/-- MTHI: R460. -/
def execMthi (rs : RegIdx) (s : State) : Result :=
  finishHiLo (s.x rs) s.lo s

/-- MFLO: R461. -/
def execMflo (rd : RegIdx) (s : State) : Result :=
  finishDouble rd s.lo s

/-- MTLO: R462. -/
def execMtlo (rs : RegIdx) (s : State) : Result :=
  finishHiLo s.hi (s.x rs) s

end Sys2Proof.Machine
end

