-- ==== Sys2Proof/Machine/Cpu.lean ====
section
/-! DEFINITION. The CPU's step: pending branch, interrupt boundary, fetch, decode and execute, and the end of the step
(`42_control.md` R500 to R504, R508). -/

namespace Sys2Proof.Machine

/-- The default of `EXTRA_CYCLES`, row by row (R1040). -/
def defaultExtraCycles (i : Instr) : Nat :=
  match i with
  | .addS _ _ _ | .addD _ _ _ | .subS _ _ _ | .subD _ _ _ | .roundLS _ _ | .roundLD _ _ | .truncLS _ _ | .truncLD _ _
    | .ceilLS _ _ | .ceilLD _ _ | .floorLS _ _ | .floorLD _ _ | .roundWS _ _ | .roundWD _ _ | .truncWS _ _ | .truncWD _ _
    | .ceilWS _ _ | .ceilWD _ _ | .floorWS _ _ | .floorWD _ _ | .cvtSD _ _ | .cvtSW _ _ | .cvtSL _ _ | .cvtDS _ _ | .cvtDW _ _
    | .cvtDL _ _ | .cvtWS _ _ | .cvtWD _ _ | .cvtLS _ _ | .cvtLD _ _ | .cFS _ _ | .cFD _ _ | .cUnS _ _ | .cUnD _ _ | .cEqS _ _
    | .cEqD _ _ | .cUeqS _ _ | .cUeqD _ _ | .cOltS _ _ | .cOltD _ _ | .cUltS _ _ | .cUltD _ _ | .cOleS _ _ | .cOleD _ _
    | .cUleS _ _ | .cUleD _ _ | .cSfS _ _ | .cSfD _ _ | .cNgleS _ _ | .cNgleD _ _ | .cSeqS _ _ | .cSeqD _ _ | .cNglS _ _
    | .cNglD _ _ | .cLtS _ _ | .cLtD _ _ | .cNgeS _ _ | .cNgeD _ _ | .cLeS _ _ | .cLeD _ _ | .cNgtS _ _ | .cNgtD _ _ => 2
  | .mult _ _ | .multu _ _ | .mulS _ _ _ => 4
  | .dmult _ _ | .dmultu _ _ | .mulD _ _ _ => 7
  | .divS _ _ _ | .sqrtS _ _ => 28
  | .div _ _ | .divu _ _ => 36
  | .divD _ _ _ | .sqrtD _ _ => 57
  | .ddiv _ _ | .ddivu _ _ => 68
  | _ => 0

/-- `EXTRA_CYCLES(w)`: the parameter's value, and the default's at the words it does not name (R12, log entry 27). -/
def extraCycles (cfg : Config) (w : Word) : Nat :=
  match cfg.extra.find? (fun x => decide (x.word = w)), decode w with
  | some x, _ => x.cycles
  | none, .ok i => defaultExtraCycles i
  | none, .error _ => 0

/-- A completed instruction is charged its extra cycles; one that raised is not (R500, R823). -/
def State.chargeExtra (w : Word) (s : State) : State := if s.excLatch then s else s.addCycles (extraCycles s.cfg w)

/-- Apply a function to a next state. -/
def onNext (f : State → State) (r : Result) : Result :=
  match r with
  | .next s => .next (f s)
  | .fault e => .fault e
  | .refused q => .refused q

/-- Execute an instruction word (R504): the instruction it decodes to, or what the spec says of the encoding; then its extra cycles. -/
def executeWord (w : Word) (s : State) : Result :=
  onNext (State.chargeExtra w)
    (match decode w with
     | .ok i => exec i s
     | .error r => execReserved r s)

/-- Fetch and execute (R503, R504): an exception of the fetch ends the step with no decode. -/
def fetchAndExecute (s : State) : Result := (fetchWord s.pc s).finish fun w s => executeWord w s

/-- The state in which a step's interrupt check and fetch happen (R500, R501). -/
def State.atBoundary (s : State) : State := s.resolveBranch.beginStep

/-- The body of a step, from the interrupt boundary on (R502). -/
def stepBody (s : State) : Result :=
  if s.interruptPending then .next (takeException .int s) else fetchAndExecute s

/-- `Step()` (R500); no step is defined in the reserved mode (D4). -/
def cpuStep (s : State) : Result :=
  if s.mode = .reserved then .refused .reservedMode else onNext State.endStep (stepBody s.atBoundary)

end Sys2Proof.Machine
end

