-- ==== Sys2Proof/Machine/RunLoop.lean ====
section
/-! DEFINITION. `run()` and the run loop (`60_exceptions.md` R907; D57, D92). One step of the machine is one CPU step; an iteration of the
run loop ends within the step that reaches the CPU's budget, or in a step of its own when the budget is reached at its start (log entry
13). -/

namespace Sys2Proof.Machine

/-- `cpu_budget` of the current iteration, saturating at 0 (R907, D92). -/
def State.cpuBudget (s : State) : Nat := s.cfg.cpuQuota - s.cpuCarry

/-- `RSP.run(RSP_QUOTA(consumed) - rsp_carry)`, when an RSP is attached (R907, D68). -/
def runRsp (consumed : Nat) (s : State) : State :=
  if s.cfg.rspAttached then
    let r := s.collabCall 0 (.rspRun (Config.rspQuota consumed - s.rspCarry))
    { r.2 with rspCarry := r.1.overrun }
  else s

/-- Whether `run(cpu_budget)` returns (R907). -/
def State.budgetReached (s : State) : Bool := decide (s.cpuBudget ≤ s.runCycles.toNat)

/-- The part of an iteration after `run(cpu_budget)` (R907): what is past the budget is carried over. -/
def endIteration (s : State) : State :=
  { (runRsp s.runCycles.toNat s).advanceEvents s.runCycles.toNat with
    cpuCarry := s.runCycles.toNat - s.cpuBudget
    runCycles := 0 }

/-- After a CPU step: the iteration ends when the budget is reached. -/
def afterStep (s : State) : State := if s.budgetReached then endIteration s else s

/-- One CPU step and what the run loop does after it. -/
def runLoopStep (s : State) : Result :=
  match cpuStep s with
  | .next t => .next (afterStep t)
  | .fault f => .fault f
  | .refused q => .refused q

/-- `while run_cycles < budget: Step()`, at most `fuel` steps. -/
def runWhile (budget : Nat) : Nat → State → Result
  | 0, s => .next s
  | fuel + 1, s =>
    if s.runCycles.toNat < budget then
      match cpuStep s with
      | .next t => runWhile budget fuel t
      | .fault f => .fault f
      | .refused q => .refused q
    else .next s

/-- `run(cycle_budget)` (R907): a step charges at least one cycle, so `budget` steps are enough. The overrun it returns is
`run_cycles - budget` of the state it ends in. -/
def run (budget : Nat) (s : State) : Result := runWhile budget budget { s with runCycles := 0 }

end Sys2Proof.Machine
end

