-- ==== Sys2Proof/Machine/Placement.lean ====
section
/-! DEFINITION. Where the next instruction is fetched from, and storing a word there. No rule of the spec: it stands for the load of a
program from outside the machine (log entry 2). -/

namespace Sys2Proof.Machine

/-- Store a word where the next fetch reads it: over the bytes of the instruction line that hits, or in memory. -/
def placeAt (pa : Word) (cacheable : Bool) (w : Word) (s : State) : State :=
  if cacheable && (s.iLine pa).hits pa then
    s.setILine pa { s.iLine pa with
      data := lineStore (s.iLine pa).data (pa.toNat % 32) ((bytesOf (zext32 w) 4).map some) }
  else { s with mem := s.mem.writeBytes pa.toNat (bytesOf (zext32 w) 4) }

/-- The run loop going, inside an iteration whose budget is not reached, with no advance under way and no call of the host before the
next instruction. -/
def State.ready (s : State) : State :=
  let t := { s with inputs := [], stop := false, advancing := false, firmwareLoaded := true, initialised := true }
  if t.budgetReached then { t with cpuCarry := 0, runCycles := 0 } else t

/-- Store a word where the next step fetches, and make that step execute it. -/
def placeWord (w : Word) (s : State) : State :=
  let t := s.ready
  match locateFetch s.nextPc s with
  | .ok p _ => placeAt p.1 p.2 w t
  | _ => t

end Sys2Proof.Machine
end

