-- ==== Sys2Proof/Machine/Step.lean ====
section
/-! DEFINITION. The machine's step: the rest of an advance, a waiting call of the host, the end of an iteration, or a CPU step. -/

namespace Sys2Proof.Machine

/-- A step of the run loop (R907): `run` is refused on a core that was not powered on (R1010, D77), the loop returns when it finds the stop
flag at the start of an iteration, and no instruction executes once the budget is reached. -/
def loopStep (s : State) : Result :=
  if !s.initialised then .refused .uninitialised
  else if s.stop && decide (s.runCycles = 0) then .fault .stopped
  else if s.budgetReached then .next (endIteration s)
  else runLoopStep s

/-- One step (R901, R907, R908). -/
def step (s : State) : Host.Outcome State Fault Refusal :=
  if s.advancing then .next s.continueAdvance
  else
    match s.inputs with
    | c :: rest => hostCall c { s with inputs := rest }
    | [] => loopStep s

/-- The state with an instruction's word stored where the next step fetches. -/
def State.withFetchWord (s : State) (nbits w : Nat) : State := placeWord (BitVec.ofNat 32 (w % 2 ^ nbits)) s

end Sys2Proof.Machine
end

