-- ==== Sys2Proof/Safety.lean ====
section
/-! DEFINITION. The terms the statements use: the invariants of the state, what an instruction leaves unchanged, when a data access is
ready, and what a safe run is. -/

namespace Sys2Proof.Machine

/-! ### Invariants -/

/-- The bits of coprocessor 0 that the spec fixes read as it says (`10_state.md` R113 to R133). -/
structure Cop0.Wf (c : Cop0) : Prop where
  index : c.index &&& 0x7FFFFFC0#32 = 0#32
  random : c.random &&& 0xFFFFFFE0#32 = 0#32
  entryLo0 : c.entryLo0 &&& 0xFFFFFFFFC0000000#64 = 0#64
  entryLo1 : c.entryLo1 &&& 0xFFFFFFFFC0000000#64 = 0#64
  context : c.context &&& 0x000000000000000F#64 = 0#64
  pageMask : c.pageMask &&& 0xFE001FFF#32 = 0#32
  wired : c.wired &&& 0xFFFFFFC0#32 = 0#32
  entryHi : c.entryHi &&& 0x3FFFFF0000001F00#64 = 0#64
  status : c.status &&& 0x00A80000#32 = 0#32
  cause : c.cause &&& 0x4FFF7C83#32 = 0#32
  config : c.config &&& 0xF0FFFFF0#32 = 0x7006E460#32
  watchLo : c.watchLo &&& 0x00000004#32 = 0#32
  watchHi : c.watchHi &&& 0xFFFFFFF0#32 = 0#32
  xContext : c.xContext &&& 0x000000000000000F#64 = 0#64
  parityError : c.parityError &&& 0xFFFFFF00#32 = 0#32
  tagLo : c.tagLo &&& 0xF000003F#32 = 0#32

/-- A TLB entry as a TLB write leaves it: mask bits in equal pairs, and no VPN2 bit under the mask (R140, R634). -/
structure TlbEntry.Wf (e : TlbEntry) : Prop where
  mask : normaliseMask e.mask = e.mask
  vpn2 : e.vpn2 &&& e.mask.setWidth 27 = 0#27

/-- The invariant of the architectural state: memory in its canonical form, x[0] holding 0, the fixed bits of coprocessor 0 and of FCSR
as the spec says they read, and every TLB entry normalised. -/
structure State.Inv (s : State) : Prop where
  mem : s.mem.wf = true
  gpr0 : s.gpr[0] = 0#64
  cop0 : s.cop0.Wf
  fcsr : s.fcsr &&& 0xFE7C0000#32 = 0#32
  tlb : ∀ e ∈ s.tlb.toList, e.Wf

/-- One event fires before another: an earlier time, or the same time and an earlier insertion (R900). -/
def Event.before (e f : Event) : Prop := e.remaining < f.remaining ∨ (e.remaining = f.remaining ∧ e.seq < f.seq)

/-- The event list's invariants (R900): sorted, one event of a kind at most, numbered by insertion. -/
structure Scheduler.Wf (q : Scheduler) : Prop where
  sorted : q.events.Pairwise Event.before
  kinds : (q.events.map Event.kind).Nodup
  seq : ∀ e ∈ q.events, e.seq < q.nextSeq

/-- The times of the events (R900): within an advance none is more than 2^62 cycles late; between advances none is late, and an event of
this core's own kinds is in the future. A collaborator's event may be due now: it was added with 0 cycles to fire in the next
advance (R901, D91). -/
structure State.Timely (s : State) : Prop where
  late : ∀ e ∈ s.sched.events, -(2 ^ 62) ≤ e.remaining
  future : s.advancing = false → ∀ e ∈ s.sched.events, 0 ≤ e.remaining ∧ ((∀ n, e.kind ≠ .collab n) → 0 < e.remaining)

/-- A positive number of cycles that a signed 64-bit time holds together with the cycles elapsed (log entry 15). -/
def FitsTime (n : Nat) : Prop := 0 < n ∧ n ≤ 2 ^ 62

/-- The invariant of the scheduler and of what feeds it: the halfline period and the audio durations (R12, R913). -/
structure State.SchedInv (s : State) : Prop where
  sched : s.sched.Wf
  timely : s.Timely
  halfline : FitsTime s.cfg.cyclesPerHalfline
  audioCur : ∀ q, s.ai.cur = some q → FitsTime q.duration
  audioNext : ∀ q, s.ai.next = some q → FitsTime q.duration

/-- The cycles of a `run()` stay below 2^62 in the next step (log entry 15): no time wraps around. -/
def State.NoTimeWrap (s : State) : Prop :=
  s.runCycles.toNat < 2 ^ 62 ∧ ∀ t, cpuStep s = .next t → t.runCycles.toNat < 2 ^ 62

/-! ### What an instruction changes and leaves -/

/-- The instruction answers a next state of which `P` holds. -/
def Answers (i : Instr) (s : State) (P : State → Prop) : Prop := ∃ t, exec i s = .next t ∧ P t

/-- A write of `v` to general register `rd`, where x[0] discards it; every other register unchanged (R15, R101). -/
def GprSet (rd : RegIdx) (v : DWord) (s t : State) : Prop :=
  ∀ r : RegIdx, t.x r = if r = rd ∧ r ≠ 0 then v else s.x r

/-- Every general register unchanged. -/
def SameGpr (s t : State) : Prop := ∀ r : RegIdx, t.x r = s.x r

/-- HI and LO unchanged. -/
def SameHiLo (s t : State) : Prop := t.hi = s.hi ∧ t.lo = s.lo

/-- Coprocessor 0, LLbit and the TLB unchanged. -/
def SameSystem (s t : State) : Prop := t.cop0 = s.cop0 ∧ t.llBit = s.llBit ∧ t.tlb = s.tlb

/-- The floating-point registers and FCSR unchanged. -/
def SameFpu (s t : State) : Prop := t.fpr = s.fpr ∧ t.fcsr = s.fcsr

/-- Every byte of memory and every cache line unchanged. -/
def SameMemory (s t : State) : Prop :=
  (∀ a : Nat, t.mem.read a = s.mem.read a) ∧ t.dcache = s.dcache ∧ t.icache = s.icache

/-- The devices, the scheduler, the run loop, the host interface and the parameters unchanged. -/
structure SamePlatform (s t : State) : Prop where
  sched : t.sched = s.sched
  mi : t.mi = s.mi
  vi : t.vi = s.vi
  ai : t.ai = s.ai
  pi : t.pi = s.pi
  ri : t.ri = s.ri
  si : t.si = s.si
  padState : t.padState = s.padState
  extIp : t.extIp = s.extIp
  runCycles : t.runCycles = s.runCycles
  count33 : t.count33 = s.count33
  cpuCarry : t.cpuCarry = s.cpuCarry
  rspCarry : t.rspCarry = s.rspCarry
  advancing : t.advancing = s.advancing
  stop : t.stop = s.stop
  firmwareLoaded : t.firmwareLoaded = s.firmwareLoaded
  initialised : t.initialised = s.initialised
  inputs : t.inputs = s.inputs
  outputs : t.outputs = s.outputs
  collabState : t.collabState = s.collabState
  cfg : t.cfg = s.cfg

/-- The end of an instruction that completes and registers no branch, with the cycles of its memory accesses (R500, R508, R510); its
EXTRA_CYCLES are charged after it (`executeWord`). -/
structure Completed (cycles : Nat) (s t : State) : Prop where
  latch : t.excLatch = s.excLatch
  cycles : t.stepCycles = s.stepCycles + cycles
  target : t.branchTarget = s.branchTarget
  outside : s.branchState = .noBranch → t.branchState = .noBranch ∧ t.pc = s.pc + 4#64
  takenSlot : s.branchState = .delaySlotTaken → t.branchState = .performPending ∧ t.pc = s.pc
  notTakenSlot : s.branchState = .delaySlotNotTaken → t.branchState = .noBranch ∧ t.pc = s.pc + 4#64

/-- What the register-only instructions leave unchanged beside general registers, HI and LO, and coprocessor 0. -/
structure SameRest (s t : State) : Prop where
  fpu : SameFpu s t
  memory : SameMemory s t
  platform : SamePlatform s t
  completed : Completed 0 s t

/-- An instruction completed having written `v` to general register `rd` and nothing else. -/
structure WroteGpr (rd : RegIdx) (v : DWord) (s t : State) : Prop where
  gpr : GprSet rd v s t
  hiLo : SameHiLo s t
  system : SameSystem s t
  rest : SameRest s t

/-- An instruction completed having written HI and LO and nothing else. -/
structure WroteHiLo (h l : DWord) (s t : State) : Prop where
  hi : t.hi = h
  lo : t.lo = l
  gpr : SameGpr s t
  system : SameSystem s t
  rest : SameRest s t

/-- An instruction completed having written nothing but the program counter. -/
structure WroteNothing (s t : State) : Prop where
  gpr : SameGpr s t
  hiLo : SameHiLo s t
  system : SameSystem s t
  rest : SameRest s t

/-- An instruction of coprocessor 0 completed: general registers, HI, LO and the rest unchanged; what it does to coprocessor 0, LLbit and
the TLB is said beside this. -/
structure WroteSystem (s t : State) : Prop where
  gpr : SameGpr s t
  hiLo : SameHiLo s t
  rest : SameRest s t

/-- What a branch or jump that links `v` in `rd` (or nothing, with `rd` x[0]) leaves unchanged, its pc and branch state aside. -/
structure BranchFrame (rd : RegIdx) (v : DWord) (s t : State) : Prop where
  gpr : GprSet rd v s t
  hiLo : SameHiLo s t
  system : SameSystem s t
  fpu : SameFpu s t
  memory : SameMemory s t
  platform : SamePlatform s t
  latch : t.excLatch = s.excLatch
  cycles : t.stepCycles = s.stepCycles

/-- Branch registration and Advance outside a delay slot (R505, R510): the next instruction is the delay slot's. -/
structure BranchRegistered (cond : Bool) (target : DWord) (s t : State) : Prop where
  pc : t.pc = s.pc + 4#64
  taken : cond = true → t.branchState = .delaySlotTaken ∧ t.branchTarget = target
  notTaken : cond = false → t.branchState = .delaySlotNotTaken ∧ t.branchTarget = s.branchTarget

/-- A likely branch outside a delay slot (R506, R510): not taken, it skips its delay slot. -/
structure LikelyRegistered (cond : Bool) (target : DWord) (s t : State) : Prop where
  taken : cond = true → t.pc = s.pc + 4#64 ∧ t.branchState = .delaySlotTaken ∧ t.branchTarget = target
  notTaken : cond = false → t.pc = s.pc + 8#64 ∧ t.branchState = .noBranch ∧ t.branchTarget = s.branchTarget

/-- A branch in a delay slot registers nothing (R505, R506, D24). -/
structure SlotKept (s t : State) : Prop where
  target : t.branchTarget = s.branchTarget
  takenSlot : s.branchState = .delaySlotTaken → t.branchState = .performPending ∧ t.pc = s.pc
  notTakenSlot : s.branchState = .delaySlotNotTaken → t.branchState = .noBranch ∧ t.pc = s.pc + 4#64

/-! ### Exceptions -/

/-- Coprocessor 0 unchanged but for the registers trap entry writes (R822). -/
def SameCop0ButTrap (s t : State) : Prop :=
  t.cop0 = { s.cop0 with
    status := t.cop0.status
    cause := t.cop0.cause
    epc := t.cop0.epc
    badVAddr := t.cop0.badVAddr
    context := t.cop0.context
    xContext := t.cop0.xContext
    entryHi := t.cop0.entryHi }

/-- What an exception leaves unchanged (R822): every general register, HI, LO, LLbit, the TLB, the FPU, memory and the caches, the platform,
and of coprocessor 0 the registers it does not record in. -/
structure ExceptionFrame (s t : State) : Prop where
  gpr : SameGpr s t
  hiLo : SameHiLo s t
  llBit : t.llBit = s.llBit
  tlb : t.tlb = s.tlb
  fpu : SameFpu s t
  memory : SameMemory s t
  platform : SamePlatform s t
  cop0 : SameCop0ButTrap s t

/-- The address registers after an exception with a faulting address (R221). -/
structure AddressRecorded (a : DWord) (s t : State) : Prop where
  badVAddr : t.cop0.badVAddr = a
  contextVpn : bitField t.cop0.context 4 19 = bitField a 13 19
  contextRest : t.cop0.context &&& 0xFFFFFFFFFF80000F#64 = s.cop0.context &&& 0xFFFFFFFFFF80000F#64
  xContextVpn : bitField t.cop0.xContext 4 27 = bitField a 13 27
  xContextR : bitField t.cop0.xContext 31 2 = bitField a 62 2
  xContextRest : t.cop0.xContext &&& 0xFFFFFFFE0000000F#64 = s.cop0.xContext &&& 0xFFFFFFFE0000000F#64
  entryHiVpn : bitField t.cop0.entryHi 13 27 = bitField a 13 27
  entryHiR : bitField t.cop0.entryHi 62 2 = bitField a 62 2
  entryHiRest : t.cop0.entryHi &&& 0x3FFFFF0000001FFF#64 = s.cop0.entryHi &&& 0x3FFFFF0000001FFF#64

/-- The address registers unchanged. -/
def SameAddressRegs (s t : State) : Prop :=
  t.cop0.badVAddr = s.cop0.badVAddr ∧ t.cop0.context = s.cop0.context ∧ t.cop0.xContext = s.cop0.xContext
    ∧ t.cop0.entryHi = s.cop0.entryHi

/-- The six vectors (R825), for a refill exception (with EXL = 0) of a 32-bit or 64-bit strategy, and for every other. -/
def vectorOf (bev : Bool) (refill xtlb : Bool) : DWord :=
  match bev, refill, xtlb with
  | false, true, false => 0xFFFFFFFF80000000#64
  | false, true, true => 0xFFFFFFFF80000080#64
  | false, false, _ => 0xFFFFFFFF80000180#64
  | true, true, false => 0xFFFFFFFFBFC00200#64
  | true, true, true => 0xFFFFFFFFBFC00280#64
  | true, false, _ => 0xFFFFFFFFBFC00380#64

/-- Whether an exception is a TLB refill, and of a 64-bit strategy (R219, R811). -/
def Exc.refill : Exc → Bool
  | .tlbl _ r _ | .tlbs _ r _ => r
  | _ => false

def Exc.xtlb : Exc → Bool
  | .tlbl _ _ x | .tlbs _ _ x => x
  | _ => false

/-- An exception was taken from `s` in the way R820 says. -/
structure ExceptionTaken (e : Exc) (s t : State) : Prop where
  frame : ExceptionFrame s t
  latch : t.excLatch = true
  code : bitField t.cop0.cause 2 5 = e.code
  ce : bitField t.cop0.cause 28 2 = e.ce
  causeRest : t.cop0.cause &&& 0x4FFFFF83#32 = s.cop0.cause &&& 0x4FFFFF83#32
  bd : bit t.cop0.cause 31 = if s.exl then bit s.cop0.cause 31 else s.branchState.inSlot
  status : t.cop0.status = setBit s.cop0.status 1 true
  epc : t.cop0.epc = if s.exl then s.cop0.epc else if s.branchState.inSlot then s.pc - 4#64 else s.pc
  address : ∀ a, e.vaddr = some a → AddressRecorded a s t
  noAddress : e.vaddr = none → SameAddressRegs s t
  branch : t.branchState = .noBranch
  target : t.branchTarget = s.branchTarget
  cycles : t.stepCycles = s.stepCycles
  pc : t.pc = vectorOf s.bev (e.refill && !s.exl) e.xtlb

/-- The instruction takes the exception `e` at `s`. -/
def Raises (i : Instr) (e : Exc) (s : State) : Prop := Answers i s (ExceptionTaken e s)

/-! ### Floating-point registers -/

/-- A 32-bit write through the view of Status.FR (R700, D71): the other half of the register and every other register unchanged. -/
def FprSet32 (n : RegIdx) (w : Word) (s t : State) : Prop :=
  ∀ k : RegIdx, t.fpr[k.val] =
    if s.fr = true ∨ n.val % 2 = 0 then (if k = n then bitField s.fpr[k.val] 32 32 ++ w else s.fpr[k.val])
    else (if k.val + 1 = n.val then w ++ bitField s.fpr[k.val] 0 32 else s.fpr[k.val])

/-- A 64-bit write through the view of Status.FR (R700): every other register unchanged. -/
def FprSet64 (n : RegIdx) (v : DWord) (s t : State) : Prop :=
  ∀ k : RegIdx, t.fpr[k.val] =
    if s.fr = true then (if k = n then v else s.fpr[k.val])
    else (if k.val = n.val - n.val % 2 then v else s.fpr[k.val])

/-- A result written in its format's view (R700): S and W are 32 bits wide, D and L 64. -/
def FprSet (f : FpFmt) (n : RegIdx) (v : DWord) (s t : State) : Prop :=
  match f with
  | .s | .w => FprSet32 n (low32 v) s t
  | .d | .l => FprSet64 n v s t

/-- FCSR after an operation that signals `fl` and traps on nothing (R703): Cause is `fl` with E 0, Flag accrues it, the rest is
unchanged. -/
structure FcsrAccrued (fl : FpFlags) (before after : Word) : Prop where
  cause : bitField after 12 6 = fl.bits.setWidth 6
  flag : bitField after 2 5 = bitField before 2 5 ||| fl.bits
  rest : after &&& 0xFFFC0F83#32 = before &&& 0xFFFC0F83#32

/-- FCSR after an operation that traps (R703): only Cause changes. -/
structure FcsrTrapped (cause : BitVec 6) (before after : Word) : Prop where
  cause : bitField after 12 6 = cause
  rest : after &&& 0xFFFC0FFF#32 = before &&& 0xFFFC0FFF#32

/-- An instruction of coprocessor 1 completed: everything but the floating-point registers and FCSR unchanged; those are said beside
this. -/
structure WroteFpu (s t : State) : Prop where
  gpr : SameGpr s t
  hiLo : SameHiLo s t
  system : SameSystem s t
  memory : SameMemory s t
  platform : SamePlatform s t
  completed : Completed 0 s t

/-- An operation of R703 completed with a value and its flags. -/
structure FpResult (dst : FpFmt) (fd : RegIdx) (v : DWord) (fl : FpFlags) (s t : State) : Prop where
  fpr : FprSet dst fd v s t
  fcsr : FcsrAccrued fl s.fcsr t.fcsr
  frame : WroteFpu s t

/-- An FPE of R703: FCSR.Cause is written, and then the exception is taken; the destination and the flags are unchanged. -/
def FpRaises (i : Instr) (cause : BitVec 6) (s : State) : Prop :=
  Answers i s fun t => ∃ w, FcsrTrapped cause s.fcsr w ∧ ExceptionTaken .fpe (s.setFcsr w) t

/-- The rational number a finite operand stands for. -/
def fpRat (f : FpFmt) (x : DWord) : ℚ :=
  (if fpNeg f x then -1 else 1) * (fpSig f x : ℚ) * (2 : ℚ) ^ fpQuantum f x

/-- A finite operand. -/
def FpFinite (f : FpFmt) (x : DWord) : Prop := fpExp f x ≠ f.expMax

/-- `r` is `q` rounded to a multiple of `u` in a rounding mode (R138): nearest with ties to an even multiple, or directed. -/
def RoundedTo (rm : RoundMode) (u q r : ℚ) : Prop :=
  (∃ k : ℤ, r = k * u ∧ (rm = .nearest → |r - q| * 2 = u → k % 2 = 0))
    ∧ (rm = .nearest → |r - q| * 2 ≤ u)
    ∧ (rm = .zero → 0 ≤ r * q ∧ |r| ≤ |q| ∧ |q| < |r| + u)
    ∧ (rm = .up → q ≤ r ∧ r < q + u)
    ∧ (rm = .down → r ≤ q ∧ q < r + u)

/-! ### Memory accesses -/

/-- The states in which the spec refuses no access (D4, D6). -/
def State.accessible (s : State) : Prop := s.mode ≠ .reserved ∧ ¬(s.mode = .user ∧ s.re = true)

/-- The regions that keep what is written to them (R230). -/
def Region.keepsWrites : Region → Bool
  | .rdram | .pifRam => true
  | _ => false

/-- The regions an access to which calls no collaborator and no device: RDRAM, the PIF's memories and unclaimed addresses (R230). -/
def Region.isPlain : Region → Bool
  | .rdram | .pifRam | .pifRom | .openBus => true
  | _ => false

/-- Making the data line of `pa` present meets no window and no collaborator (R247, D81): it hits, or its victim is not dirty or is written
back to a plain region. -/
def State.victimOk (pa : Word) (s : State) : Prop :=
  (s.dLine pa).hits pa = true ∨ ((s.dLine pa).valid && (s.dLine pa).dirty) = false
    ∨ (s.region (dWritebackAddress pa (s.dLine pa))).isPlain = true

/-- An access of `n` bytes at `pa` is answered by a plain region, or, uncached and no store, by registers of a device, all within its block
or mirrored (R230, R911, D9, D64). The cartridge and the collaborators, whose answers are free, are not among these. -/
def State.reaches (kind : AccessKind) (pa : Word) (n : Nat) (cacheable : Bool) (s : State) : Prop :=
  (s.region pa).isPlain = true
    ∨ ∃ d, s.region pa = .device d ∧ kind ≠ .store ∧ cacheable = false
      ∧ (s.cfg.deviceMirroring = true ∨ pa.toNat % 0x100000 + n ≤ 4 * d.slots)

/-- A data access of `n` bytes at `ea` goes to `pa`, in a plain region or (a load) in a device's registers, and neither the watch registers
nor a bus error stop it (`43_loadstore.md` R550). -/
structure Ready (kind : AccessKind) (ea : DWord) (n : Nat) (pa : Word) (cacheable : Bool) (s : State) : Prop where
  memory : s.mem.wf = true
  accessible : s.accessible
  aligned : ea.toNat % n = 0
  placed : translate ea kind s = .ok (pa, cacheable) s
  unwatched : s.watchHits kind pa = false
  noBusError : busError s.cfg pa kind = false
  reached : s.reaches kind pa n cacheable
  victim : cacheable = true → s.victimOk pa

/-- A cached access to `pa` that misses a valid dirty line writes that line back first (R243). -/
def State.evicts (cacheable : Bool) (pa : Word) (s : State) : Bool :=
  cacheable && !(s.dLine pa).hits pa && (s.dLine pa).valid && (s.dLine pa).dirty

/-- The byte of memory at `a` once the victim of a cached access to `pa` has been written back, if its region keeps writes (R230, R243). -/
def State.memAfterEvict (cacheable : Bool) (pa : Word) (s : State) (a : Nat) : Byte :=
  let w := dWritebackAddress pa (s.dLine pa)
  if s.evicts cacheable pa = true ∧ (s.region w).keepsWrites = true ∧ w.toNat ≤ a ∧ a < w.toNat + 16 then
    (s.dLine pa).data.toList.getD (a - w.toNat) 0#8
  else s.mem.read a

/-- The byte `OPEN_BUS(a, 1)` that a line of unclaimed addresses has at `a` (R230, R247, log entry 22). -/
def State.openByte (s : State) (a : Nat) : Byte := (openBusValue s.cfg a 1).setWidth 8

/-- The byte that a cached access to `pa` sees at offset `i` of its data line's 16 bytes (R240 to R245): from the line if it hits, else from
memory. -/
def State.seenInLine (pa : Word) (s : State) (i : Nat) : Byte :=
  if (s.dLine pa).hits pa = true then (s.dLine pa).data.toList.getD i 0#8
  else if s.region pa = .openBus then s.openByte ((dLineBase pa).toNat + i)
  else s.memAfterEvict true pa ((dLineBase pa).toNat + i)

/-- The byte of a device's registers at `a`, big-endian in the 32-bit slot that holds it, slots counted modulo the block (R911, D9, D64). -/
def State.deviceByte (s : State) (d : Device) (a : Nat) : Byte :=
  bitField (s.slotRead s.elapsed d (a % 0x100000 / 4 % d.slots)) (8 * (3 - a % 4)) 8

/-- Byte `k` of what an access of `n` bytes at `pa` sees, the byte at `pa` being byte 0 (R230, R240, R246, D9, D11). -/
def State.seenByte (cacheable : Bool) (pa : Word) (n : Nat) (s : State) (k : Nat) : Byte :=
  if cacheable then s.seenInLine pa (pa.toNat % 16 + k)
  else
    match s.region pa with
    | .openBus => BitVec.ofNat 8 ((openBusValue s.cfg pa.toNat n).toNat / 2 ^ (8 * (n - 1 - k)))
    | .device d => s.deviceByte d (pa.toNat + k)
    | _ => s.mem.read (pa.toNat + k)

/-- The `n` bytes an access sees from `pa` up. -/
def State.seenBytes (cacheable : Bool) (pa : Word) (n : Nat) (s : State) : List Byte :=
  (List.range n).map (s.seenByte cacheable pa n)

/-- The value of `n` bytes as seen, the byte at the lowest address the most significant (R201). -/
def State.seenValue (cacheable : Bool) (pa : Word) (n : Nat) (s : State) : DWord := ofBytes (s.seenBytes cacheable pa n)

/-- The cycles of an access (R243 to R246); of a device, those of its 32-bit register accesses (R911, log entry 19). -/
def State.accessCycles (cacheable : Bool) (pa : Word) (n : Nat) (s : State) : Nat :=
  if cacheable then
    if (s.dLine pa).hits pa then s.cfg.costs.dcacheHit
    else (if s.evicts true pa then s.cfg.costs.dcacheWriteback else 0) + s.cfg.costs.dcacheMiss
  else
    match s.region pa with
    | .device _ => (if n = 8 then 2 else 1) * s.cfg.costs.uncached4
    | _ => uncachedCycles s.cfg.costs n

/-- What a load does to memory and the caches: uncached, nothing; cached, memory takes the victim and the line of `pa` holds the bytes seen,
clean unless it hit. -/
structure LoadMemory (cacheable : Bool) (pa : Word) (s t : State) : Prop where
  icache : t.icache = s.icache
  memory : ∀ a : Nat, t.mem.read a = s.memAfterEvict cacheable pa a
  uncachedLines : cacheable = false → t.dcache = s.dcache
  otherLines : ∀ i : Fin 512, i ≠ dIndex pa → t.dcache[i.val] = s.dcache[i.val]
  lineHit : (s.dLine pa).hits pa = true → t.dcache = s.dcache
  lineFilled : cacheable = true → (s.dLine pa).hits pa = false →
    (t.dLine pa).valid = true ∧ (t.dLine pa).dirty = false ∧ (t.dLine pa).tag = cacheTag pa
      ∧ ∀ i : Nat, i < 16 → (t.dLine pa).data.toList.getD i 0#8 = s.seenInLine pa i

/-- The byte a list of selected bytes puts at `q`, if any, when it is written from `a` up (R551). -/
def storedByte (a : Nat) (bs : List (Option Byte)) (q : Nat) : Option Byte := if a ≤ q then (bs[q - a]?).getD none else none

/-- What a store of the selected bytes `bs` from `pa` up does to memory and the caches: uncached, the bytes go to memory, and to a region that
keeps no writes nothing does (R230); cached, memory takes the victim only, and the line of `pa` holds the bytes seen with the stored ones over them, valid and dirty (R245, R246, R551). -/
structure StoreMemory (cacheable : Bool) (pa : Word) (bs : List (Option Byte)) (s t : State) : Prop where
  icache : t.icache = s.icache
  uncachedMemory : cacheable = false → (s.region pa).keepsWrites = true → ∀ q : Nat,
    t.mem.read q = (storedByte pa.toNat bs q).getD (s.mem.read q)
  uncachedIgnored : cacheable = false → (s.region pa).keepsWrites = false → ∀ q : Nat, t.mem.read q = s.mem.read q
  cachedMemory : cacheable = true → ∀ q : Nat, t.mem.read q = s.memAfterEvict true pa q
  uncachedLines : cacheable = false → t.dcache = s.dcache
  otherLines : ∀ i : Fin 512, i ≠ dIndex pa → t.dcache[i.val] = s.dcache[i.val]
  line : cacheable = true →
    (t.dLine pa).valid = true ∧ (t.dLine pa).dirty = true ∧ (t.dLine pa).tag = cacheTag pa
      ∧ ∀ i : Nat, i < 16 →
        (t.dLine pa).data.toList.getD i 0#8 = (storedByte (pa.toNat % 16) bs i).getD (s.seenInLine pa i)

/-- A load completed: `v` in `rt`, memory and the caches as said, everything else unchanged. -/
structure Loaded (rt : RegIdx) (v : DWord) (cacheable : Bool) (pa : Word) (n : Nat) (s t : State) : Prop where
  gpr : GprSet rt v s t
  hiLo : SameHiLo s t
  system : SameSystem s t
  fpu : SameFpu s t
  memory : LoadMemory cacheable pa s t
  platform : SamePlatform s t
  completed : Completed (s.accessCycles cacheable pa n) s t

/-- A load-linked completed: as a load, and LLbit and LLAddr set (R578). -/
structure LoadedLinked (rt : RegIdx) (v : DWord) (cacheable : Bool) (pa : Word) (n : Nat) (s t : State) : Prop where
  gpr : GprSet rt v s t
  hiLo : SameHiLo s t
  llBit : t.llBit = true
  cop0 : t.cop0 = { s.cop0 with llAddr := t.cop0.llAddr }
  llAddr : t.cop0.llAddr.toNat = pa.toNat / 16
  tlb : t.tlb = s.tlb
  fpu : SameFpu s t
  memory : LoadMemory cacheable pa s t
  platform : SamePlatform s t
  completed : Completed (s.accessCycles cacheable pa n) s t

/-- A load into a floating-point register completed. -/
structure LoadedFpu (cacheable : Bool) (pa : Word) (n : Nat) (s t : State) : Prop where
  gpr : SameGpr s t
  hiLo : SameHiLo s t
  system : SameSystem s t
  fcsr : t.fcsr = s.fcsr
  memory : LoadMemory cacheable pa s t
  platform : SamePlatform s t
  completed : Completed (s.accessCycles cacheable pa n) s t

/-- A store completed: no register but the program counter changed; memory and the caches as said. -/
structure Stored (cacheable : Bool) (pa : Word) (bs : List (Option Byte)) (s t : State) : Prop where
  gpr : SameGpr s t
  hiLo : SameHiLo s t
  system : SameSystem s t
  fpu : SameFpu s t
  memory : StoreMemory cacheable pa bs s t
  platform : SamePlatform s t
  completed : Completed (s.accessCycles cacheable pa bs.length) s t

/-- A store-conditional that stored: as a store, with 1 in `rt` (R580). -/
structure StoredConditional (rt : RegIdx) (cacheable : Bool) (pa : Word) (bs : List (Option Byte)) (s t : State) : Prop where
  gpr : GprSet rt 1#64 s t
  hiLo : SameHiLo s t
  system : SameSystem s t
  fpu : SameFpu s t
  memory : StoreMemory cacheable pa bs s t
  platform : SamePlatform s t
  completed : Completed (s.accessCycles cacheable pa bs.length) s t

/-- The `n` bytes of a value, all selected, the most significant at the lowest address (R201). -/
def storeBytes (n : Nat) (v : DWord) : List (Option Byte) :=
  (List.range n).map fun i => some (BitVec.ofNat 8 (v.toNat / 2 ^ (8 * (n - 1 - i))))

/-! ### Gates -/

/-- Coprocessor 0 is usable (R802); the reserved mode is refused (D4). -/
def State.cop0Usable (s : State) : Prop := s.mode = .kernel ∨ (s.mode ≠ .reserved ∧ s.cu 0 = true)

/-- Coprocessor 0 is not usable (R802). -/
def State.cop0Denied (s : State) : Prop := (s.mode = .supervisor ∨ s.mode = .user) ∧ s.cu 0 = false

/-- The 64-bit instructions are available (R803). -/
def State.ops64 (s : State) : Prop :=
  s.mode = .kernel ∨ (s.mode = .supervisor ∧ s.sx = true) ∨ (s.mode = .user ∧ s.ux = true)

/-- The 64-bit instructions are not available (R803). -/
def State.ops64Denied (s : State) : Prop := (s.mode = .supervisor ∧ s.sx = false) ∨ (s.mode = .user ∧ s.ux = false)

/-- The 64-bit instructions (R330). -/
def Instr.gated64 : Instr → Bool
  | .dadd _ _ _ | .daddu _ _ _ | .daddi _ _ _ | .daddiu _ _ _ | .dsub _ _ _ | .dsubu _ _ _ | .dsll _ _ _ | .dsrl _ _ _
  | .dsra _ _ _ | .dsll32 _ _ _ | .dsrl32 _ _ _ | .dsra32 _ _ _ | .dsllv _ _ _ | .dsrlv _ _ _ | .dsrav _ _ _
  | .dmult _ _ | .dmultu _ _ | .ddiv _ _ | .ddivu _ _ | .ld _ _ _ | .ldl _ _ _ | .ldr _ _ _ | .lld _ _ _ | .lwu _ _ _
  | .sd _ _ _ | .sdl _ _ _ | .sdr _ _ _ | .scd _ _ _ | .dmfc0 _ _ | .dmtc0 _ _ | .dmfc1 _ _ | .dmtc1 _ _ => true
  | _ => false

/-- The privileged instructions (R332). -/
def Instr.privileged : Instr → Bool
  | .mfc0 _ _ | .dmfc0 _ _ | .mtc0 _ _ | .dmtc0 _ _ | .tlbr | .tlbwi | .tlbwr | .tlbp | .eret | .cache _ _ _ => true
  | _ => false

/-- The instructions of coprocessor 1 (R701). -/
def Instr.isCop1 : Instr → Bool
  | .lwc1 _ _ _ | .ldc1 _ _ _ | .swc1 _ _ _ | .sdc1 _ _ _ | .mfc1 _ _ | .dmfc1 _ _ | .cfc1 _ _ | .mtc1 _ _ | .dmtc1 _ _
  | .ctc1 _ _ | .bc1f _ | .bc1t _ | .bc1fl _ | .bc1tl _ | .addS _ _ _ | .addD _ _ _ | .subS _ _ _ | .subD _ _ _
  | .mulS _ _ _ | .mulD _ _ _ | .divS _ _ _ | .divD _ _ _ | .sqrtS _ _ | .sqrtD _ _ | .absS _ _ | .absD _ _ | .movS _ _
  | .movD _ _ | .negS _ _ | .negD _ _ | .roundLS _ _ | .roundLD _ _ | .truncLS _ _ | .truncLD _ _ | .ceilLS _ _
  | .ceilLD _ _ | .floorLS _ _ | .floorLD _ _ | .roundWS _ _ | .roundWD _ _ | .truncWS _ _ | .truncWD _ _ | .ceilWS _ _
  | .ceilWD _ _ | .floorWS _ _ | .floorWD _ _ | .cvtSD _ _ | .cvtSW _ _ | .cvtSL _ _ | .cvtDS _ _ | .cvtDW _ _
  | .cvtDL _ _ | .cvtWS _ _ | .cvtWD _ _ | .cvtLS _ _ | .cvtLD _ _ | .cFS _ _ | .cFD _ _ | .cUnS _ _ | .cUnD _ _
  | .cEqS _ _ | .cEqD _ _ | .cUeqS _ _ | .cUeqD _ _ | .cOltS _ _ | .cOltD _ _ | .cUltS _ _ | .cUltD _ _ | .cOleS _ _
  | .cOleD _ _ | .cUleS _ _ | .cUleD _ _ | .cSfS _ _ | .cSfD _ _ | .cNgleS _ _ | .cNgleD _ _ | .cSeqS _ _ | .cSeqD _ _
  | .cNglS _ _ | .cNglD _ _ | .cLtS _ _ | .cLtD _ _ | .cNgeS _ _ | .cNgeD _ _ | .cLeS _ _ | .cLeD _ _ | .cNgtS _ _
  | .cNgtD _ _ => true
  | _ => false

/-- The data access of an instruction: its kind, the address it goes to and its width (R550, R564, R580). -/
def Instr.access (i : Instr) (s : State) : Option (AccessKind × DWord × Nat) :=
  match i with
  | .lb _ base offset => some (.load, effectiveAddress base offset s, 1)
  | .lbu _ base offset => some (.load, effectiveAddress base offset s, 1)
  | .lh _ base offset => some (.load, effectiveAddress base offset s, 2)
  | .lhu _ base offset => some (.load, effectiveAddress base offset s, 2)
  | .lw _ base offset => some (.load, effectiveAddress base offset s, 4)
  | .lwu _ base offset => some (.load, effectiveAddress base offset s, 4)
  | .ll _ base offset => some (.load, effectiveAddress base offset s, 4)
  | .lwc1 _ base offset => some (.load, effectiveAddress base offset s, 4)
  | .ld _ base offset => some (.load, effectiveAddress base offset s, 8)
  | .lld _ base offset => some (.load, effectiveAddress base offset s, 8)
  | .ldc1 _ base offset => some (.load, effectiveAddress base offset s, 8)
  | .lwl _ base offset => some (.load, alignDown (effectiveAddress base offset s) 4, 4)
  | .lwr _ base offset => some (.load, alignDown (effectiveAddress base offset s) 4, 4)
  | .ldl _ base offset => some (.load, alignDown (effectiveAddress base offset s) 8, 8)
  | .ldr _ base offset => some (.load, alignDown (effectiveAddress base offset s) 8, 8)
  | .sb _ base offset => some (.store, effectiveAddress base offset s, 1)
  | .sh _ base offset => some (.store, effectiveAddress base offset s, 2)
  | .sw _ base offset => some (.store, effectiveAddress base offset s, 4)
  | .sc _ base offset => some (.store, effectiveAddress base offset s, 4)
  | .swc1 _ base offset => some (.store, effectiveAddress base offset s, 4)
  | .sd _ base offset => some (.store, effectiveAddress base offset s, 8)
  | .scd _ base offset => some (.store, effectiveAddress base offset s, 8)
  | .sdc1 _ base offset => some (.store, effectiveAddress base offset s, 8)
  | .swl _ base offset => some (.store, alignDown (effectiveAddress base offset s) 4, 4)
  | .swr _ base offset => some (.store, alignDown (effectiveAddress base offset s) 4, 4)
  | .sdl _ base offset => some (.store, alignDown (effectiveAddress base offset s) 8, 8)
  | .sdr _ base offset => some (.store, alignDown (effectiveAddress base offset s) 8, 8)
  | _ => none

/-- The effective address of a partial access, which works on the aligned unit around it (R564 to R571). -/
def Instr.partialAddress (i : Instr) (s : State) : Option DWord :=
  match i with
  | .lwl _ base offset => some (effectiveAddress base offset s)
  | .lwr _ base offset => some (effectiveAddress base offset s)
  | .ldl _ base offset => some (effectiveAddress base offset s)
  | .ldr _ base offset => some (effectiveAddress base offset s)
  | .swl _ base offset => some (effectiveAddress base offset s)
  | .swr _ base offset => some (effectiveAddress base offset s)
  | .sdl _ base offset => some (effectiveAddress base offset s)
  | .sdr _ base offset => some (effectiveAddress base offset s)
  | _ => none

/-- What an instruction raises where the translation of its access raises `e`: an address error of a partial access carries the effective
address (R811) as R212 adjusts it, any other exception is `e`. -/
def Instr.raised (i : Instr) (e : Exc) (s : State) : Exc :=
  match Instr.partialAddress i s, e with
  | some ea, .adel _ => .adel (if s.is64 = true then ea else sext32 (low32 ea))
  | some ea, .ades _ => .ades (if s.is64 = true then ea else sext32 (low32 ea))
  | _, e => e

/-- A conditional trap: Tr when the condition holds, and otherwise nothing (R602). -/
def TrapsIf (i : Instr) (c : Prop) (s : State) : Prop :=
  (c → Raises i .tr s) ∧ (¬c → Answers i s (WroteNothing s))

/-- A gated doubleword instruction: RI where it is denied, and its result where it is allowed. -/
def Gated64 (i : Instr) (s : State) (P : State → Prop) : Prop :=
  (s.ops64Denied → Raises i .ri s) ∧ (s.ops64 → Answers i s P)

/-- A trapping addition or subtraction with exact result `t` in `n` bits (R400): Ov, with no register written, or the result. -/
def AddsOrOverflows (i : Instr) (n : Nat) (rd : RegIdx) (t : Int) (s : State) : Prop :=
  ((t < -(2 ^ (n - 1)) ∨ 2 ^ (n - 1) - 1 < t) → Raises i .ov s)
    ∧ (-(2 ^ (n - 1)) ≤ t ∧ t ≤ 2 ^ (n - 1) - 1 → Answers i s (WroteGpr rd (BitVec.ofInt 64 t) s))

/-! ### Coprocessor 0 -/

/-- The write masks of coprocessor 0 (R113); a 32-bit register takes only the low word. -/
def cop0Mask (n : RegIdx) : DWord :=
  match n.val with
  | 0 => 0x000000008000003F#64
  | 2 | 3 => 0x000000003FFFFFFF#64
  | 4 => 0xFFFFFFFFFF800000#64
  | 5 => 0x0000000001FFE000#64
  | 6 => 0x000000000000003F#64
  | 9 | 11 | 17 => 0x00000000FFFFFFFF#64
  | 10 => 0xC00000FFFFFFE0FF#64
  | 12 => 0x00000000FF57FFFF#64
  | 13 => 0x0000000000000300#64
  | 14 | 30 => 0xFFFFFFFFFFFFFFFF#64
  | 16 => 0x000000000F00000F#64
  | 18 => 0x00000000FFFFFFFB#64
  | 19 => 0x000000000000000F#64
  | 20 => 0xFFFFFFFE00000000#64
  | 26 => 0x00000000000000FF#64
  | 28 => 0x000000000FFFFFC0#64
  | _ => 0#64

/-- The side effect a write to number `n` has on what number `m` reads (R625): Wired sets Random, Compare clears IP7. -/
def cop0Side (n m : RegIdx) (old : DWord) : DWord :=
  if n = 6 ∧ m = 1 then 31#64 else if n = 11 ∧ m = 13 then old &&& 0xFFFFFFFFFFFF7FFF#64 else old

/-- A write of `v` to coprocessor-0 register `n` completed (R113, R622 to R625). -/
structure WroteCop0 (n : RegIdx) (v : DWord) (s t : State) : Prop where
  written : readCop0 n t = (readCop0 n s &&& ~~~(cop0Mask n)) ||| (v &&& cop0Mask n)
  others : ∀ m : RegIdx, m ≠ n → readCop0 m t = cop0Side n m (readCop0 m s)
  count : n ≠ 9 → t.count33 = s.count33
  countWritten : n = 9 → t.count33 = low32 v ++ 0#1
  timer : n = 9 ∨ n = 11 → t.sched = s.sched.change .compareInterrupt (2 * ((t.cop0.compare.toNat + 2 ^ 33 - t.count.toNat - 1) % 2 ^ 32 + 1)) s.elapsed
  noTimer : n ≠ 9 → n ≠ 11 → t.sched = s.sched
  llBit : t.llBit = s.llBit
  tlb : t.tlb = s.tlb
  gpr : SameGpr s t
  hiLo : SameHiLo s t
  fpu : SameFpu s t
  memory : SameMemory s t
  platform : SamePlatform { s with sched := t.sched, count33 := t.count33 } t
  completed : Completed 0 s t

/-- A TLB entry as `TlbWrite` builds it from coprocessor 0 (R634). -/
structure EntryWritten (c : Cop0) (e : TlbEntry) : Prop where
  mask : ∀ k : Fin 6, bit e.mask (2 * k.val + 1) = bit c.pageMask (13 + 2 * k.val + 1)
    ∧ bit e.mask (2 * k.val) = bit c.pageMask (13 + 2 * k.val + 1)
  vpn2 : e.vpn2 = bitField c.entryHi 13 27 &&& ~~~(e.mask.setWidth 27)
  r : e.r = bitField c.entryHi 62 2
  asid : e.asid = bitField c.entryHi 0 8
  g : e.g = (bit c.entryLo0 0 && bit c.entryLo1 0)
  lo0 : e.lo0 = ⟨bitField c.entryLo0 6 24, bitField c.entryLo0 3 3, bit c.entryLo0 2, bit c.entryLo0 1⟩
  lo1 : e.lo1 = ⟨bitField c.entryLo1 6 24, bitField c.entryLo1 3 3, bit c.entryLo1 2, bit c.entryLo1 1⟩

/-- A TLB write to entry `i` completed: that entry is written, and nothing else changes. -/
structure WroteTlb (i : Nat) (s t : State) : Prop where
  entry : ∀ k : Fin 32, k.val = i → EntryWritten s.cop0 t.tlb[k.val]
  others : ∀ k : Fin 32, k.val ≠ i → t.tlb[k.val] = s.tlb[k.val]
  cop0 : t.cop0 = s.cop0
  llBit : t.llBit = s.llBit
  frame : WroteSystem s t

/-- The registers a TLB read of entry `e` writes (R630). -/
structure EntryRead (e : TlbEntry) (c : Cop0) : Prop where
  pageMask : c.pageMask.toNat = e.mask.toNat * 2 ^ 13
  entryHi : c.entryHi.toNat = e.r.toNat * 2 ^ 62 + e.vpn2.toNat * 2 ^ 13 + e.asid.toNat
  entryLo0 : c.entryLo0.toNat =
    e.lo0.pfn.toNat * 64 + e.lo0.c.toNat * 8 + e.lo0.d.toNat * 4 + e.lo0.v.toNat * 2 + e.g.toNat
  entryLo1 : c.entryLo1.toNat =
    e.lo1.pfn.toNat * 64 + e.lo1.c.toNat * 8 + e.lo1.d.toNat * 4 + e.lo1.v.toNat * 2 + e.g.toNat

/-! ### Caches -/

/-- A CACHE instruction completed (R584): the lines of `pa` and TagLo as given, memory reading `mem`, and nothing else changed. -/
structure CacheDone (cycles : Nat) (il : ILine) (dl : DLine) (tagLo : Word) (mem : Nat → Byte) (pa : Word) (s t : State) : Prop where
  iline : t.iLine pa = il
  otherI : ∀ i : Fin 512, i ≠ iIndex pa → t.icache[i.val] = s.icache[i.val]
  dline : t.dLine pa = dl
  otherD : ∀ i : Fin 512, i ≠ dIndex pa → t.dcache[i.val] = s.dcache[i.val]
  cop0 : t.cop0 = { s.cop0 with tagLo := tagLo }
  memory : ∀ a : Nat, t.mem.read a = mem a
  gpr : SameGpr s t
  hiLo : SameHiLo s t
  llBit : t.llBit = s.llBit
  tlb : t.tlb = s.tlb
  fpu : SameFpu s t
  platform : SamePlatform s t
  completed : Completed cycles s t

/-- Memory with the bytes of a line written from `w` up. -/
def State.memWith (s : State) (w : Nat) (bs : List Byte) (a : Nat) : Byte :=
  if w ≤ a ∧ a < w + bs.length then bs.getD (a - w) 0#8 else s.mem.read a

/-- The byte that cached data accesses see at `q` (R240, R241). -/
def State.viewByte (s : State) (q : Word) : Byte :=
  if (s.dLine q).hits q = true then (s.dLine q).data.toList.getD (q.toNat % 16) 0#8 else s.mem.read q.toNat

/-- The data lines are where their tags say, and dirty ones hold RDRAM (R143). CACHE Index_Store_Tag can break this. -/
structure State.LinesConsistent (s : State) : Prop where
  home : ∀ i : Fin 512, (s.dcache[i.val]).valid = true → (s.dcache[i.val]).tag.toNat % 2 = i.val / 256
  dirty : ∀ i : Fin 512, (s.dcache[i.val]).valid = true → (s.dcache[i.val]).dirty = true →
    (s.dcache[i.val]).tag.toNat * 4096 < rdramBytes s.cfg.rdramSize

/-- A cacheable data access by physical address. -/
inductive CachedAccess where
  | load (pa : Word) (n : Nat)
  | store (pa : Word) (bs : List (Option Byte))
deriving DecidableEq, Repr

/-- The access lies in RDRAM and within one data line. -/
def CachedAccess.fits (size : RdramSize) : CachedAccess → Prop
  | .load pa n => pa.toNat < rdramBytes size ∧ pa.toNat % 16 + n ≤ 16
  | .store pa bs => pa.toNat < rdramBytes size ∧ pa.toNat % 16 + bs.length ≤ 16

/-- A sequence of cacheable accesses through the data cache, with what the loads read (R244, R245). -/
def runCached : List CachedAccess → State → Res (List (List Byte))
  | [], s => .ok [] s
  | .load pa n :: rest, s =>
    (cachedLoad pa n s).bind fun bs s => (runCached rest s).bind fun out s => .ok (bs :: out) s
  | .store pa bs :: rest, s => (cachedStore pa bs s).bind fun _ s => runCached rest s

/-- The same sequence on a flat memory with no cache. -/
def runFlat : List CachedAccess → (Word → Byte) → List (List Byte) × (Word → Byte)
  | [], f => ([], f)
  | .load pa n :: rest, f =>
    (((List.range n).map fun i => f (pa + BitVec.ofNat 32 i)) :: (runFlat rest f).1, (runFlat rest f).2)
  | .store pa bs :: rest, f => runFlat rest fun q => (storedByte pa.toNat bs q.toNat).getD (f q)

/-! ### Floating-point instructions -/

/-- The parameters `FP` and `FP_UNIMPL` are at their defaults everywhere (R12, log entry 8). -/
def FpDefaults (c : Config) : Prop := c.fp = [] ∧ c.fpCmp = [] ∧ c.fpUnimpl = []

/-- What an instruction of R703 does with what the operation answers: the result, an enabled exception, or an unimplemented operation. -/
def FpDoes (i : Instr) (o : FpOutcome) (dst : FpFmt) (fd : RegIdx) (s : State) : Prop :=
  (∀ v fl, o = .value v fl → fl.bits &&& bitField s.fcsr 7 5 = 0#5 → Answers i s (FpResult dst fd v fl s))
    ∧ (∀ v fl, o = .value v fl → fl.bits &&& bitField s.fcsr 7 5 ≠ 0#5 → FpRaises i (fl.bits.setWidth 6) s)
    ∧ (o = .unimplemented → FpRaises i 0x20#6 s)

/-- What a compare does (R760): `r` from the condition's bits and the order, V for an unordered pair where the condition or a signaling NaN
asks for it. -/
def ComparesAs (i : Instr) (f : FpFmt) (cond : BitVec 4) (fs ft : RegIdx) (s : State) : Prop :=
  let a := s.fpRead f fs
  let b := s.fpRead f ft
  let o := fpCmp s.cfg f a b
  let r : Bool := (decide (o = .lt) && bit cond 2) || (decide (o = .eq) && bit cond 1) || (decide (o = .un) && bit cond 0)
  let invalid : Bool := decide (o = .un) && (bit cond 3 || fpIsSignaling f a || fpIsSignaling f b)
  (invalid = true → bit s.fcsr 11 = true → FpRaises i 0x10#6 s)
    ∧ (invalid = false ∨ bit s.fcsr 11 = false → Answers i s fun t =>
        bit t.fcsr 23 = r ∧ bitField t.fcsr 12 6 = (if invalid then 0x10#6 else 0#6)
          ∧ bit t.fcsr 6 = (bit s.fcsr 6 || invalid) ∧ t.fcsr &&& 0xFF7C0FBF#32 = s.fcsr &&& 0xFF7C0FBF#32
          ∧ t.fpr = s.fpr ∧ WroteFpu s t)

/-- An operand as a number that comparison orders: an infinity is beyond every finite number. -/
def fpExtended (f : FpFmt) (x : DWord) : ℚ :=
  if fpIsInf f x then (if fpNeg f x then -1 else 1) * 2 ^ f.expMax else fpRat f x

/-- A non-zero result below the smallest normal number, which this unit does not produce (R790(b)). -/
def FpTinyTrap (f : FpFmt) (fcsr : Word) (exact : ℚ) : Prop :=
  exact ≠ 0 ∧ |exact| < (2 : ℚ) ^ (1 - (f.bias : ℤ)) ∧ (bit fcsr 24 = false ∨ bit fcsr 8 = true ∨ bit fcsr 7 = true)

/-- The unit in the last place of the numbers of a format around `q`: that of the binade `2^k ≤ |q| < 2^(k+1)`, but no smaller than that of
the smallest normal number (R702, IEEE-754). -/
def fpUlp (f : FpFmt) (q : ℚ) : ℚ := (2 : ℚ) ^ max (Int.log 2 |q| - f.fracBits) f.minQuantum

/-- The exact result `q` overflows: rounded as if the exponent had no bound, it is beyond the largest finite number `m` (IEEE-754). With `u`
the last place of `m`, half a place beyond is rounded to nearest past it, and a whole one toward zero. -/
def FpOverflows (f : FpFmt) (rm : RoundMode) (q : ℚ) : Prop :=
  let m := fpRat f (fpMaxFinite f false)
  let u := fpUlp f m
  match rm with
  | .nearest => m + u / 2 ≤ |q|
  | .zero => m + u ≤ |q|
  | .up => m < q ∨ q ≤ -(m + u)
  | .down => q < -m ∨ m + u ≤ q

/-- What an operation with exact result `q` answers (R702, R703, D87): `q` rounded to a multiple of the last place of its binade, with I exactly
when that differs from `q`; where it overflows, infinity or the largest number by the mode, with O and I; where it is tiny and flushed, zero
or the smallest normal number by the mode, with U and I. V and Z are never signaled. -/
structure FpRounded (f : FpFmt) (fcsr : Word) (q : ℚ) (v : DWord) (fl : FpFlags) : Prop where
  noInvalid : fl.v = false ∧ fl.z = false
  finite : fl.o = false → fl.u = false → FpFinite f v ∧ (fl.i = false ↔ fpRat f v = q)
    ∧ RoundedTo (RoundMode.ofBits (fcsrRm fcsr)) (fpUlp f q) q (fpRat f v)
    ∧ (q = 0 ∨ (2 : ℚ) ^ (1 - (f.bias : ℤ)) ≤ |q|)
  overflow : fl.o = true → fl.i = true ∧ fl.u = false ∧ FpOverflows f (RoundMode.ofBits (fcsrRm fcsr)) q
    ∧ v = (match RoundMode.ofBits (fcsrRm fcsr) with
      | .nearest => fpInf f (decide (q < 0))
      | .zero => fpMaxFinite f (decide (q < 0))
      | .up => if q < 0 then fpMaxFinite f true else fpInf f false
      | .down => if q < 0 then fpInf f true else fpMaxFinite f false)
  underflow : fl.u = true → fl.i = true ∧ fl.o = false ∧ bit fcsr 24 = true ∧ q ≠ 0 ∧ |q| < (2 : ℚ) ^ (1 - (f.bias : ℤ))
    ∧ v = (match RoundMode.ofBits (fcsrRm fcsr) with
      | .up => if q < 0 then fpZero f true else fpMinNormal f false
      | .down => if q < 0 then fpMinNormal f true else fpZero f false
      | _ => fpZero f (decide (q < 0)))

/-- The unit in the last place of the numbers of a format around the square root of `q > 0`, whose binade has half the exponent of `q`'s,
rounded down. -/
def fpRootUlp (f : FpFmt) (q : ℚ) : ℚ := (2 : ℚ) ^ (Int.log 2 q / 2 - f.fracBits)

/-- `v` is the square root of `q > 0` rounded to a multiple of `u` in a rounding mode, said of squares (R734). -/
def RootRounded (rm : RoundMode) (u q v : ℚ) : Prop :=
  0 < v ∧ (∃ k : ℤ, v = k * u)
    ∧ (rm = .nearest → (v - u / 2) ^ 2 ≤ q ∧ q ≤ (v + u / 2) ^ 2)
    ∧ (rm = .zero ∨ rm = .down → v ^ 2 ≤ q ∧ q < (v + u) ^ 2)
    ∧ (rm = .up → q ≤ v ^ 2 ∧ (v - u) ^ 2 < q)

/-- An operand as its format reads it (R700): the bits above the format are 0. -/
def FpOperand (f : FpFmt) (x : DWord) : Prop := f = .s → x.toNat < 2 ^ 32

/-- A quiet NaN (D87). -/
def FpQuietNan (f : FpFmt) (x : DWord) : Prop := fpIsNan f x = true ∧ fpIsSignaling f x = false

/-- A denormalised operand or a signaling NaN (R790(a)). -/
def FpBadOperand (f : FpFmt) (x : DWord) : Prop := fpIsDenormal f x = true ∨ fpIsSignaling f x = true

/-! ### DMA -/

/-- What a DMA reads at an RDRAM address: OPEN_BUS at or beyond RDRAM_SIZE (R912). -/
def State.dmaSees (s : State) (a : Nat) : Byte := if a < rdramBytes s.cfg.rdramSize then s.mem.read a else s.openByte a

/-- The event of kind `k` is due `c` cycles after the step that made `u` of `elapsed` cycles (R901), and every other event is `u`'s. -/
structure EventAdded (k : EventKind) (c : Nat) (elapsed : Int) (u t : State) : Prop where
  time : (c : Int) + elapsed < 2 ^ 63 → 0 ≤ elapsed → (t.sched.find k).map Event.remaining = some ((c : Int) + elapsed)
  others : ∀ j, j ≠ k → t.sched.find j = u.sched.find j

/-- `audio_buffer(bytes, ai_dacrate)` for a request (R941, R942). -/
def State.audioOut (s : State) (q : AiRequest) : HostOutput :=
  .audioBuffer ((List.range q.len.toNat).map fun i => s.dmaSees (q.addr.toNat + i)) s.ai.dacrate

/-- `AiStart(q)` (R941): the request is current and its event added, the interrupt raised and the bytes passed on if the parameters say
so now. -/
structure AiStarted (elapsed : Int) (q : AiRequest) (s t : State) : Prop where
  ai : t.ai = { s.ai with cur := some q }
  event : EventAdded .aiDma q.duration elapsed s t
  mi : t.mi = if s.cfg.aiIrqAtStart then { s.mi with intr := setBit s.mi.intr 2 true } else s.mi
  outputs : t.outputs = (if s.cfg.dmaCopyAt = .start then [s.audioOut q] else [])
    ++ (if s.cfg.aiIrqAtStart then [.interruptRaised .ai] else []) ++ s.outputs
  frame : t = { s with ai := t.ai, sched := t.sched, mi := t.mi, outputs := t.outputs }

/-- The state after the audio DMA's completion, before a buffered request starts (R942). -/
def State.aiDone (s : State) (q : AiRequest) : State :=
  { s with
    ai := { s.ai with cur := none, next := none }
    mi := if s.cfg.aiIrqAtStart then s.mi else { s.mi with intr := setBit s.mi.intr 2 true }
    outputs := (if s.cfg.aiIrqAtStart then [] else [.interruptRaised .ai])
      ++ (if s.cfg.dmaCopyAt = .completion then [s.audioOut q] else []) ++ s.outputs }

/-- Byte `i` of `PiCopy(q)` (R951): a call of the cartridge, which may do what R970 allows. -/
def State.piCopiedByte (elapsed : Int) (q : PiRequest) (s : State) (i : Nat) : State :=
  let a := q.cart + BitVec.ofNat 32 i
  match q.dir with
  | .toRdram => (s.cartRead elapsed a).2.dmaWrite (q.dram.toNat + i) (s.cartRead elapsed a).1
  | .toCart => s.cartWrite elapsed a (s.dmaSees (q.dram.toNat + i))

/-- `PiCopy(q)` (R951): byte by byte, upwards. -/
def State.piCopied (elapsed : Int) (q : PiRequest) (s : State) : State :=
  (List.range q.len).foldl (State.piCopiedByte elapsed q) s

/-- `PiStart(q)` (R951): the request is current, its event added, and its bytes are copied if the parameter says so now. -/
structure PiStarted (elapsed : Int) (q : PiRequest) (s t : State) : Prop where
  pi : t.pi = { s.pi with cur := some q }
  event : EventAdded .piDma (piDmaCycles q.len) elapsed (if s.cfg.dmaCopyAt = .start then s.piCopied elapsed q else s) t
  frame : t = { (if s.cfg.dmaCopyAt = .start then s.piCopied elapsed q else s) with pi := t.pi, sched := t.sched }

/-- The state after the parallel DMA's completion, before a buffered request starts (R952). -/
def State.piDone (s : State) (q : PiRequest) : State :=
  let w := if s.cfg.dmaCopyAt = .completion then s.piCopied 0 q else s
  { w with
    pi := { s.pi with
      dram := (q.dram + BitVec.ofNat 32 q.len) &&& 0x00FFFFFE#32
      cart := (q.cart + BitVec.ofNat 32 q.len) &&& 0xFFFFFFFE#32
      cur := none
      next := none }
    mi := { w.mi with intr := setBit w.mi.intr 4 true }
    outputs := .interruptRaised .pi :: w.outputs }

/-- `SiCopy(q)` (R967): from PIF RAM, as PIF_PROCESS leaves it, to 64 bytes of RDRAM, or from RDRAM to PIF RAM; every other byte is
unchanged. -/
structure SiCopied (q : SiRequest) (s t : State) : Prop where
  processed : q.dir = .pifToRdram → s.mem.wf = true → ∀ i : Fin 64,
    t.mem.read (pifRamBase + i.val) = Config.pifProcess s.collabState (s.mem.readBytes pifRamBase 64) s.padState i
      ∧ (q.dram.toNat + i.val < rdramBytes s.cfg.rdramSize →
        t.mem.read (q.dram.toNat + i.val) = Config.pifProcess s.collabState (s.mem.readBytes pifRamBase 64) s.padState i)
  called : q.dir = .pifToRdram → t.collabState = Config.pifState s.collabState (s.mem.readBytes pifRamBase 64) s.padState
  toPif : q.dir = .rdramToPif → s.mem.wf = true → ∀ i : Fin 64, t.mem.read (pifRamBase + i.val) = s.dmaSees (q.dram.toNat + i.val)
  notCalled : q.dir = .rdramToPif → t.collabState = s.collabState
  others : s.mem.wf = true → ∀ a : Nat, a < pifRamBase ∨ pifRamBase + 64 ≤ a →
    q.dir = .rdramToPif ∨ a < q.dram.toNat ∨ q.dram.toNat + 64 ≤ a ∨ rdramBytes s.cfg.rdramSize ≤ a → t.mem.read a = s.mem.read a
  frame : t = { s with mem := t.mem, collabState := t.collabState }

/-- The bytes of a serial DMA are copied now, if `now` (R966, R967). -/
def SiCopiedIf (now : Prop) (q : SiRequest) (s t : State) : Prop := (now → SiCopied q s t) ∧ (¬now → t = s)

/-- `SiStart(q)` (R966). -/
structure SiStarted (elapsed : Int) (q : SiRequest) (s t : State) : Prop where
  si : t.si = { s.si with cur := some q }
  event : EventAdded .siDma siDmaCycles elapsed s t
  copied : ∃ u, SiCopiedIf (s.cfg.dmaCopyAt = .start) q s u ∧ t = { u with si := t.si, sched := t.sched }

/-- The state after the serial DMA's completion, before a buffered request starts (R967); `w` is the state after the copy. -/
def State.siDone (w : State) : State :=
  { w with
    si := { w.si with cur := none, next := none }
    mi := { w.mi with intr := setBit w.mi.intr 1 true }
    outputs := .interruptRaised .si :: w.outputs }

/-! ### Reset and the timer -/

/-- The values of cold reset (R1001) but for Status and ErrorEPC, which differ in a soft reset (R1002). -/
structure ResetValues (status : Word) (errorEpc : DWord) (t : State) : Prop where
  gpr : ∀ r : RegIdx, t.x r = 0#64
  hiLo : t.hi = 0#64 ∧ t.lo = 0#64
  pc : t.pc = 0xFFFFFFFFBFC00000#64
  branch : t.branchState = .noBranch ∧ t.branchTarget = 0#64
  hidden : t.llBit = false ∧ t.excLatch = false ∧ t.runCycles = 0#64 ∧ t.count33 = 0#33
  lines : t.extIp = 0#4
  status : readCop0 12 t = zext32 status
  errorEpc : readCop0 30 t = errorEpc
  random : readCop0 1 t = 31#64
  config : readCop0 16 t = 0x000000007006E463#64
  prId : readCop0 15 t = 0x0000000000000B22#64
  zeros : ∀ n : RegIdx, n ≠ 1 → n ≠ 12 → n ≠ 15 → n ≠ 16 → n ≠ 30 → readCop0 n t = 0#64
  fpu : (∀ n : RegIdx, t.fpr[n.val] = 0#64) ∧ t.fcsr = 0#32
  tlb : ∀ i : Fin 32, t.tlb[i.val] = TlbEntry.zero
  icache : ∀ i : Fin 512, t.icache[i.val] = ⟨false, 0#20, Vector.replicate 32 0#8⟩
  dcache : ∀ i : Fin 512, t.dcache[i.val] = ⟨false, false, 0#20, Vector.replicate 16 0#8⟩
  mode : t.mode = .kernel ∧ t.is64 = false
  timer : (t.sched.find .compareInterrupt).map Event.remaining = some (2 ^ 33)
  halfline : (t.sched.find .viHalfline).map Event.cyclesRemaining = some (BitVec.ofNat 64 t.cfg.cyclesPerHalfline)
  onlyThose : ∀ k, k ≠ .compareInterrupt → k ≠ .viHalfline → t.sched.find k = none
  mi : t.mi = Mi.reset
  vi : t.vi = Vi.reset
  ai : t.ai = Ai.reset
  pi : t.pi = Pi.reset
  ri : t.ri = Ri.reset
  si : t.si = Si.reset
  carries : t.cpuCarry = 0 ∧ t.rspCarry = 0 ∧ t.stop = false ∧ t.advancing = false

/-- What a reset leaves alone: memory, the collaborators' state and the parameters (R1003); the loader, the pads, and the calls and outputs
of the host (the model's choice, log entries 12, 23 and 24). -/
structure ResetFrame (s t : State) : Prop where
  mem : t.mem = s.mem
  collabState : t.collabState = s.collabState
  cfg : t.cfg = s.cfg
  firmwareLoaded : t.firmwareLoaded = s.firmwareLoaded
  padState : t.padState = s.padState
  inputs : t.inputs = s.inputs
  outputs : t.outputs = s.outputs

/-- A step that executes an instruction, or takes an interrupt: no advance is under way and no call of the host waits, the core was powered
on, the run loop is going and its budget is not reached (R907). -/
structure State.Running (s : State) : Prop where
  noAdvance : s.advancing = false
  budget : s.runCycles.toNat < s.cpuBudget
  noCall : s.inputs = []
  powered : s.initialised = true
  going : s.stop = false ∨ s.runCycles ≠ 0#64
  mode : s.mode ≠ .reserved

/-! ### Safe runs -/

/-- A run of `n` steps meets no fault and no refusal. -/
def SafeFor : Nat → State → Prop
  | 0, _ => True
  | n + 1, s => ∃ t, step s = .next t ∧ SafeFor n t

end Sys2Proof.Machine
end

