-- ==== Sys2Proof/Certificates/Slice0/Obligations.lean ====
section
/-! DEFINITION. The statements for the provers. Each is about every state of the machine; none is about a program. -/

open Sys2Proof Sys2Proof.Machine

/-- State.reset has every value of the table of R1001 (R1001). A step that takes a waiting power_on() call with a firmware image
loaded answers an initialised state with the same values, memory, the collaborators and the parameters unchanged (R1003); with
none loaded the call is not performed, and on a core that is not initialised run is refused (R1010). The loader places an image of
1984 bytes, and only it, at PIF ROM; another leaves the core uninitialised (R1010). Of a core already powered on R1010 says
neither: that a further correct image changes only PIF ROM and firmwareLoaded and leaves the core powered on (log entry 39), and
that a bad image uninitialises also a core that ran before (log entry 34), is the model's choice. That a call waits in
State.inputs for a step of its own, and that the loader, the pads, the inputs and the outputs outlive the reset, is the model's
choice (log entries 12, 23, 24, 34). (R1001, R1003, R1010.) -/
def Obligations.ColdReset : Prop :=
  ResetValues 0x00400004#32 0#64 State.reset
    ∧ ∀ (s : State) (rest : List HostCall) (image : List Byte), s.advancing = false →
      (s.inputs = .powerOn :: rest → s.firmwareLoaded = true →
          ∃ t, step s = .next t ∧ ResetValues 0x00400004#32 0#64 t ∧ t.initialised = true ∧ ResetFrame { s with inputs := rest } t)
        ∧ (s.inputs = .powerOn :: rest → s.firmwareLoaded = false → step s = .next { s with inputs := rest })
        ∧ (s.inputs = [] → s.initialised = false → step s = .refused .uninitialised)
        ∧ (s.inputs = .loadFirmware image :: rest → image.length = 1984 → s.mem.wf = true →
            ∃ t, step s = .next t ∧ t.firmwareLoaded = true ∧ t = { s with inputs := rest, mem := t.mem, firmwareLoaded := true }
              ∧ ∀ a : Nat, t.mem.read a =
                  if 0x1FC00000 ≤ a ∧ a < 0x1FC007C0 then image.getD (a - 0x1FC00000) 0#8 else s.mem.read a)
        ∧ (s.inputs = .loadFirmware image :: rest → image.length ≠ 1984 →
            ∃ t, step s = .next t ∧ t.firmwareLoaded = false ∧ t.initialised = false ∧ t.mem = s.mem)

/-- A step that takes a waiting reset() call answers a state with the values of R1001 except Status = 0x0050_0004 and ErrorEPC =
next_pc of R509 as it was before the call: the branch target while a branch is pending, else pc; memory, the collaborators and the
parameters are unchanged (R1003). That a call waits in State.inputs for a step of its own, and that the loader, the pads, the
inputs and the outputs outlive the reset, is the model's choice (log entries 12, 23, 24, 34). (R1002, R1003, R509.) -/
def Obligations.SoftReset : Prop :=
  ∀ (s : State) (rest : List HostCall), s.advancing = false → s.inputs = .softReset :: rest →
    ∃ t, step s = .next t ∧ ResetFrame { s with inputs := rest } t
      ∧ ResetValues 0x00500004#32 (if s.branchState = .performPending then s.branchTarget else s.pc) t

/-- State.reset satisfies State.Inv (canonical memory, x[0] = 0, the fixed bits of coprocessor 0 and FCSR, normalised TLB entries)
and State.SchedInv (a sorted event list with one event of a kind, its times in the future, and periods and durations that a time
holds). (R1001, R113, R138, R140, R900.) -/
def Obligations.ResetInvariants : Prop :=
  State.Inv State.reset ∧ State.SchedInv State.reset

/-- From every state in which memory has its canonical form, x[0] holds 0, the fixed bits of coprocessor 0 and of FCSR read as the
spec says and every TLB entry is normalised, a step that answers a next state answers one with the same properties: calls of the
host, interrupts, every instruction, device callbacks and resets included. (R101, R113, R124, R125, R138, R140, R634.) -/
def Obligations.StepKeepsInv : Prop :=
  ∀ s t : State, s.Inv → Sys2Proof.Machine.step s = .next t → t.Inv

/-- From every state whose event list is sorted by time and insertion order and holds one event of a kind at most, whose times are
in the future between advances (a collaborator's may be due, R901) and at most 2^62 cycles late within one, and whose audio
durations and halfline period are positive and at most 2^62, a step that answers a next state answers one with the same
properties, as long as the cycles of a run() stay below 2^62. Those bounds keep signed 64-bit times from wrapping around and are
the model's (log entry 15). (R900, R901, R902, R990.) -/
def Obligations.StepKeepsSchedInv : Prop :=
  ∀ s t : State, s.SchedInv → s.NoTimeWrap → Sys2Proof.Machine.step s = .next t → t.SchedInv

/-- For each of the 212 instructions of the opcode table, with every operand at every value its encoding admits, decode of encode
is the instruction itself: no bit of an encoding is dropped. (R301, R302, R303, R304, R305, R306, R307.) -/
def Obligations.DecodeEncode : Prop :=
  ∀ i : Instr, i.wf = true → decode (encode i) = .ok i

/-- Sixteen words, each written field by field from R301 to R306 and the opcode maps, one or more from each family, decode to the
instructions they encode. (R301, R302, R303, R304, R305, R306, R320, R321, R322, R323, R324, R325.) -/
def Obligations.DecodeWords : Prop :=
  decode (0b000000#6 ++ 1#5 ++ 2#5 ++ 3#5 ++ 0#5 ++ 0b100000#6) = .ok (.add 3 1 2)
    ∧ decode (0b001001#6 ++ 29#5 ++ 29#5 ++ 0xFFE0#16) = .ok (.addiu 29 29 0xFFE0#16)
    ∧ decode (0b000000#6 ++ 0#5 ++ 4#5 ++ 5#5 ++ 31#5 ++ 0b111110#6) = .ok (.dsrl32 5 4 31)
    ∧ decode (0b000000#6 ++ 6#5 ++ 7#5 ++ 0#5 ++ 0#5 ++ 0b011010#6) = .ok (.div 6 7)
    ∧ decode (0b000011#6 ++ 0x0000100#26) = .ok (.jal 0x0000100#26)
    ∧ decode (0b000001#6 ++ 9#5 ++ 0b10011#5 ++ 0x8000#16) = .ok (.bgezall 9 0x8000#16)
    ∧ decode (0b100011#6 ++ 4#5 ++ 2#5 ++ 0x0010#16) = .ok (.lw 2 4 0x0010#16)
    ∧ decode (0b101110#6 ++ 4#5 ++ 2#5 ++ 0x0001#16) = .ok (.swr 2 4 0x0001#16)
    ∧ decode (0b101111#6 ++ 4#5 ++ 0b10000#5 ++ 0x0000#16) = .ok (.cache 0b10000#5 4 0x0000#16)
    ∧ decode (0b000000#6 ++ 0x12345#20 ++ 0b001100#6) = .ok (.syscall 0x12345#20)
    ∧ decode (0b010000#6 ++ 0b00100#5 ++ 2#5 ++ 12#5 ++ 0#11) = .ok (.mtc0 2 12)
    ∧ decode (0b010000#6 ++ 0b1#1 ++ 0#19 ++ 0b011000#6) = .ok .eret
    ∧ decode (0b010001#6 ++ 0b10000#5 ++ 4#5 ++ 2#5 ++ 6#5 ++ 0b000000#6) = .ok (.addS 6 2 4)
    ∧ decode (0b010001#6 ++ 0b10001#5 ++ 0#5 ++ 2#5 ++ 4#5 ++ 0b100000#6) = .ok (.cvtSD 4 2)
    ∧ decode (0b010001#6 ++ 0b01000#5 ++ 0b00011#5 ++ 0x0004#16) = .ok (.bc1tl 0x0004#16)
    ∧ decode (0b110010#6 ++ 1#5 ++ 2#5 ++ 0x0003#16) = .ok (.lwc2 2 1 0x0003#16)

/-- A decoded instruction is well formed. Decoding rejects a word exactly when R331 lists its major opcode, SPECIAL funct, REGIMM
rt, COP0 or COP1 field, or R325 marks its COP1 fmt and funct as unimplemented. Executing a rejected word raises RI; a COP0 or COP1
encoding first checks the coprocessor and raises CpU where it is not usable; an unimplemented COP1 operation sets FCSR.Cause to E
and raises FPE. (R331, R650, R323, R324, R325, R802.) -/
def Obligations.ReservedEncodings : Prop :=
  (∀ (w : Word) (i : Instr), decode w = .ok i → i.wf = true)
    ∧ (∀ w : Word,
        (decode w = .error .reservedMajor ↔ (bitField w 26 6).toNat ∈ [19, 28, 29, 30, 31, 51, 59])
          ∧ (decode w = .error .reservedSpecial ↔ bitField w 26 6 = 0#6
              ∧ (bitField w 0 6).toNat ∈ [1, 5, 10, 11, 14, 21, 40, 41, 53, 55, 57, 61])
          ∧ (decode w = .error .reservedRegimm ↔ bitField w 26 6 = 1#6
              ∧ (bitField w 16 5).toNat ∈ [4, 5, 6, 7, 13, 15, 20, 21, 22, 23, 24, 25, 26, 27, 28, 29, 30, 31])
          ∧ (decode w = .error .reservedCop0 ↔ bitField w 26 6 = 16#6
              ∧ if bit w 25 = true then (bitField w 0 6).toNat ∉ [1, 2, 6, 8, 24]
                else (bitField w 21 5).toNat ∉ [0, 1, 4, 5])
          ∧ (decode w = .error .reservedCop1 ↔ bitField w 26 6 = 17#6
              ∧ (bitField w 21 5).toNat ∉ [0, 1, 2, 4, 5, 6, 8, 16, 17, 20, 21])
          ∧ (decode w = .error .unimplementedCop1 ↔ bitField w 26 6 = 17#6
              ∧ (((bitField w 21 5).toNat = 16 ∧ ((16 ≤ (bitField w 0 6).toNat ∧ (bitField w 0 6).toNat < 48
                    ∧ (bitField w 0 6).toNat ∉ [33, 36, 37])))
                ∨ ((bitField w 21 5).toNat = 17 ∧ ((16 ≤ (bitField w 0 6).toNat ∧ (bitField w 0 6).toNat < 48
                    ∧ (bitField w 0 6).toNat ∉ [32, 36, 37])))
                ∨ ((bitField w 21 5).toNat ∈ [20, 21] ∧ (bitField w 0 6).toNat ∉ [32, 33]))))
    ∧ ∀ (w : Word) (s : State), s.excLatch = false →
        (∀ r, decode w = .error r → r = .reservedMajor ∨ r = .reservedSpecial ∨ r = .reservedRegimm →
          ∃ t, executeWord w s = .next t ∧ ExceptionTaken .ri s t)
        ∧ (decode w = .error .reservedCop0 →
          (s.cop0Usable → ∃ t, executeWord w s = .next t ∧ ExceptionTaken .ri s t)
            ∧ (s.cop0Denied → ∃ t, executeWord w s = .next t ∧ ExceptionTaken (.cpu 0#2) s t))
        ∧ (decode w = .error .reservedCop1 →
          (s.cu 1 = true → ∃ t, executeWord w s = .next t ∧ ExceptionTaken .ri s t)
            ∧ (s.cu 1 = false → ∃ t, executeWord w s = .next t ∧ ExceptionTaken (.cpu 1#2) s t))
        ∧ (decode w = .error .unimplementedCop1 →
          (s.cu 1 = true → ∃ t c, executeWord w s = .next t ∧ FcsrTrapped 0x20#6 s.fcsr c ∧ ExceptionTaken .fpe (s.setFcsr c) t)
            ∧ (s.cu 1 = false → ∃ t, executeWord w s = .next t ∧ ExceptionTaken (.cpu 1#2) s t))

/-- In a state that runs, with no interrupt pending at the boundary, if the fetch at the program counter (a pending branch
applied, R501) answers the word w and w decodes to i, the step is exec of i on the state after the fetch, then the extra cycles of
w if it raised nothing, then the end of the step (cycles charged, Random updated) and of the run-loop iteration. Where the budget
is reached, the step ends the iteration and executes nothing. The split of the run loop into steps is the model's (log entry 13).
(R500, R503, R504, R907.) -/
def Obligations.StepRunsDecoded : Prop :=
  (∀ (s u : State) (w : Word) (i : Instr), s.Running → s.atBoundary.interruptPending = false →
    fetchWord s.atBoundary.pc s.atBoundary = .ok w u → decode w = .ok i →
      Sys2Proof.Machine.step s =
        match Sys2Proof.Machine.exec i u with
        | .next t => .next (afterStep (t.chargeExtra w).endStep)
        | .fault f => .fault f
        | .refused q => .refused q)
    ∧ ∀ s : State, s.advancing = false → s.inputs = [] → s.initialised = true → (s.stop = false ∨ s.runCycles ≠ 0#64) →
      s.cpuBudget ≤ s.runCycles.toNat →
        ∃ t, Sys2Proof.Machine.step s = .next t ∧ t.pc = s.pc ∧ t.branchState = s.branchState ∧ SameGpr s t ∧ SameHiLo s t
          ∧ SameFpu s t ∧ t.tlb = s.tlb ∧ t.count33 = s.count33 ∧ t.runCycles = 0#64
          ∧ t.cpuCarry = s.runCycles.toNat - s.cpuBudget

/-- For an aligned pc whose translation answers an address with no bus error, in RDRAM, PIF ROM, PIF RAM or unclaimed space, or
uncached in a device's registers (the answers of the cartridge and the collaborators are free): uncached, the word is the four
bytes seen there, most significant first, and only the cycles change; cached and hitting, the four bytes of the line; cached and
missing, the line takes the 32 bytes of memory (of OPEN_BUS in unclaimed space, one byte each, log entry 22) with the tag of the
address, no other line changes, and the word is read from it. A cached fetch from a window is refused, hit or miss. (R203, R230,
R242, R246, R247, R503, R858.) -/
def Obligations.FetchReadsWord : Prop :=
  ∀ (s : State) (pa : Word) (cacheable : Bool), s.accessible → s.pc.toNat % 4 = 0 →
    Machine.translate s.pc .fetch s = .ok (pa, cacheable) s → busError s.cfg pa .fetch = false →
    (cacheable = true → ((∃ d, s.region pa = .device d) ∨ ∃ k, s.region pa = .collab k) → fetchWord s.pc s = .refuse .cachedWindow)
      ∧ (s.reaches .fetch pa 4 cacheable →
        let filled := fun a : Nat => if s.region pa = .openBus then s.openByte a else s.mem.read a
        let b := fun k : Nat =>
          if cacheable = false then s.seenByte false pa 4 k
          else if (s.iLine pa).hits pa = true then (s.iLine pa).data.toList.getD (pa.toNat % 32 + k) 0#8
          else filled (pa.toNat + k)
        ∃ t, fetchWord s.pc s = .ok (b 0 ++ b 1 ++ b 2 ++ b 3) t
          ∧ t = { s with icache := t.icache, stepCycles := t.stepCycles }
          ∧ (cacheable = false → t.icache = s.icache ∧ t.stepCycles = s.stepCycles + s.cfg.costs.uncached4)
          ∧ (cacheable = true → (s.iLine pa).hits pa = true →
              t.icache = s.icache ∧ t.stepCycles = s.stepCycles + s.cfg.costs.icacheHit)
          ∧ (cacheable = true → (s.iLine pa).hits pa = false →
              t.stepCycles = s.stepCycles + s.cfg.costs.icacheMiss
                ∧ (∀ i : Fin 512, i ≠ iIndex pa → t.icache[i.val] = s.icache[i.val])
                ∧ (t.iLine pa).valid = true ∧ (t.iLine pa).tag = cacheTag pa
                ∧ ∀ i : Nat, i < 32 → (t.iLine pa).data.toList.getD i 0#8 = filled ((iLineBase pa).toNat + i)))

/-- The interrupt condition holds exactly when Status.IE = 1, EXL = ERL = 0 and some Cause.IP bit n with Status.IM n set is
raised: the software bits 0 and 1, the aggregator line (a set MI_INTR bit whose MI_MASK bit is set), the external lines 3 to 6,
the timer latch. (R845, R128, R921.) -/
def Obligations.InterruptCondition : Prop :=
  ∀ s : State, s.interruptPending = true ↔
    bit s.cop0.status 0 = true ∧ bit s.cop0.status 1 = false ∧ bit s.cop0.status 2 = false
      ∧ ((bit s.cop0.status 8 = true ∧ bit s.cop0.cause 8 = true) ∨ (bit s.cop0.status 9 = true ∧ bit s.cop0.cause 9 = true)
        ∨ (bit s.cop0.status 10 = true ∧ ∃ k : Fin 6, bit s.mi.intr k.val = true ∧ bit s.mi.mask k.val = true)
        ∨ (∃ k : Fin 4, bit s.cop0.status (11 + k.val) = true ∧ bit s.extIp k.val = true)
        ∨ (bit s.cop0.status 15 = true ∧ bit s.cop0.cause 15 = true))

/-- In a state that runs, if the interrupt condition holds after a pending branch is applied, the step takes the interrupt there
(EPC and BD of R824, no instruction executed), charges one cycle, and ends with what the run loop does after it (R907), which the
model puts into the same step (log entry 13). (R502, R501, R824, R1041, R907.) -/
def Obligations.InterruptAtBoundary : Prop :=
  ∀ s : State, s.Running → s.atBoundary.interruptPending = true →
    ∃ u, ExceptionTaken .int s.atBoundary u ∧ u.stepCycles = 1
      ∧ Sys2Proof.Machine.step s = .next (afterStep u.endStep)
      ∧ s.atBoundary.pc = (if s.branchState = .performPending then s.branchTarget else s.pc)

/-- With branch_state = PerformPending a CPU step is the CPU step of the same state with pc = branch_target and branch_state =
NoBranch, and so is the machine's step when no advance is under way, no call waits and the budget is not reached. (R501.) -/
def Obligations.PendingBranch : Prop :=
  ∀ s : State, s.branchState = .performPending →
    cpuStep s = cpuStep { s with pc := s.branchTarget, branchState := .noBranch }
      ∧ (s.advancing = false → s.inputs = [] → s.runCycles.toNat < s.cpuBudget →
        Sys2Proof.Machine.step s = Sys2Proof.Machine.step { s with pc := s.branchTarget, branchState := .noBranch })

/-- In a state that runs and may access, with no interrupt pending, pc[1:0] not 0 makes the step take AdEL before translation,
charging one cycle. The address recorded, that of R212 (pc, or its sign-extended low word in a 32-bit strategy), is the model's
reading of R207, R212 and R811 (log entry 18); that the run loop's part follows in the same step (R907) is its choice (log entry
13). (R207, R212, R811, R907.) -/
def Obligations.MisalignedFetch : Prop :=
  ∀ s : State, s.Running → s.accessible → s.atBoundary.interruptPending = false → s.atBoundary.pc.toNat % 4 ≠ 0 →
    ∃ u, ExceptionTaken (.adel (if s.is64 = true then s.atBoundary.pc else sext32 (low32 s.atBoundary.pc))) s.atBoundary u
      ∧ u.stepCycles = 1 ∧ Sys2Proof.Machine.step s = .next (afterStep u.endStep)

/-- If a CPU step answers a next state, its body answered a state u whose accrued cycles are at least 1 and whose run_cycles are
unchanged; the step adds the accrued cycles to run_cycles and to count33, leaves none accrued, and sets Random to 31 if it equals
Wired and else to (Random - 1) mod 32. An instruction that raised nothing accrues EXTRA_CYCLES of its word, by default the table
of R1040, read here off the word's fields. (R1041, R1040, R115, R500, R823.) -/
def Obligations.StepCharges : Prop :=
  (∀ s t : State, cpuStep s = .next t →
    ∃ u, stepBody s.atBoundary = .next u ∧ 1 ≤ u.stepCycles ∧ u.runCycles = s.runCycles
      ∧ t.runCycles = s.runCycles + BitVec.ofNat 64 u.stepCycles ∧ t.count33 = u.count33 + BitVec.ofNat 33 u.stepCycles
      ∧ t.stepCycles = 0 ∧ t.pc = u.pc ∧ t.branchState = u.branchState
      ∧ (u.cop0.random = u.cop0.wired → t.cop0.random = 31#32)
      ∧ (u.cop0.random ≠ u.cop0.wired → t.cop0.random.toNat = (u.cop0.random.toNat + 31) % 32))
    ∧ (∀ (w : Word) (i : Instr) (s t : State), decode w = .ok i → exec i s = .next t →
        (t.excLatch = true → executeWord w s = .next t)
          ∧ (t.excLatch = false → executeWord w s = .next { t with stepCycles := t.stepCycles + extraCycles t.cfg w }))
    ∧ ∀ (c : Config) (w : Word) (i : Instr), c.extra = [] → decode w = .ok i →
      let major := (bitField w 26 6).toNat
      let fmt := (bitField w 21 5).toNat
      let funct := (bitField w 0 6).toNat
      extraCycles c w =
        if major = 0 then
          (if funct ∈ [24, 25] then 4 else if funct ∈ [28, 29] then 7 else if funct ∈ [26, 27] then 36
            else if funct ∈ [30, 31] then 68 else 0)
        else if major = 17 ∧ 16 ≤ fmt then
          (if funct = 2 then (if fmt = 16 then 4 else 7) else if funct ∈ [3, 4] then (if fmt = 16 then 28 else 57)
            else if funct ∈ [5, 6, 7] then 0 else 2)
        else 0

/-- With the latch set nothing changes. With it clear: EXL = 1 and the mode is Kernel, no branch is pending, pc is one of the six
vectors; with EXL = 1 before, EPC and BD keep their values and the vector is the general one; with EXL = 0 they are the table of
R824; no general register, HI, LO or memory byte changes. (R820, R822, R824, R825, R840, R856.) -/
def Obligations.TrapEntry : Prop :=
  ∀ (e : Exc) (s : State),
    (s.excLatch = true → takeException e s = s)
      ∧ (s.excLatch = false →
        let t := takeException e s
        bit t.cop0.status 1 = true ∧ t.mode = .kernel ∧ t.branchState = .noBranch
          ∧ t.pc ∈ [0xFFFFFFFF80000000#64, 0xFFFFFFFF80000080#64, 0xFFFFFFFF80000180#64,
              0xFFFFFFFFBFC00200#64, 0xFFFFFFFFBFC00280#64, 0xFFFFFFFFBFC00380#64]
          ∧ (s.exl = true → t.cop0.epc = s.cop0.epc ∧ bit t.cop0.cause 31 = bit s.cop0.cause 31
              ∧ t.pc = (if s.bev = true then 0xFFFFFFFFBFC00380#64 else 0xFFFFFFFF80000180#64))
          ∧ (s.exl = false → (s.branchState = .delaySlotTaken ∨ s.branchState = .delaySlotNotTaken) →
              t.cop0.epc = s.pc - 4#64 ∧ bit t.cop0.cause 31 = true)
          ∧ (s.exl = false → s.branchState = .noBranch → t.cop0.epc = s.pc ∧ bit t.cop0.cause 31 = false)
          ∧ SameGpr s t ∧ SameHiLo s t ∧ SameMemory s t)

/-- With coprocessor 0 usable, ERET with ERL = 1 sets pc to ErrorEPC and clears ERL, with ERL = 0 sets pc to EPC and clears EXL;
it clears LLbit and the branch state; every other register, the TLB, the FPU, memory and the devices are unchanged. Not usable, it
raises CpU(0). (R640, R855.) -/
def Obligations.Eret : Prop :=
  ∀ s : State, s.excLatch = false →
    (s.cop0Usable → Answers .eret s fun t =>
      (s.erl = true → t.pc = s.cop0.errorEpc ∧ t.cop0 = { s.cop0 with status := s.cop0.status &&& 0xFFFFFFFB#32 })
        ∧ (s.erl = false → t.pc = s.cop0.epc ∧ t.cop0 = { s.cop0 with status := s.cop0.status &&& 0xFFFFFFFD#32 })
        ∧ t.llBit = false ∧ t.branchState = .noBranch ∧ t.branchTarget = s.branchTarget ∧ t.tlb = s.tlb
        ∧ t.excLatch = s.excLatch ∧ t.stepCycles = s.stepCycles
        ∧ SameGpr s t ∧ SameHiLo s t ∧ SameFpu s t ∧ SameMemory s t ∧ SamePlatform s t)
      ∧ (s.cop0Denied → Raises .eret (.cpu 0#2) s)

/-- SYSCALL takes Sys (code 8) and BREAK takes Bp (code 9), whatever their code fields, with the saved registers, status, vector
and frame of R820 and R822. (R600, R601.) -/
def Obligations.SyscallBreak : Prop :=
  ∀ (code : BitVec 20) (s : State), s.excLatch = false → Raises (.syscall code) .sys s ∧ Raises (.brk code) .bp s

/-- Each of TGE, TGEU, TLT, TLTU, TEQ, TNE, TGEI, TGEIU, TLTI, TLTIU, TEQI, TNEI takes Tr when its comparison of 64 bits holds
(immediates sign-extended, the unsigned forms comparing that as unsigned), and otherwise changes only the program counter. (R602,
R603, R604, R605, R606, R607, R608, R609, R610, R611, R612, R613.) -/
def Obligations.Traps : Prop :=
  ∀ (rs rt : RegIdx) (code : BitVec 10) (imm : Half) (s : State), s.excLatch = false →
    TrapsIf (.tge rs rt code) ((s.x rt).toInt ≤ (s.x rs).toInt) s
      ∧ TrapsIf (.tgeu rs rt code) ((s.x rt).toNat ≤ (s.x rs).toNat) s
      ∧ TrapsIf (.tlt rs rt code) ((s.x rs).toInt < (s.x rt).toInt) s
      ∧ TrapsIf (.tltu rs rt code) ((s.x rs).toNat < (s.x rt).toNat) s
      ∧ TrapsIf (.teq rs rt code) (s.x rs = s.x rt) s
      ∧ TrapsIf (.tne rs rt code) (s.x rs ≠ s.x rt) s
      ∧ TrapsIf (.tgei rs imm) (imm.toInt ≤ (s.x rs).toInt) s
      ∧ TrapsIf (.tgeiu rs imm) ((BitVec.ofInt 64 imm.toInt).toNat ≤ (s.x rs).toNat) s
      ∧ TrapsIf (.tlti rs imm) ((s.x rs).toInt < imm.toInt) s
      ∧ TrapsIf (.tltiu rs imm) ((s.x rs).toNat < (BitVec.ofInt 64 imm.toInt).toNat) s
      ∧ TrapsIf (.teqi rs imm) ((s.x rs).toInt = imm.toInt) s
      ∧ TrapsIf (.tnei rs imm) ((s.x rs).toInt ≠ imm.toInt) s

/-- In Supervisor or User mode with Status.CU0 = 0, MFC0, DMFC0, MTC0, DMTC0, TLBR, TLBWI, TLBWR, TLBP, ERET and CACHE take CpU
with CE = 0 and have no other effect. (R332.) -/
def Obligations.Cop0Privilege : Prop :=
  ∀ (i : Instr) (s : State), s.excLatch = false → s.cop0Denied → Instr.privileged i = true → Raises i (.cpu 0#2) s

/-- Each of the 32 instructions of R330 takes RI, with no other effect, in User mode with Status.UX = 0 and in Supervisor mode
with Status.SX = 0; for DMFC0, DMTC0, DMFC1 and DMTC1 where their coprocessor is usable, which is checked first. (R330, R803,
R841.) -/
def Obligations.Gate64 : Prop :=
  ∀ (i : Instr) (s : State), s.excLatch = false → Instr.gated64 i = true → s.ops64Denied →
    (Instr.privileged i = true → s.cu 0 = true) → (Instr.isCop1 i = true → s.cu 1 = true) → Raises i .ri s

/-- COP2, LWC2, LDC2, SWC2 and SDC2 take CpU with CE = 2 when Status.CU2 = 0 and RI when it is 1; no memory access is made.
(R660.) -/
def Obligations.Cop2Absent : Prop :=
  ∀ (rt base : RegIdx) (offset : Half) (s : State), s.excLatch = false →
    ∀ i : Instr, i = .cop2 ∨ i = .lwc2 rt base offset ∨ i = .ldc2 rt base offset ∨ i = .swc2 rt base offset
        ∨ i = .sdc2 rt base offset →
      (s.cu 2 = false → Raises i (.cpu 2#2) s) ∧ (s.cu 2 = true → Raises i .ri s)

/-- For every operand and state these complete with the destination (x[0] discards) holding: the sum or difference of the low
words modulo 2^32, sign-extended; the 64-bit AND, OR, XOR or NOR, immediates zero-extended; for LUI the immediate times 2^16,
sign-extended from 32 bits. Every other register, HI, LO, coprocessor 0, the FPU, memory and the devices are unchanged; the pc and
branch state advance as R510 says. (R402, R404, R406, R413, R414, R415, R416, R417, R418, R419, R420.) -/
def Obligations.AddAndLogic : Prop :=
  ∀ (rd rs rt : RegIdx) (imm : Half) (s : State),
    Answers (.addu rd rs rt) s (WroteGpr rd (sext32 (BitVec.ofInt 32 ((low32 (s.x rs)).toInt + (low32 (s.x rt)).toInt))) s)
      ∧ Answers (.subu rd rs rt) s (WroteGpr rd (sext32 (BitVec.ofInt 32 ((low32 (s.x rs)).toInt - (low32 (s.x rt)).toInt))) s)
      ∧ Answers (.addiu rd rs imm) s (WroteGpr rd (sext32 (BitVec.ofInt 32 ((low32 (s.x rs)).toInt + imm.toInt))) s)
      ∧ Answers (.and rd rs rt) s (WroteGpr rd (s.x rs &&& s.x rt) s)
      ∧ Answers (.or rd rs rt) s (WroteGpr rd (s.x rs ||| s.x rt) s)
      ∧ Answers (.xor rd rs rt) s (WroteGpr rd (s.x rs ^^^ s.x rt) s)
      ∧ Answers (.nor rd rs rt) s (WroteGpr rd (~~~(s.x rs) &&& ~~~(s.x rt)) s)
      ∧ Answers (.andi rd rs imm) s (WroteGpr rd (s.x rs &&& BitVec.ofNat 64 imm.toNat) s)
      ∧ Answers (.ori rd rs imm) s (WroteGpr rd (s.x rs ||| BitVec.ofNat 64 imm.toNat) s)
      ∧ Answers (.xori rd rs imm) s (WroteGpr rd (s.x rs ^^^ BitVec.ofNat 64 imm.toNat) s)
      ∧ Answers (.lui rd imm) s (WroteGpr rd (BitVec.ofInt 64 (imm.toInt * 65536)) s)

/-- SLT, SLTI compare 64 bits signed and SLTU, SLTIU unsigned, the immediate sign-extended first, and write 1 or 0. SLL and SLLV
write the low word times a power of two, SRL and SRLV the low word divided by it, sign-extended from bit 31; SRA and SRAV write
the low word of the 64-bit source divided by it, rounding down, sign-extended (D84). Variable shifts use the low 5 bits of x[rs].
Nothing else changes. (R421, R422, R423, R424, R425, R426, R427, R428, R429, R430.) -/
def Obligations.SetAndShift : Prop :=
  ∀ (rd rs rt : RegIdx) (sa : Nat) (imm : Half) (s : State),
    Answers (.slt rd rs rt) s (WroteGpr rd (if (s.x rs).toInt < (s.x rt).toInt then 1#64 else 0#64) s)
      ∧ Answers (.sltu rd rs rt) s (WroteGpr rd (if (s.x rs).toNat < (s.x rt).toNat then 1#64 else 0#64) s)
      ∧ Answers (.slti rd rs imm) s (WroteGpr rd (if (s.x rs).toInt < imm.toInt then 1#64 else 0#64) s)
      ∧ Answers (.sltiu rd rs imm) s (WroteGpr rd (if (s.x rs).toNat < (BitVec.ofInt 64 imm.toInt).toNat then 1#64 else 0#64) s)
      ∧ Answers (.sll rd rt sa) s (WroteGpr rd (sext32 (BitVec.ofNat 32 ((s.x rt).toNat % 2 ^ 32 * 2 ^ sa))) s)
      ∧ Answers (.srl rd rt sa) s (WroteGpr rd (sext32 (BitVec.ofNat 32 ((s.x rt).toNat % 2 ^ 32 / 2 ^ sa))) s)
      ∧ Answers (.sra rd rt sa) s (WroteGpr rd (sext32 (BitVec.ofInt 32 ((s.x rt).toInt / 2 ^ sa))) s)
      ∧ Answers (.sllv rd rt rs) s (WroteGpr rd (sext32 (BitVec.ofNat 32 ((s.x rt).toNat % 2 ^ 32 * 2 ^ ((s.x rs).toNat % 32)))) s)
      ∧ Answers (.srlv rd rt rs) s (WroteGpr rd (sext32 (BitVec.ofNat 32 ((s.x rt).toNat % 2 ^ 32 / 2 ^ ((s.x rs).toNat % 32)))) s)
      ∧ Answers (.srav rd rt rs) s (WroteGpr rd (sext32 (BitVec.ofInt 32 ((s.x rt).toInt / 2 ^ ((s.x rs).toNat % 32)))) s)

/-- DADDU, DSUBU, DADDIU write the sum or difference modulo 2^64; DSLL, DSLL32, DSLLV the source times a power of two modulo 2^64;
DSRL, DSRL32, DSRLV the source divided by it; DSRA, DSRA32, DSRAV the signed source divided by it, rounding down. Variable shifts
use the low 6 bits of x[rs]; the 32 forms add 32. Where R803 denies 64-bit operations each raises RI. (R408, R410, R412, R431,
R432, R433, R434, R435, R436, R437, R438, R439.) -/
def Obligations.DoublewordOps : Prop :=
  ∀ (rd rs rt : RegIdx) (sa : Nat) (imm : Half) (s : State), s.excLatch = false →
    Gated64 (.daddu rd rs rt) s (WroteGpr rd (BitVec.ofInt 64 ((s.x rs).toInt + (s.x rt).toInt)) s)
      ∧ Gated64 (.dsubu rd rs rt) s (WroteGpr rd (BitVec.ofInt 64 ((s.x rs).toInt - (s.x rt).toInt)) s)
      ∧ Gated64 (.daddiu rd rs imm) s (WroteGpr rd (BitVec.ofInt 64 ((s.x rs).toInt + imm.toInt)) s)
      ∧ Gated64 (.dsll rd rt sa) s (WroteGpr rd (BitVec.ofNat 64 ((s.x rt).toNat * 2 ^ sa)) s)
      ∧ Gated64 (.dsrl rd rt sa) s (WroteGpr rd (BitVec.ofNat 64 ((s.x rt).toNat / 2 ^ sa)) s)
      ∧ Gated64 (.dsra rd rt sa) s (WroteGpr rd (BitVec.ofInt 64 ((s.x rt).toInt / 2 ^ sa)) s)
      ∧ Gated64 (.dsll32 rd rt sa) s (WroteGpr rd (BitVec.ofNat 64 ((s.x rt).toNat * 2 ^ (sa + 32))) s)
      ∧ Gated64 (.dsrl32 rd rt sa) s (WroteGpr rd (BitVec.ofNat 64 ((s.x rt).toNat / 2 ^ (sa + 32))) s)
      ∧ Gated64 (.dsra32 rd rt sa) s (WroteGpr rd (BitVec.ofInt 64 ((s.x rt).toInt / 2 ^ (sa + 32))) s)
      ∧ Gated64 (.dsllv rd rt rs) s (WroteGpr rd (BitVec.ofNat 64 ((s.x rt).toNat * 2 ^ ((s.x rs).toNat % 64))) s)
      ∧ Gated64 (.dsrlv rd rt rs) s (WroteGpr rd (BitVec.ofNat 64 ((s.x rt).toNat / 2 ^ ((s.x rs).toNat % 64))) s)
      ∧ Gated64 (.dsrav rd rt rs) s (WroteGpr rd (BitVec.ofInt 64 ((s.x rt).toInt / 2 ^ ((s.x rs).toNat % 64))) s)

/-- With the exact signed sum or difference (of the low words, or of 64 bits), inside the range of the width the destination takes
it; outside, Ov is taken and no register is written, also for destination 0. The doubleword forms raise RI first where 64-bit
operations are denied. (R401, R403, R405, R407, R409, R411.) -/
def Obligations.TrappingAdds : Prop :=
  ∀ (rd rs rt : RegIdx) (imm : Half) (s : State), s.excLatch = false →
    AddsOrOverflows (.add rd rs rt) 32 rd ((low32 (s.x rs)).toInt + (low32 (s.x rt)).toInt) s
      ∧ AddsOrOverflows (.sub rd rs rt) 32 rd ((low32 (s.x rs)).toInt - (low32 (s.x rt)).toInt) s
      ∧ AddsOrOverflows (.addi rd rs imm) 32 rd ((low32 (s.x rs)).toInt + imm.toInt) s
      ∧ (s.ops64 → AddsOrOverflows (.dadd rd rs rt) 64 rd ((s.x rs).toInt + (s.x rt).toInt) s)
      ∧ (s.ops64 → AddsOrOverflows (.dsub rd rs rt) 64 rd ((s.x rs).toInt - (s.x rt).toInt) s)
      ∧ (s.ops64 → AddsOrOverflows (.daddi rd rs imm) 64 rd ((s.x rs).toInt + imm.toInt) s)
      ∧ (s.ops64Denied → Raises (.dadd rd rs rt) .ri s ∧ Raises (.dsub rd rs rt) .ri s ∧ Raises (.daddi rd rs imm) .ri s)

/-- MULT and MULTU write the two sign-extended words of the exact product, DMULT and DMULTU its two doublewords. The divides write
quotient to LO and remainder to HI, truncating toward zero, reduced to the width (and sign-extended for the word forms); by zero
LO is all ones, or 1 for a negative signed dividend, and HI the dividend (D85). MFHI, MFLO, MTHI, MTLO copy 64 bits. (R451, R452,
R453, R454, R455, R456, R457, R458, R459, R460, R461, R462.) -/
def Obligations.MultiplyDivide : Prop :=
  ∀ (rd rs rt : RegIdx) (s : State), s.excLatch = false →
    Answers (.mult rs rt) s (WroteHiLo (BitVec.ofInt 64 ((low32 (s.x rs)).toInt * (low32 (s.x rt)).toInt / 2 ^ 32)) (sext32 (BitVec.ofInt 32 ((low32 (s.x rs)).toInt * (low32 (s.x rt)).toInt))) s)
      ∧ Answers (.multu rs rt) s (WroteHiLo (sext32 (BitVec.ofNat 32 (((s.x rs).toNat % 2 ^ 32) * ((s.x rt).toNat % 2 ^ 32) / 2 ^ 32))) (sext32 (BitVec.ofNat 32 (((s.x rs).toNat % 2 ^ 32) * ((s.x rt).toNat % 2 ^ 32)))) s)
      ∧ ((low32 (s.x rt)).toInt ≠ 0 → Answers (.div rs rt) s (WroteHiLo (sext32 (BitVec.ofInt 32 ((low32 (s.x rs)).toInt.tmod (low32 (s.x rt)).toInt))) (sext32 (BitVec.ofInt 32 ((low32 (s.x rs)).toInt.tdiv (low32 (s.x rt)).toInt))) s))
      ∧ ((low32 (s.x rt)).toInt = 0 → Answers (.div rs rt) s (WroteHiLo (sext32 (low32 (s.x rs))) (if (low32 (s.x rs)).toInt < 0 then 1#64 else 0xFFFFFFFFFFFFFFFF#64) s))
      ∧ (((s.x rt).toNat % 2 ^ 32) ≠ 0 → Answers (.divu rs rt) s (WroteHiLo (sext32 (BitVec.ofNat 32 (((s.x rs).toNat % 2 ^ 32) % ((s.x rt).toNat % 2 ^ 32)))) (sext32 (BitVec.ofNat 32 (((s.x rs).toNat % 2 ^ 32) / ((s.x rt).toNat % 2 ^ 32)))) s))
      ∧ (((s.x rt).toNat % 2 ^ 32) = 0 → Answers (.divu rs rt) s (WroteHiLo (sext32 (low32 (s.x rs))) (0xFFFFFFFFFFFFFFFF#64) s))
      ∧ Gated64 (.dmult rs rt) s (WroteHiLo (BitVec.ofInt 64 ((s.x rs).toInt * (s.x rt).toInt / 2 ^ 64)) (BitVec.ofInt 64 ((s.x rs).toInt * (s.x rt).toInt)) s)
      ∧ Gated64 (.dmultu rs rt) s (WroteHiLo (BitVec.ofNat 64 ((s.x rs).toNat * (s.x rt).toNat / 2 ^ 64)) (BitVec.ofNat 64 ((s.x rs).toNat * (s.x rt).toNat)) s)
      ∧ ((s.x rt).toInt ≠ 0 → Gated64 (.ddiv rs rt) s (WroteHiLo (BitVec.ofInt 64 ((s.x rs).toInt.tmod (s.x rt).toInt)) (BitVec.ofInt 64 ((s.x rs).toInt.tdiv (s.x rt).toInt)) s))
      ∧ ((s.x rt).toInt = 0 → Gated64 (.ddiv rs rt) s (WroteHiLo (s.x rs) (if (s.x rs).toInt < 0 then 1#64 else 0xFFFFFFFFFFFFFFFF#64) s))
      ∧ ((s.x rt).toNat ≠ 0 → Gated64 (.ddivu rs rt) s (WroteHiLo (BitVec.ofNat 64 ((s.x rs).toNat % (s.x rt).toNat)) (BitVec.ofNat 64 ((s.x rs).toNat / (s.x rt).toNat)) s))
      ∧ ((s.x rt).toNat = 0 → Gated64 (.ddivu rs rt) s (WroteHiLo (s.x rs) (0xFFFFFFFFFFFFFFFF#64) s))
      ∧ Answers (.mfhi rd) s (WroteGpr rd (s.hi) s)
      ∧ Answers (.mflo rd) s (WroteGpr rd (s.lo) s)
      ∧ Answers (.mthi rs) s (WroteHiLo (s.x rs) (s.lo) s)
      ∧ Answers (.mtlo rs) s (WroteHiLo (s.hi) (s.x rs) s)

/-- Outside a delay slot pc advances to the delay slot and the target is registered: for J and JAL the 256 MiB region of pc + 4
with the index times 4, for JR and JALR x[rs] as read before the link is written. JAL links in x[31] and JALR in x[rd], with pc +
8. In a delay slot the link is still written and no branch is registered (D24). Nothing else changes. (R511, R512, R513, R514,
R505, R510.) -/
def Obligations.Jumps : Prop :=
  ∀ (rd rs : RegIdx) (index : BitVec 26) (s : State),
    Answers (.j index) s (fun t => BranchFrame 0 (0#64) s t ∧ (s.branchState = .noBranch → BranchRegistered true (BitVec.ofNat 64 ((s.pc + 4#64).toNat / 2 ^ 28 * 2 ^ 28 + index.toNat * 4)) s t) ∧ (s.branchState ≠ .noBranch → SlotKept s t))
      ∧ Answers (.jal index) s (fun t => BranchFrame 31 (s.pc + 8#64) s t ∧ (s.branchState = .noBranch → BranchRegistered true (BitVec.ofNat 64 ((s.pc + 4#64).toNat / 2 ^ 28 * 2 ^ 28 + index.toNat * 4)) s t) ∧ (s.branchState ≠ .noBranch → SlotKept s t))
      ∧ Answers (.jr rs) s (fun t => BranchFrame 0 (0#64) s t ∧ (s.branchState = .noBranch → BranchRegistered true (s.x rs) s t) ∧ (s.branchState ≠ .noBranch → SlotKept s t))
      ∧ Answers (.jalr rd rs) s (fun t => BranchFrame rd (s.pc + 8#64) s t ∧ (s.branchState = .noBranch → BranchRegistered true (s.x rs) s t) ∧ (s.branchState ≠ .noBranch → SlotKept s t))

/-- BEQ, BNE, BLEZ, BGTZ, BLTZ, BGEZ, BLTZAL, BGEZAL: outside a delay slot pc advances to the delay slot, and a taken branch
registers pc + 4 plus four times the signed offset, an untaken one DelaySlotNotTaken. BLTZAL and BGEZAL write pc + 8 to x[31]
whether or not taken, comparing the old x[31]. In a delay slot nothing is registered (D24). (R515, R516, R517, R518, R519, R520,
R521, R522, R505, R510.) -/
def Obligations.Branches : Prop :=
  ∀ (rs rt : RegIdx) (offset : Half) (s : State),
    Answers (.beq rs rt offset) s (fun t => BranchFrame 0 (0#64) s t ∧ (s.branchState = .noBranch → BranchRegistered (decide (s.x rs = s.x rt)) (s.pc + 4#64 + BitVec.ofInt 64 (offset.toInt * 4)) s t) ∧ (s.branchState ≠ .noBranch → SlotKept s t))
      ∧ Answers (.bne rs rt offset) s (fun t => BranchFrame 0 (0#64) s t ∧ (s.branchState = .noBranch → BranchRegistered (decide (s.x rs ≠ s.x rt)) (s.pc + 4#64 + BitVec.ofInt 64 (offset.toInt * 4)) s t) ∧ (s.branchState ≠ .noBranch → SlotKept s t))
      ∧ Answers (.blez rs offset) s (fun t => BranchFrame 0 (0#64) s t ∧ (s.branchState = .noBranch → BranchRegistered (decide ((s.x rs).toInt ≤ 0)) (s.pc + 4#64 + BitVec.ofInt 64 (offset.toInt * 4)) s t) ∧ (s.branchState ≠ .noBranch → SlotKept s t))
      ∧ Answers (.bgtz rs offset) s (fun t => BranchFrame 0 (0#64) s t ∧ (s.branchState = .noBranch → BranchRegistered (decide (0 < (s.x rs).toInt)) (s.pc + 4#64 + BitVec.ofInt 64 (offset.toInt * 4)) s t) ∧ (s.branchState ≠ .noBranch → SlotKept s t))
      ∧ Answers (.bltz rs offset) s (fun t => BranchFrame 0 (0#64) s t ∧ (s.branchState = .noBranch → BranchRegistered (decide ((s.x rs).toInt < 0)) (s.pc + 4#64 + BitVec.ofInt 64 (offset.toInt * 4)) s t) ∧ (s.branchState ≠ .noBranch → SlotKept s t))
      ∧ Answers (.bgez rs offset) s (fun t => BranchFrame 0 (0#64) s t ∧ (s.branchState = .noBranch → BranchRegistered (decide (0 ≤ (s.x rs).toInt)) (s.pc + 4#64 + BitVec.ofInt 64 (offset.toInt * 4)) s t) ∧ (s.branchState ≠ .noBranch → SlotKept s t))
      ∧ Answers (.bltzal rs offset) s (fun t => BranchFrame 31 (s.pc + 8#64) s t ∧ (s.branchState = .noBranch → BranchRegistered (decide ((s.x rs).toInt < 0)) (s.pc + 4#64 + BitVec.ofInt 64 (offset.toInt * 4)) s t) ∧ (s.branchState ≠ .noBranch → SlotKept s t))
      ∧ Answers (.bgezal rs offset) s (fun t => BranchFrame 31 (s.pc + 8#64) s t ∧ (s.branchState = .noBranch → BranchRegistered (decide (0 ≤ (s.x rs).toInt)) (s.pc + 4#64 + BitVec.ofInt 64 (offset.toInt * 4)) s t) ∧ (s.branchState ≠ .noBranch → SlotKept s t))

/-- BEQL, BNEL, BLEZL, BGTZL, BLTZL, BGEZL, BLTZALL, BGEZALL: taken outside a delay slot they register pc + 4 plus four times the
signed offset; not taken, the next pc is pc + 8 and no branch is pending. The linking forms write pc + 8 to x[31] either way. In a
delay slot nothing is registered (D24). (R523, R524, R525, R526, R527, R528, R529, R530, R506, R510.) -/
def Obligations.LikelyBranches : Prop :=
  ∀ (rs rt : RegIdx) (offset : Half) (s : State),
    Answers (.beql rs rt offset) s (fun t => BranchFrame 0 (0#64) s t ∧ (s.branchState = .noBranch → LikelyRegistered (decide (s.x rs = s.x rt)) (s.pc + 4#64 + BitVec.ofInt 64 (offset.toInt * 4)) s t) ∧ (s.branchState ≠ .noBranch → SlotKept s t))
      ∧ Answers (.bnel rs rt offset) s (fun t => BranchFrame 0 (0#64) s t ∧ (s.branchState = .noBranch → LikelyRegistered (decide (s.x rs ≠ s.x rt)) (s.pc + 4#64 + BitVec.ofInt 64 (offset.toInt * 4)) s t) ∧ (s.branchState ≠ .noBranch → SlotKept s t))
      ∧ Answers (.blezl rs offset) s (fun t => BranchFrame 0 (0#64) s t ∧ (s.branchState = .noBranch → LikelyRegistered (decide ((s.x rs).toInt ≤ 0)) (s.pc + 4#64 + BitVec.ofInt 64 (offset.toInt * 4)) s t) ∧ (s.branchState ≠ .noBranch → SlotKept s t))
      ∧ Answers (.bgtzl rs offset) s (fun t => BranchFrame 0 (0#64) s t ∧ (s.branchState = .noBranch → LikelyRegistered (decide (0 < (s.x rs).toInt)) (s.pc + 4#64 + BitVec.ofInt 64 (offset.toInt * 4)) s t) ∧ (s.branchState ≠ .noBranch → SlotKept s t))
      ∧ Answers (.bltzl rs offset) s (fun t => BranchFrame 0 (0#64) s t ∧ (s.branchState = .noBranch → LikelyRegistered (decide ((s.x rs).toInt < 0)) (s.pc + 4#64 + BitVec.ofInt 64 (offset.toInt * 4)) s t) ∧ (s.branchState ≠ .noBranch → SlotKept s t))
      ∧ Answers (.bgezl rs offset) s (fun t => BranchFrame 0 (0#64) s t ∧ (s.branchState = .noBranch → LikelyRegistered (decide (0 ≤ (s.x rs).toInt)) (s.pc + 4#64 + BitVec.ofInt 64 (offset.toInt * 4)) s t) ∧ (s.branchState ≠ .noBranch → SlotKept s t))
      ∧ Answers (.bltzall rs offset) s (fun t => BranchFrame 31 (s.pc + 8#64) s t ∧ (s.branchState = .noBranch → LikelyRegistered (decide ((s.x rs).toInt < 0)) (s.pc + 4#64 + BitVec.ofInt 64 (offset.toInt * 4)) s t) ∧ (s.branchState ≠ .noBranch → SlotKept s t))
      ∧ Answers (.bgezall rs offset) s (fun t => BranchFrame 31 (s.pc + 8#64) s t ∧ (s.branchState = .noBranch → LikelyRegistered (decide (0 ≤ (s.x rs).toInt)) (s.pc + 4#64 + BitVec.ofInt 64 (offset.toInt * 4)) s t) ∧ (s.branchState ≠ .noBranch → SlotKept s t))

/-- For an aligned access, unwatched and with no bus error, that translation places in RDRAM, PIF ROM, PIF RAM or unclaimed space,
or uncached in a device's registers (within the block or mirrored), the load completes: rt takes the n bytes seen there, most
significant first, sign- or zero-extended: cached, those of the data line that hits, else memory (OPEN_BUS bytes in unclaimed
space) after a dirty victim is written back; uncached, memory, the n bytes of OPEN_BUS, or the addressed bytes of the 32-bit
registers (D9). Memory, the caches and the cycles change as R243, R244 and R246 say (in a device the cycles of log entry 19);
everything else is unchanged. The cartridge and the collaborators answer freely; DeviceRegisters says how they are called. (R553,
R554, R555, R556, R557, R558, R559, R550, R230, R233, R244, R246.) -/
def Obligations.Loads : Prop :=
  ∀ (rt base : RegIdx) (offset : Half) (pa : Word) (cacheable : Bool) (s : State),
    (Ready .load (effectiveAddress base offset s) 1 pa cacheable s → Answers (.lb rt base offset) s (Loaded rt (BitVec.ofInt 64 ((s.seenValue cacheable pa 1).setWidth 8).toInt) cacheable pa 1 s))
      ∧ (Ready .load (effectiveAddress base offset s) 1 pa cacheable s → Answers (.lbu rt base offset) s (Loaded rt (s.seenValue cacheable pa 1) cacheable pa 1 s))
      ∧ (Ready .load (effectiveAddress base offset s) 2 pa cacheable s → Answers (.lh rt base offset) s (Loaded rt (BitVec.ofInt 64 ((s.seenValue cacheable pa 2).setWidth 16).toInt) cacheable pa 2 s))
      ∧ (Ready .load (effectiveAddress base offset s) 2 pa cacheable s → Answers (.lhu rt base offset) s (Loaded rt (s.seenValue cacheable pa 2) cacheable pa 2 s))
      ∧ (Ready .load (effectiveAddress base offset s) 4 pa cacheable s → Answers (.lw rt base offset) s (Loaded rt (BitVec.ofInt 64 ((s.seenValue cacheable pa 4).setWidth 32).toInt) cacheable pa 4 s))
      ∧ (s.ops64 → Ready .load (effectiveAddress base offset s) 4 pa cacheable s → Answers (.lwu rt base offset) s (Loaded rt (s.seenValue cacheable pa 4) cacheable pa 4 s))
      ∧ (s.ops64 → Ready .load (effectiveAddress base offset s) 8 pa cacheable s → Answers (.ld rt base offset) s (Loaded rt (s.seenValue cacheable pa 8) cacheable pa 8 s))

/-- With b the offset of the address in its word or doubleword and B the unit's bytes as seen: LWL puts B[b..3] in the high bytes
of the low word of rt and keeps its low b bytes; LWR puts B[0..b] in the low bytes and keeps the high 3 - b; the word is sign-
extended. LDL and LDR do the same with 8 bytes. Never an alignment error; frames as for a load. (R564, R565, R566, R567, R205,
R201.) -/
def Obligations.UnalignedLoads : Prop :=
  ∀ (rt base : RegIdx) (offset : Half) (pa : Word) (cacheable : Bool) (s : State),
    let ea := effectiveAddress base offset s
    let b4 := ea.toNat % 4
    let b8 := ea.toNat % 8
    (Ready .load (alignDown ea 4) 4 pa cacheable s →
        Answers (.lwl rt base offset) s (fun t => ∃ v : Word, Loaded rt (sext32 v) cacheable pa 4 s t
          ∧ ∀ i : Fin 4, bitField v (8 * (3 - i.val)) 8 =
              if i.val + b4 < 4 then s.seenByte cacheable pa 4 (i.val + b4)
              else bitField (s.x rt) (8 * (3 - i.val)) 8))
      ∧ (Ready .load (alignDown ea 4) 4 pa cacheable s →
        Answers (.lwr rt base offset) s (fun t => ∃ v : Word, Loaded rt (sext32 v) cacheable pa 4 s t
          ∧ ∀ i : Fin 4, bitField v (8 * (3 - i.val)) 8 =
              if 3 ≤ i.val + b4 then s.seenByte cacheable pa 4 (i.val + b4 - 3)
              else bitField (s.x rt) (8 * (3 - i.val)) 8))
      ∧ (s.ops64 → Ready .load (alignDown ea 8) 8 pa cacheable s →
        Answers (.ldl rt base offset) s (fun t => ∃ v : DWord, Loaded rt v cacheable pa 8 s t
          ∧ ∀ i : Fin 8, bitField v (8 * (7 - i.val)) 8 =
              if i.val + b8 < 8 then s.seenByte cacheable pa 8 (i.val + b8)
              else bitField (s.x rt) (8 * (7 - i.val)) 8))
      ∧ (s.ops64 → Ready .load (alignDown ea 8) 8 pa cacheable s →
        Answers (.ldr rt base offset) s (fun t => ∃ v : DWord, Loaded rt v cacheable pa 8 s t
          ∧ ∀ i : Fin 8, bitField v (8 * (7 - i.val)) 8 =
              if 7 ≤ i.val + b8 then s.seenByte cacheable pa 8 (i.val + b8 - 7)
              else bitField (s.x rt) (8 * (7 - i.val)) 8))

/-- For a ready access LL writes the sign-extended word and LLD the doubleword to rt; LLbit becomes 1 and LLAddr the physical
address shifted right by 4; no other register of coprocessor 0 changes; frames as for a load. SYNC only advances. (R578, R579,
R552, R582.) -/
def Obligations.LoadLinked : Prop :=
  ∀ (rt base : RegIdx) (offset : Half) (pa : Word) (cacheable : Bool) (s : State),
    (Ready .load (effectiveAddress base offset s) 4 pa cacheable s →
        Answers (.ll rt base offset) s
          (LoadedLinked rt (BitVec.ofInt 64 ((s.seenValue cacheable pa 4).setWidth 32).toInt) cacheable pa 4 s))
      ∧ (s.ops64 → Ready .load (effectiveAddress base offset s) 8 pa cacheable s →
        Answers (.lld rt base offset) s (LoadedLinked rt (s.seenValue cacheable pa 8) cacheable pa 8 s))
      ∧ ∀ stype : BitVec 5, Answers (.sync stype) s (WroteNothing s)

/-- For a ready access the store completes: the n low bytes of x[rt], most significant at the lowest address, go to memory when
uncached, and into the data line of the address, made dirty, when cached (a miss fills it first, writing back a dirty victim). The
access goes to RDRAM, PIF RAM, or to PIF ROM or unclaimed space, where uncached writes and write-backs are ignored (R230). Every
byte of memory outside the stored ones (uncached) or outside the victim's 16 bytes (cached) reads as before; no register but the
pc changes. Stores to devices and collaborators: DeviceRegisters, AccessFaultOrder. (R560, R561, R562, R563, R550, R201, R230,
R243, R245, R246.) -/
def Obligations.Stores : Prop :=
  ∀ (rt base : RegIdx) (offset : Half) (pa : Word) (cacheable : Bool) (s : State),
    (Ready .store (effectiveAddress base offset s) 1 pa cacheable s →
        Answers (.sb rt base offset) s (Stored cacheable pa (storeBytes 1 (s.x rt)) s))
      ∧ (Ready .store (effectiveAddress base offset s) 2 pa cacheable s →
        Answers (.sh rt base offset) s (Stored cacheable pa (storeBytes 2 (s.x rt)) s))
      ∧ (Ready .store (effectiveAddress base offset s) 4 pa cacheable s →
        Answers (.sw rt base offset) s (Stored cacheable pa (storeBytes 4 (s.x rt)) s))
      ∧ (s.ops64 → Ready .store (effectiveAddress base offset s) 8 pa cacheable s →
        Answers (.sd rt base offset) s (Stored cacheable pa (storeBytes 8 (s.x rt)) s))

/-- With b the offset of the address in its unit: SWL stores the high bytes of the low word of rt at offsets b to 3, SWR its low
bytes at offsets 0 to b; SDL and SDR do the same with the 8 bytes of rt. The other bytes of the unit are not selected, so they
read as before; frames as for a store. (R568, R569, R570, R571, R551, R205.) -/
def Obligations.UnalignedStores : Prop :=
  ∀ (rt base : RegIdx) (offset : Half) (pa : Word) (cacheable : Bool) (s : State),
    let ea := effectiveAddress base offset s
    let b4 := ea.toNat % 4
    let b8 := ea.toNat % 8
    (Ready .store (alignDown ea 4) 4 pa cacheable s →
        Answers (.swl rt base offset) s (Stored cacheable pa ((List.range 4).map fun i =>
            if b4 ≤ i then some (bitField (s.x rt) (8 * (3 - (i - b4))) 8) else none) s))
      ∧ (Ready .store (alignDown ea 4) 4 pa cacheable s →
        Answers (.swr rt base offset) s (Stored cacheable pa ((List.range 4).map fun i =>
            if i ≤ b4 then some (bitField (s.x rt) (8 * (b4 - i)) 8) else none) s))
      ∧ (s.ops64 → Ready .store (alignDown ea 8) 8 pa cacheable s →
        Answers (.sdl rt base offset) s (Stored cacheable pa ((List.range 8).map fun i =>
            if b8 ≤ i then some (bitField (s.x rt) (8 * (7 - (i - b8))) 8) else none) s))
      ∧ (s.ops64 → Ready .store (alignDown ea 8) 8 pa cacheable s →
        Answers (.sdr rt base offset) s (Stored cacheable pa ((List.range 8).map fun i =>
            if i ≤ b8 then some (bitField (s.x rt) (8 * (b8 - i)) 8) else none) s))

/-- For a ready access with LLbit = 1, SC stores the low word and SCD the doubleword of rt as a store does, and rt becomes 1;
LLbit and LLAddr are unchanged. With LLbit = 0 (and whatever the watch registers and bus errors say) rt becomes 0 and memory and
the caches are unchanged. (R580, R581.) -/
def Obligations.StoreConditional : Prop :=
  ∀ (rt base : RegIdx) (offset : Half) (pa : Word) (cacheable : Bool) (s : State),
    (s.llBit = true → Ready .store (effectiveAddress base offset s) 4 pa cacheable s →
        Answers (.sc rt base offset) s (StoredConditional rt cacheable pa (storeBytes 4 (s.x rt)) s))
      ∧ (s.llBit = true → s.ops64 → Ready .store (effectiveAddress base offset s) 8 pa cacheable s →
        Answers (.scd rt base offset) s (StoredConditional rt cacheable pa (storeBytes 8 (s.x rt)) s))
      ∧ (s.llBit = false → s.accessible → (effectiveAddress base offset s).toNat % 4 = 0 →
        Machine.translate (effectiveAddress base offset s) .store s = .ok (pa, cacheable) s →
          Answers (.sc rt base offset) s (WroteGpr rt 0#64 s))
      ∧ (s.llBit = false → s.ops64 → s.accessible → (effectiveAddress base offset s).toNat % 8 = 0 →
        Machine.translate (effectiveAddress base offset s) .store s = .ok (pa, cacheable) s →
          Answers (.scd rt base offset) s (WroteGpr rt 0#64 s))

/-- For every load and store, its gates open and the state one the spec refuses no access in: a misaligned address raises AdEL or
AdES; aligned, what translation raises is raised; translated, a watch match raises WATCH; unwatched, a bus error raises DBE; with
none, a cacheable access to a device or collaborator window is refused, whether its line hits or not; an uncached store to such a
window is refused unless it stores a whole 32-bit word (D9), and any other access to a device beyond its block, without mirroring,
is refused (D64). A store-conditional makes these last checks only with LLbit = 1. Nothing is written before. The misaligned
address recorded is that of R212, where R811 says the effective address: the model's reading (log entry 18). An address error of
LWL to SDR records the effective address (R811), their TLB exceptions the aligned one they access: the model's reading (log entry
32). (R550, R551, R206, R210, R212, R233, R596, R580, R811, R841, R858, R911.) -/
def Obligations.AccessFaultOrder : Prop :=
  ∀ (i : Instr) (kind : AccessKind) (a : DWord) (n : Nat) (s : State), s.excLatch = false → s.accessible →
    Instr.access i s = some (kind, a, n) → (Instr.gated64 i = true → s.ops64) → (Instr.isCop1 i = true → s.cu 1 = true) →
      let recorded := if s.is64 = true then a else sext32 (low32 a)
      (a.toNat % n ≠ 0 → Raises i (if kind = .store then .ades recorded else .adel recorded) s)
        ∧ (∀ e, a.toNat % n = 0 → Machine.translate a kind s = .raise e s → Raises i (Instr.raised i e s) s)
        ∧ (∀ pa c, a.toNat % n = 0 → Machine.translate a kind s = .ok (pa, c) s →
            ((∀ rt b o, i ≠ .sc rt b o ∧ i ≠ .scd rt b o) ∨ s.llBit = true) →
              (s.watchHits kind pa = true → Raises i .watch s)
                ∧ (s.watchHits kind pa = false → busError s.cfg pa kind = true → Raises i .dbe s)
                ∧ (s.watchHits kind pa = false → busError s.cfg pa kind = false → c = true →
                    ((∃ d, s.region pa = .device d) ∨ ∃ k, s.region pa = .collab k) → exec i s = .refused .cachedWindow)
                ∧ (s.watchHits kind pa = false → busError s.cfg pa kind = false → c = false → kind = .store →
                    (n ≠ 4 ∨ ∃ rt b o, i = .swl rt b o ∨ i = .swr rt b o) →
                    ((∃ d, s.region pa = .device d) ∨ ∃ k, s.region pa = .collab k) → exec i s = .refused .windowStoreWidth)
                ∧ (s.watchHits kind pa = false → busError s.cfg pa kind = false → c = false →
                    (kind = .store → n = 4 ∧ ∀ rt b o, i ≠ .swl rt b o ∧ i ≠ .swr rt b o) →
                    ∀ d, s.region pa = .device d → s.cfg.deviceMirroring = false → 4 * d.slots < pa.toNat % 0x100000 + n →
                      exec i s = .refused .deviceOffset))

/-- In a state whose memory is canonical and whose valid data lines are at the index of their tag and dirty only over RDRAM, any
sequence of cacheable loads and (masked) stores to RDRAM, whatever fills and evictions it causes, completes; the loads read what a
flat byte memory would give, every RDRAM byte seen through the cache afterwards is the flat memory's, and the lines are again
consistent. (R248.) -/
def Obligations.CacheTransparency : Prop :=
  ∀ (accesses : List CachedAccess) (s : State), s.mem.wf = true → s.LinesConsistent →
    (∀ a ∈ accesses, a.fits s.cfg.rdramSize) →
      ∃ t, runCached accesses s = .ok (runFlat accesses s.viewByte).1 t ∧ t.LinesConsistent ∧ t.mem.wf = true
        ∧ t.cfg = s.cfg
        ∧ ∀ q : Word, q.toNat < rdramBytes s.cfg.rdramSize → t.viewByte q = (runFlat accesses s.viewByte).2 q

/-- With coprocessor 0 usable and the address translated as a load (no alignment check, no watch, no bus error), each of the 13
operations completes: the line of the address, TagLo and memory are as R586 to R595 say (a write-back goes to the address the
line's own tag names, here in RDRAM), every other line, register and byte is unchanged, and the other (operation, cache) pairs
only advance. What translation raises is raised; not usable, CpU(0). (R584, R585, R586, R587, R588, R589, R590, R591, R592, R593,
R594, R595.) -/
def Obligations.CacheInstruction : Prop :=
  ∀ (op : BitVec 5) (base : RegIdx) (offset : Half) (pa : Word) (c : Bool) (s : State),
    (s.excLatch = false → s.cop0Denied → Raises (.cache op base offset) (.cpu 0#2) s)
      ∧ (∀ e, s.excLatch = false → s.cop0Usable → Machine.translate (effectiveAddress base offset s) .load s = .raise e s →
          Raises (.cache op base offset) e s)
      ∧ (s.mem.wf = true → s.cop0Usable → Machine.translate (effectiveAddress base offset s) .load s = .ok (pa, c) s →
        let il := s.iLine pa
        let dl := s.dLine pa
        let dirty := dl.valid && dl.dirty
        let dw := dWritebackAddress pa dl
        let iw := iWritebackAddress pa il
        let written := s.memWith dw.toNat dl.data.toList
        let wb := s.cfg.costs.dcacheWriteback
        let done := fun cycles il dl tagLo mem => Answers (.cache op base offset) s (CacheDone cycles il dl tagLo mem pa s)
        (op = 0b00000#5 → done 0 { il with valid := false } dl s.cop0.tagLo s.mem.read)
          ∧ (op = 0b00100#5 → done 0 il dl (BitVec.ofNat 32 (il.tag.toNat * 256 + il.valid.toNat * 128)) s.mem.read)
          ∧ (op = 0b01000#5 →
              done 0 { il with tag := bitField s.cop0.tagLo 8 20, valid := bit s.cop0.tagLo 7 } dl s.cop0.tagLo s.mem.read)
          ∧ (op = 0b10000#5 →
              done 0 (if il.hits pa = true then { il with valid := false } else il) dl s.cop0.tagLo s.mem.read)
          ∧ (op = 0b10100#5 → s.region (iLineBase pa) = .rdram ∨ s.region (iLineBase pa) = .pifRom →
              done s.cfg.costs.icacheMiss
                ⟨true, cacheTag pa, Vector.ofFn fun i : Fin 32 => s.mem.read (pa.toNat / 32 * 32 + i.val)⟩ dl s.cop0.tagLo s.mem.read)
          ∧ (op = 0b11000#5 → il.hits pa = true → s.region iw = .rdram →
              done wb il dl s.cop0.tagLo (s.memWith iw.toNat il.data.toList))
          ∧ (op = 0b11000#5 → il.hits pa = false → done 0 il dl s.cop0.tagLo s.mem.read)
          ∧ (op = 0b00001#5 → dirty = true → s.region dw = .rdram →
              done wb il { dl with valid := false, dirty := false } s.cop0.tagLo written)
          ∧ (op = 0b00001#5 → dirty = false → done 0 il { dl with valid := false, dirty := false } s.cop0.tagLo s.mem.read)
          ∧ (op = 0b00101#5 →
              done 0 il dl (BitVec.ofNat 32 (dl.tag.toNat * 256 + dl.valid.toNat * 128 + dl.dirty.toNat * 64)) s.mem.read)
          ∧ (op = 0b01001#5 →
              done 0 il { dl with tag := bitField s.cop0.tagLo 8 20, valid := bit s.cop0.tagLo 7, dirty := bit s.cop0.tagLo 6 }
                s.cop0.tagLo s.mem.read)
          ∧ (op = 0b01101#5 → dirty = true → dl.tag ≠ cacheTag pa → s.region dw = .rdram →
              done wb il { dl with tag := cacheTag pa, valid := true, dirty := true } s.cop0.tagLo written)
          ∧ (op = 0b01101#5 → dirty = false ∨ dl.tag = cacheTag pa →
              done 0 il { dl with tag := cacheTag pa, valid := true, dirty := true } s.cop0.tagLo s.mem.read)
          ∧ (op = 0b10001#5 →
              done 0 il (if dl.hits pa = true then { dl with valid := false, dirty := false } else dl) s.cop0.tagLo s.mem.read)
          ∧ (op = 0b10101#5 → dl.hits pa = true → dl.dirty = true → s.region dw = .rdram →
              done wb il { dl with valid := false, dirty := false } s.cop0.tagLo written)
          ∧ (op = 0b10101#5 → dl.hits pa = true → dl.dirty = false →
              done 0 il { dl with valid := false, dirty := false } s.cop0.tagLo s.mem.read)
          ∧ (op = 0b11001#5 → dl.hits pa = true → dl.dirty = true → s.region dw = .rdram →
              done wb il { dl with dirty := false } s.cop0.tagLo written)
          ∧ (op = 0b11001#5 → dl.hits pa = true → dl.dirty = false → done 0 il dl s.cop0.tagLo s.mem.read)
          ∧ (op = 0b10101#5 ∨ op = 0b11001#5 → dl.hits pa = false → done 0 il dl s.cop0.tagLo s.mem.read)
          ∧ (op.toNat % 4 ≥ 2 ∨ op = 0b01100#5 ∨ op = 0b11100#5 ∨ op = 0b11101#5 → done 0 il dl s.cop0.tagLo s.mem.read))

/-- In Kernel mode with KX = 0, an address (with ADDR32_STRICT, one that is sign-extended) translates by its low 32 bits u: below
0x8000_0000 through the TLB, or to u uncached when ERL = 1; to 0x9FFF_FFFF to u - 0x8000_0000, cacheable unless Config.K0 is 2; to
0xBFFF_FFFF to u - 0xA000_0000, uncached; above, through the TLB. (R213.) -/
def Obligations.Kernel32Map : Prop :=
  ∀ (a : DWord) (kind : AccessKind) (s : State), s.mode = .kernel → s.kx = false →
    (s.cfg.addr32Strict = false ∨ a = sext32 (low32 a)) →
      let u := a.toNat % 2 ^ 32
      (u ≤ 0x7FFFFFFF → s.erl = true → Machine.translate a kind s = .ok (BitVec.ofNat 32 u, false) s)
        ∧ (u ≤ 0x7FFFFFFF → s.erl = false → Machine.translate a kind s = tlbLookup (sext32 (low32 a)) kind s)
        ∧ (0x80000000 ≤ u → u ≤ 0x9FFFFFFF →
            Machine.translate a kind s = .ok (BitVec.ofNat 32 (u - 0x80000000), decide (bitField s.cop0.config 0 3 ≠ 2#3)) s)
        ∧ (0xA0000000 ≤ u → u ≤ 0xBFFFFFFF → Machine.translate a kind s = .ok (BitVec.ofNat 32 (u - 0xA0000000), false) s)
        ∧ (0xC0000000 ≤ u → Machine.translate a kind s = tlbLookup (sext32 (low32 a)) kind s)

/-- In each strategy an address of the map's ranges goes through the TLB or to its window, and every other address raises AdEL, or
AdES for a store: User-32, User-64, Supervisor-32, Supervisor-64, and Kernel-64 with xkphys, ckseg0 and ckseg1. With
ADDR32_STRICT, a 32-bit strategy raises the address error for an address that is not sign-extended. The recorded address is that
of R212. (R211, R212, R214, R215, R216, R217, R218.) -/
def Obligations.OtherSegmentMaps : Prop :=
  ∀ (a : DWord) (kind : AccessKind) (s : State),
    let a32 := sext32 (low32 a)
    let u := a.toNat % 2 ^ 32
    let n := a.toNat
    let error := fun x : DWord => Machine.translate a kind s = .raise (if kind = .store then .ades x else .adel x) s
    let mapped := fun x : DWord => Machine.translate a kind s = tlbLookup x kind s
    (s.cfg.addr32Strict = true → s.mode ≠ .reserved → s.is64 = false → a ≠ a32 → error a32)
      ∧ ((s.cfg.addr32Strict = false ∨ a = a32) →
        (s.mode = .user → s.ux = false → (u < 0x80000000 → mapped a32) ∧ (0x80000000 ≤ u → error a32))
          ∧ (s.mode = .supervisor → s.sx = false →
              (u < 0x80000000 ∨ (0xC0000000 ≤ u ∧ u < 0xE0000000) → mapped a32)
                ∧ ((0x80000000 ≤ u ∧ u < 0xC0000000) ∨ 0xE0000000 ≤ u → error a32)))
      ∧ (s.mode = .user → s.ux = true → (n < 2 ^ 40 → mapped a) ∧ (2 ^ 40 ≤ n → error a))
      ∧ (s.mode = .supervisor → s.sx = true →
          (n < 2 ^ 40 ∨ (2 ^ 62 ≤ n ∧ n < 2 ^ 62 + 2 ^ 40) ∨ (0xFFFFFFFFC0000000 ≤ n ∧ n < 0xFFFFFFFFE0000000) → mapped a)
            ∧ ((2 ^ 40 ≤ n ∧ n < 2 ^ 62) ∨ (2 ^ 62 + 2 ^ 40 ≤ n ∧ n < 0xFFFFFFFFC0000000) ∨ 0xFFFFFFFFE0000000 ≤ n → error a))
      ∧ (s.mode = .kernel → s.kx = true →
          (n < 2 ^ 31 → s.erl = true → Machine.translate a kind s = .ok (BitVec.ofNat 32 n, false) s)
            ∧ (n < 2 ^ 31 → s.erl = false → mapped a)
            ∧ ((2 ^ 31 ≤ n ∧ n < 2 ^ 40) ∨ (2 ^ 62 ≤ n ∧ n < 2 ^ 62 + 2 ^ 40)
                ∨ (0xC000000000000000 ≤ n ∧ n < 0xC00000FF80000000) ∨ 0xFFFFFFFFC0000000 ≤ n → mapped a)
            ∧ (2 ^ 63 ≤ n → n < 0xC000000000000000 → n / 2 ^ 32 % 2 ^ 27 = 0 →
                Machine.translate a kind s = .ok (BitVec.ofNat 32 u, decide (n / 2 ^ 59 % 8 ≠ 2)) s)
            ∧ (2 ^ 63 ≤ n → n < 0xC000000000000000 → n / 2 ^ 32 % 2 ^ 27 ≠ 0 → error a)
            ∧ (0xFFFFFFFF80000000 ≤ n → n < 0xFFFFFFFFA0000000 →
                Machine.translate a kind s = .ok (BitVec.ofNat 32 (u - 0x80000000), decide (bitField s.cop0.config 0 3 ≠ 2#3)) s)
            ∧ (0xFFFFFFFFA0000000 ≤ n → n < 0xFFFFFFFFC0000000 →
                Machine.translate a kind s = .ok (BitVec.ofNat 32 (u - 0xA0000000), false) s)
            ∧ ((2 ^ 40 ≤ n ∧ n < 2 ^ 62) ∨ (2 ^ 62 + 2 ^ 40 ≤ n ∧ n < 2 ^ 63)
                ∨ (0xC00000FF80000000 ≤ n ∧ n < 0xFFFFFFFF80000000) → error a))

/-- For an entry whose mask is that of pages of P = 4096 * 4^k bytes, k = 0 to 6: it hits an address exactly when the address and
the entry's VPN2 lie in the same pair of pages (bits 39:0, or 31:0 in a 32-bit strategy), the regions agree in a 64-bit strategy,
and the entry is global or has the ASID; the page of the pair is the odd one when the address divided by P is odd; the physical
address is the frame with the offset in the page. A lookup uses the first entry that hits: invalid raises TLBL or TLBS without
refill, a store to a clean page Mod; no entry raises the refill. (R219, R220, R118, R140, R141.) -/
def Obligations.TlbPages : Prop :=
  (∀ (e : TlbEntry) (k : Nat) (a : DWord) (asid : BitVec 8), k ≤ 6 → e.mask.toNat = 4 ^ k - 1 →
      let p := 4096 * 4 ^ k
      (e.hits true asid a = true ↔
          a.toNat % 2 ^ 40 / (2 * p) = e.vpn2.toNat * 8192 / (2 * p) ∧ a.toNat / 2 ^ 62 = e.r.toNat ∧ (e.g = true ∨ e.asid = asid))
        ∧ (e.hits false asid a = true ↔
          a.toNat % 2 ^ 32 / (2 * p) = e.vpn2.toNat * 8192 % 2 ^ 32 / (2 * p) ∧ (e.g = true ∨ e.asid = asid))
        ∧ e.half a = (if a.toNat / p % 2 = 1 then e.lo1 else e.lo0)
        ∧ (e.physical a).toNat = ((e.half a).pfn.toNat * 4096 / p * p + a.toNat % p) % 2 ^ 32)
    ∧ ∀ (a : DWord) (kind : AccessKind) (s : State),
      ((∀ i : Fin 32, s.tlb[i.val].hits s.is64 (bitField s.cop0.entryHi 0 8) a = false) →
          tlbLookup a kind s = .raise (if kind = .store then .tlbs a true s.is64 else .tlbl a true s.is64) s)
        ∧ ∀ i : Fin 32, s.tlb[i.val].hits s.is64 (bitField s.cop0.entryHi 0 8) a = true →
          (∀ j : Fin 32, j < i → s.tlb[j.val].hits s.is64 (bitField s.cop0.entryHi 0 8) a = false) →
            let h := s.tlb[i.val].half a
            (h.v = false → tlbLookup a kind s = .raise (if kind = .store then .tlbs a false false else .tlbl a false false) s)
              ∧ (h.v = true → kind = .store → h.d = false → tlbLookup a kind s = .raise (.mod a) s)
              ∧ (h.v = true → kind ≠ .store ∨ h.d = true →
                  tlbLookup a kind s = .ok (s.tlb[i.val].physical a, decide (h.c ≠ 2#3)) s)

/-- With coprocessor 0 usable, TLBWI writes entry Index mod 32 and TLBWR entry Random mod 32 from PageMask, EntryHi and the
EntryLo pair (mask bits in pairs by their upper bit, VPN2 without the bits under the mask, G the AND of both), and nothing else;
TLBR writes those registers from entry Index mod 32, and nothing else. TLBWI then TLBR returns PageMask normalised, EntryHi with
VPN2 masked and its reserved bits 0, each EntryLo's bits 29:1 and the common G. Not usable, each raises CpU(0). (R630, R631, R632,
R634, R635.) -/
def Obligations.TlbWriteRead : Prop :=
  ∀ s : State,
    (s.excLatch = false → s.cop0Denied →
        Raises .tlbwi (.cpu 0#2) s ∧ Raises .tlbwr (.cpu 0#2) s ∧ Raises .tlbr (.cpu 0#2) s)
      ∧ (s.cop0Usable →
        Answers .tlbwi s (WroteTlb (s.cop0.index.toNat % 32) s)
          ∧ Answers .tlbwr s (WroteTlb (s.cop0.random.toNat % 32) s)
          ∧ Answers .tlbr s (fun t =>
              (∀ k : Fin 32, k.val = s.cop0.index.toNat % 32 → EntryRead s.tlb[k.val] t.cop0)
                ∧ t.cop0 = { s.cop0 with
                    pageMask := t.cop0.pageMask
                    entryHi := t.cop0.entryHi
                    entryLo0 := t.cop0.entryLo0
                    entryLo1 := t.cop0.entryLo1 }
                ∧ t.llBit = s.llBit ∧ t.tlb = s.tlb ∧ WroteSystem s t)
          ∧ ∀ t u : State, exec .tlbwi s = .next t → exec .tlbr t = .next u →
              (∀ k : Fin 6, bit u.cop0.pageMask (13 + 2 * k.val) = bit s.cop0.pageMask (13 + 2 * k.val + 1)
                  ∧ bit u.cop0.pageMask (13 + 2 * k.val + 1) = bit s.cop0.pageMask (13 + 2 * k.val + 1))
                ∧ u.cop0.pageMask &&& 0xFE001FFF#32 = 0#32
                ∧ bitField u.cop0.entryHi 62 2 = bitField s.cop0.entryHi 62 2
                ∧ bitField u.cop0.entryHi 0 8 = bitField s.cop0.entryHi 0 8
                ∧ bitField u.cop0.entryHi 13 27 = bitField s.cop0.entryHi 13 27 &&& ~~~((bitField u.cop0.pageMask 13 12).setWidth 27)
                ∧ u.cop0.entryHi &&& 0x3FFFFF0000001F00#64 = 0#64
                ∧ bitField u.cop0.entryLo0 1 29 = bitField s.cop0.entryLo0 1 29
                ∧ bitField u.cop0.entryLo1 1 29 = bitField s.cop0.entryLo1 1 29
                ∧ bit u.cop0.entryLo0 0 = (bit s.cop0.entryLo0 0 && bit s.cop0.entryLo1 0)
                ∧ bit u.cop0.entryLo1 0 = (bit s.cop0.entryLo0 0 && bit s.cop0.entryLo1 0))

/-- With coprocessor 0 usable, TLBP writes only Index: the number of the first entry that hits the EntryHi address under its ASID
(the one tlbLookup of EntryHi uses), with P = 0, or, if none hits, P = 1 over the old bits 5:0. Not usable, it raises CpU(0).
(R633.) -/
def Obligations.TlbProbe : Prop :=
  ∀ s : State,
    (s.excLatch = false → s.cop0Denied → Raises .tlbp (.cpu 0#2) s)
      ∧ (s.cop0Usable →
        let hits := fun i : Fin 32 => s.tlb[i.val].hits s.is64 (bitField s.cop0.entryHi 0 8) s.cop0.entryHi
        Answers .tlbp s fun t =>
          (∀ i, hits i = true → (∀ j, j < i → hits j = false) →
              t.cop0.index = BitVec.ofNat 32 i.val
                ∧ ((s.tlb[i.val].half s.cop0.entryHi).v = true →
                    tlbLookup s.cop0.entryHi .load s =
                      .ok (s.tlb[i.val].physical s.cop0.entryHi, decide ((s.tlb[i.val].half s.cop0.entryHi).c ≠ 2#3)) s))
            ∧ ((∀ i, hits i = false) → t.cop0.index = 0x80000000#32 ||| (s.cop0.index &&& 0x3F#32))
            ∧ t.cop0 = { s.cop0 with index := t.cop0.index } ∧ t.llBit = s.llBit ∧ t.tlb = s.tlb
            ∧ WroteSystem s t)

/-- With coprocessor 0 usable MFC0 writes the sign-extended low word of register rd to rt and DMFC0 (64-bit operations available)
all of it, a 32-bit register zero-extended; nothing else changes. Count reads count33[32:1]; Cause its stored bits with IP2 the
aggregator line and IP6 to IP3 the external lines; PRId 0xB22; numbers 7, 21 to 25, 27, 29 and 31 read 0; every other number its
stored register. Not usable, CpU(0); then RI. (R620, R621, R624, R127.) -/
def Obligations.Cop0Reads : Prop :=
  (∀ (rt rd : RegIdx) (s : State),
      (s.excLatch = false → s.cop0Denied → Raises (.mfc0 rt rd) (.cpu 0#2) s ∧ Raises (.dmfc0 rt rd) (.cpu 0#2) s)
        ∧ (s.cop0Usable →
          Answers (.mfc0 rt rd) s (WroteGpr rt (sext32 (low32 (readCop0 rd s))) s)
            ∧ (s.ops64 → Answers (.dmfc0 rt rd) s (WroteGpr rt (readCop0 rd s) s))
            ∧ (s.excLatch = false → s.ops64Denied → Raises (.dmfc0 rt rd) .ri s)))
    ∧ ∀ s : State,
      let c := s.cop0
      let r := fun n : RegIdx => (readCop0 n s).toNat
      r 0 = c.index.toNat ∧ r 1 = c.random.toNat ∧ r 2 = c.entryLo0.toNat ∧ r 3 = c.entryLo1.toNat ∧ r 4 = c.context.toNat
        ∧ r 5 = c.pageMask.toNat ∧ r 6 = c.wired.toNat ∧ r 8 = c.badVAddr.toNat ∧ r 9 = s.count33.toNat / 2
        ∧ r 10 = c.entryHi.toNat ∧ r 11 = c.compare.toNat ∧ r 12 = c.status.toNat ∧ r 14 = c.epc.toNat ∧ r 15 = 0x0B22
        ∧ r 16 = c.config.toNat ∧ r 17 = c.llAddr.toNat ∧ r 18 = c.watchLo.toNat ∧ r 19 = c.watchHi.toNat
        ∧ r 20 = c.xContext.toNat ∧ r 26 = c.parityError.toNat ∧ r 28 = c.tagLo.toNat ∧ r 30 = c.errorEpc.toNat
        ∧ (∀ n ∈ [7, 21, 22, 23, 24, 25, 27, 29, 31], r n = 0)
        ∧ r 13 < 2 ^ 32
        ∧ (bit (readCop0 13 s) 10 = true ↔ ∃ k : Fin 6, bit s.mi.intr k.val = true ∧ bit s.mi.mask k.val = true)
        ∧ (∀ k : Fin 4, bit (readCop0 13 s) (11 + k.val) = bit s.extIp k.val)
        ∧ ∀ k : Nat, k < 32 → k < 10 ∨ 14 < k → bit (readCop0 13 s) k = bit c.cause k

/-- With coprocessor 0 usable, MTC0 writes the sign-extended low word of rt and DMTC0 (64-bit operations available) all of rt to
register rd under its write mask: afterwards the register reads (old and not mask) or (value and mask). Every other number reads
as before, except Random 31 after a write to Wired and IP7 0 after one to Compare; Count sets count33; Count and Compare schedule
the next match; nothing else changes. (R622, R623, R625, R113, R119, R121, R123.) -/
def Obligations.Cop0Writes : Prop :=
  ∀ (rt rd : RegIdx) (s : State),
    (s.excLatch = false → s.cop0Denied → Raises (.mtc0 rt rd) (.cpu 0#2) s ∧ Raises (.dmtc0 rt rd) (.cpu 0#2) s)
      ∧ (s.cop0Usable →
        Answers (.mtc0 rt rd) s (WroteCop0 rd (sext32 (low32 (s.x rt))) s)
          ∧ (s.ops64 → Answers (.dmtc0 rt rd) s (WroteCop0 rd (s.x rt) s))
          ∧ (s.excLatch = false → s.ops64Denied → Raises (.dmtc0 rt rd) .ri s))

/-- In User mode with CU0 = 0, whatever instruction executes: the TLB and the instruction cache are unchanged; of coprocessor 0
only the trap registers and LLAddr can change, not the ASID and not Cause.IP; and either Status is unchanged and the mode still
User, or EXL was set, the mode is Kernel, no branch is pending and the pc is one of the six vectors. (R332, R224, R800, R802,
R820, R822, R825, R142.) -/
def Obligations.UserIsolation : Prop :=
  ∀ (i : Instr) (s t : State), s.mode = .user → s.cu 0 = false → Sys2Proof.Machine.exec i s = .next t →
    t.tlb = s.tlb ∧ t.icache = s.icache
      ∧ t.cop0 = { s.cop0 with
          status := t.cop0.status
          cause := t.cop0.cause
          epc := t.cop0.epc
          badVAddr := t.cop0.badVAddr
          context := t.cop0.context
          xContext := t.cop0.xContext
          entryHi := t.cop0.entryHi
          llAddr := t.cop0.llAddr }
      ∧ bitField t.cop0.entryHi 0 8 = bitField s.cop0.entryHi 0 8
      ∧ bitField t.cop0.cause 8 8 = bitField s.cop0.cause 8 8
      ∧ ((t.cop0.status = s.cop0.status ∧ t.mode = .user)
        ∨ (t.cop0.status = setBit s.cop0.status 1 true ∧ t.mode = .kernel ∧ t.branchState = .noBranch
          ∧ t.pc ∈ [0xFFFFFFFF80000000#64, 0xFFFFFFFF80000080#64, 0xFFFFFFFF80000180#64,
              0xFFFFFFFFBFC00200#64, 0xFFFFFFFFBFC00280#64, 0xFFFFFFFFBFC00380#64]))

/-- Each instruction of coprocessor 1, LWC1, LDC1, SWC1 and SDC1 included, takes CpU with CE = 1 when Status.CU1 = 0, in every
mode including Kernel, with no other effect; with CU1 = 1, DMFC1 and DMTC1 take RI where 64-bit operations are denied. (R701.) -/
def Obligations.Cop1Unusable : Prop :=
  ∀ (i : Instr) (s : State), s.excLatch = false → Instr.isCop1 i = true →
    (s.cu 1 = false → Raises i (.cpu 1#2) s) ∧ (s.cu 1 = true → Instr.gated64 i = true → s.ops64Denied → Raises i .ri s)

/-- With CU1 = 1 and a ready access: LWC1 writes the word seen and LDC1 the doubleword seen through the FR view (a 32-bit write
keeps the other half), SWC1 and SDC1 store the register as the view reads it; FCSR, the general registers and coprocessor 0 are
unchanged, memory and the caches as for a load or store. (R700, R710, R711, R712, R713, R201.) -/
def Obligations.FpLoadsStores : Prop :=
  ∀ (ft base : RegIdx) (offset : Half) (pa : Word) (cacheable : Bool) (s : State), s.cu 1 = true →
    (Ready .load (effectiveAddress base offset s) 4 pa cacheable s →
        Answers (.lwc1 ft base offset) s fun t =>
          LoadedFpu cacheable pa 4 s t ∧ FprSet32 ft (low32 (s.seenValue cacheable pa 4)) s t)
      ∧ (Ready .load (effectiveAddress base offset s) 8 pa cacheable s →
        Answers (.ldc1 ft base offset) s fun t =>
          LoadedFpu cacheable pa 8 s t ∧ FprSet64 ft (s.seenValue cacheable pa 8) s t)
      ∧ (Ready .store (effectiveAddress base offset s) 4 pa cacheable s →
        Answers (.swc1 ft base offset) s (Stored cacheable pa (storeBytes 4 ((s.fgr32 ft).setWidth 64)) s))
      ∧ (Ready .store (effectiveAddress base offset s) 8 pa cacheable s →
        Answers (.sdc1 ft base offset) s (Stored cacheable pa (storeBytes 8 (s.fgr64 ft)) s))

/-- The FR view reads a word from the low half of a register, or with FR = 0 and an odd number from the high half of the one
before; a doubleword from the register or with FR = 0 from the even one. With CU1 = 1: MFC1, DMFC1, CFC1 write general registers;
MTC1, DMTC1 and MOV.fmt write through the view, FCSR unchanged; CTC1 to FCSR stores value & 0x0183_FFFF and then takes FPE if it
holds E or an enabled cause, and to another number does nothing. (R700, R714, R715, R716, R717, R718, R719, R736.) -/
def Obligations.FpMoves : Prop :=
  (∀ (n k : RegIdx) (s : State),
      (s.fr = true ∨ n.val % 2 = 0 → s.fgr32 n = bitField s.fpr[n.val] 0 32)
        ∧ (s.fr = false → n.val % 2 = 1 → k.val + 1 = n.val → s.fgr32 n = bitField s.fpr[k.val] 32 32)
        ∧ (s.fr = true → s.fgr64 n = s.fpr[n.val])
        ∧ (s.fr = false → k.val = n.val - n.val % 2 → s.fgr64 n = s.fpr[k.val]))
    ∧ ∀ (rt fs fd : RegIdx) (s : State), s.excLatch = false → s.cu 1 = true →
      let w := low32 (s.x rt) &&& 0x0183FFFF#32
      Answers (.mfc1 rt fs) s (WroteGpr rt (sext32 (s.fgr32 fs)) s)
        ∧ Gated64 (.dmfc1 rt fs) s (WroteGpr rt (s.fgr64 fs) s)
        ∧ Answers (.cfc1 rt fs) s
            (WroteGpr rt (sext32 (if fs = 0 then s.cfg.fcr0 else if fs = 31 then s.fcsr else 0#32)) s)
        ∧ Answers (.mtc1 rt fs) s (fun t => FprSet32 fs (low32 (s.x rt)) s t ∧ t.fcsr = s.fcsr ∧ WroteFpu s t)
        ∧ Gated64 (.dmtc1 rt fs) s (fun t => FprSet64 fs (s.x rt) s t ∧ t.fcsr = s.fcsr ∧ WroteFpu s t)
        ∧ Answers (.movS fd fs) s (fun t => FprSet32 fd (s.fgr32 fs) s t ∧ t.fcsr = s.fcsr ∧ WroteFpu s t)
        ∧ Answers (.movD fd fs) s (fun t => FprSet64 fd (s.fgr64 fs) s t ∧ t.fcsr = s.fcsr ∧ WroteFpu s t)
        ∧ (fs ≠ 31 → Answers (.ctc1 rt fs) s (WroteNothing s))
        ∧ (bit w 17 = false → bitField w 12 5 &&& bitField w 7 5 = 0#5 →
            Answers (.ctc1 rt 31) s (fun t => t.fcsr = w ∧ t.fpr = s.fpr ∧ WroteFpu s t))
        ∧ (bit w 17 = true ∨ bitField w 12 5 &&& bitField w 7 5 ≠ 0#5 →
            Answers (.ctc1 rt 31) s (ExceptionTaken .fpe (s.setFcsr w)))

/-- With CU1 = 1, outside a delay slot BC1T and BC1TL register pc + 4 plus four times the signed offset when FCSR.C = 1, BC1F and
BC1FL when it is 0; the likely forms skip the delay slot when not taken; in a delay slot nothing is registered (D24). Nothing else
changes. (R720, R721, R722, R723, R505, R506, R510.) -/
def Obligations.FpBranches : Prop :=
  ∀ (offset : Half) (s : State), s.cu 1 = true →
    Answers (.bc1f offset) s (fun t => BranchFrame 0 (0#64) s t ∧ (s.branchState = .noBranch → BranchRegistered (!bit s.fcsr 23) (s.pc + 4#64 + BitVec.ofInt 64 (offset.toInt * 4)) s t) ∧ (s.branchState ≠ .noBranch → SlotKept s t))
      ∧ Answers (.bc1t offset) s (fun t => BranchFrame 0 (0#64) s t ∧ (s.branchState = .noBranch → BranchRegistered (bit s.fcsr 23) (s.pc + 4#64 + BitVec.ofInt 64 (offset.toInt * 4)) s t) ∧ (s.branchState ≠ .noBranch → SlotKept s t))
      ∧ Answers (.bc1fl offset) s (fun t => BranchFrame 0 (0#64) s t ∧ (s.branchState = .noBranch → LikelyRegistered (!bit s.fcsr 23) (s.pc + 4#64 + BitVec.ofInt 64 (offset.toInt * 4)) s t) ∧ (s.branchState ≠ .noBranch → SlotKept s t))
      ∧ Answers (.bc1tl offset) s (fun t => BranchFrame 0 (0#64) s t ∧ (s.branchState = .noBranch → LikelyRegistered (bit s.fcsr 23) (s.pc + 4#64 + BitVec.ofInt 64 (offset.toInt * 4)) s t) ∧ (s.branchState ≠ .noBranch → SlotKept s t))

/-- With CU1 = 1, each of the 14 instructions takes the operation's answer on the operands as the FR view reads them: a value
whose flags are not enabled is written through the view, FCSR.Cause is the flags, Flag accrues them; an enabled flag sets Cause
and takes FPE, destination and Flag unchanged; an unimplemented operation sets Cause to E and takes FPE. Nothing else changes. The
answers are those of the parameters FP and FP_UNIMPL (log entry 8); at their defaults FpRounding and FpUnimplemented state them,
and ABS and NEG of an operand that is no NaN and no denormal clear and flip its sign bit, with no flag. (R703, R700, R730, R731,
R732, R733, R734, R735, R737.) -/
def Obligations.FpArithmetic : Prop :=
  ∀ (fd fs ft : RegIdx) (s : State), s.excLatch = false → s.cu 1 = true →
    FpDoes (.addS fd fs ft) (fpOutcome s.cfg .add .s s.fcsr (s.fpRead .s fs) (s.fpRead .s ft)) .s fd s
      ∧ FpDoes (.addD fd fs ft) (fpOutcome s.cfg .add .d s.fcsr (s.fpRead .d fs) (s.fpRead .d ft)) .d fd s
      ∧ FpDoes (.subS fd fs ft) (fpOutcome s.cfg .sub .s s.fcsr (s.fpRead .s fs) (s.fpRead .s ft)) .s fd s
      ∧ FpDoes (.subD fd fs ft) (fpOutcome s.cfg .sub .d s.fcsr (s.fpRead .d fs) (s.fpRead .d ft)) .d fd s
      ∧ FpDoes (.mulS fd fs ft) (fpOutcome s.cfg .mul .s s.fcsr (s.fpRead .s fs) (s.fpRead .s ft)) .s fd s
      ∧ FpDoes (.mulD fd fs ft) (fpOutcome s.cfg .mul .d s.fcsr (s.fpRead .d fs) (s.fpRead .d ft)) .d fd s
      ∧ FpDoes (.divS fd fs ft) (fpOutcome s.cfg .div .s s.fcsr (s.fpRead .s fs) (s.fpRead .s ft)) .s fd s
      ∧ FpDoes (.divD fd fs ft) (fpOutcome s.cfg .div .d s.fcsr (s.fpRead .d fs) (s.fpRead .d ft)) .d fd s
      ∧ FpDoes (.sqrtS fd fs) (fpOutcome s.cfg .sqrt .s s.fcsr (s.fpRead .s fs) 0#64) .s fd s
      ∧ FpDoes (.sqrtD fd fs) (fpOutcome s.cfg .sqrt .d s.fcsr (s.fpRead .d fs) 0#64) .d fd s
      ∧ FpDoes (.absS fd fs) (fpOutcome s.cfg .abs .s s.fcsr (s.fpRead .s fs) 0#64) .s fd s
      ∧ FpDoes (.absD fd fs) (fpOutcome s.cfg .abs .d s.fcsr (s.fpRead .d fs) 0#64) .d fd s
      ∧ FpDoes (.negS fd fs) (fpOutcome s.cfg .neg .s s.fcsr (s.fpRead .s fs) 0#64) .s fd s
      ∧ FpDoes (.negD fd fs) (fpOutcome s.cfg .neg .d s.fcsr (s.fpRead .d fs) 0#64) .d fd s
      ∧ (FpDefaults s.cfg → fpIsNan .s (s.fpRead .s fs) = false → fpIsDenormal .s (s.fpRead .s fs) = false →
          Answers (.absS fd fs) s (FpResult .s fd (s.fpRead .s fs &&& 0x7FFFFFFF#64) FpFlags.none s)
            ∧ Answers (.negS fd fs) s (FpResult .s fd (s.fpRead .s fs ^^^ 0x80000000#64) FpFlags.none s))
      ∧ (FpDefaults s.cfg → fpIsNan .d (s.fpRead .d fs) = false → fpIsDenormal .d (s.fpRead .d fs) = false →
          Answers (.absD fd fs) s (FpResult .d fd (s.fpRead .d fs &&& 0x7FFFFFFFFFFFFFFF#64) FpFlags.none s)
            ∧ Answers (.negD fd fs) s (FpResult .d fd (s.fpRead .d fs ^^^ 0x8000000000000000#64) FpFlags.none s))

/-- With CU1 = 1, ROUND, TRUNC, CEIL and FLOOR convert to W or L to nearest, toward zero, up and down whatever FCSR.RM is; CVT.W
and CVT.L in the mode of FCSR.RM; CVT.S and CVT.D from the other float format, W and L. Each takes the operation's answer as the
arithmetic does: value and flags, an enabled flag, or unimplemented. The answers are those of the parameters FP and FP_UNIMPL (log
entry 8); at their defaults FpToInteger, FpRounding and FpUnimplemented state them. (R740, R741, R742, R743, R744, R745, R746,
R747, R748, R749, R750, R751.) -/
def Obligations.FpConversions : Prop :=
  ∀ (fd fs : RegIdx) (s : State), s.excLatch = false → s.cu 1 = true →
    FpDoes (.roundLS fd fs) (fpOutcome s.cfg (.cvt .l .nearest) .s s.fcsr (s.fpRead .s fs) 0#64) .l fd s
      ∧ FpDoes (.roundLD fd fs) (fpOutcome s.cfg (.cvt .l .nearest) .d s.fcsr (s.fpRead .d fs) 0#64) .l fd s
      ∧ FpDoes (.roundWS fd fs) (fpOutcome s.cfg (.cvt .w .nearest) .s s.fcsr (s.fpRead .s fs) 0#64) .w fd s
      ∧ FpDoes (.roundWD fd fs) (fpOutcome s.cfg (.cvt .w .nearest) .d s.fcsr (s.fpRead .d fs) 0#64) .w fd s
      ∧ FpDoes (.truncLS fd fs) (fpOutcome s.cfg (.cvt .l .zero) .s s.fcsr (s.fpRead .s fs) 0#64) .l fd s
      ∧ FpDoes (.truncLD fd fs) (fpOutcome s.cfg (.cvt .l .zero) .d s.fcsr (s.fpRead .d fs) 0#64) .l fd s
      ∧ FpDoes (.truncWS fd fs) (fpOutcome s.cfg (.cvt .w .zero) .s s.fcsr (s.fpRead .s fs) 0#64) .w fd s
      ∧ FpDoes (.truncWD fd fs) (fpOutcome s.cfg (.cvt .w .zero) .d s.fcsr (s.fpRead .d fs) 0#64) .w fd s
      ∧ FpDoes (.ceilLS fd fs) (fpOutcome s.cfg (.cvt .l .up) .s s.fcsr (s.fpRead .s fs) 0#64) .l fd s
      ∧ FpDoes (.ceilLD fd fs) (fpOutcome s.cfg (.cvt .l .up) .d s.fcsr (s.fpRead .d fs) 0#64) .l fd s
      ∧ FpDoes (.ceilWS fd fs) (fpOutcome s.cfg (.cvt .w .up) .s s.fcsr (s.fpRead .s fs) 0#64) .w fd s
      ∧ FpDoes (.ceilWD fd fs) (fpOutcome s.cfg (.cvt .w .up) .d s.fcsr (s.fpRead .d fs) 0#64) .w fd s
      ∧ FpDoes (.floorLS fd fs) (fpOutcome s.cfg (.cvt .l .down) .s s.fcsr (s.fpRead .s fs) 0#64) .l fd s
      ∧ FpDoes (.floorLD fd fs) (fpOutcome s.cfg (.cvt .l .down) .d s.fcsr (s.fpRead .d fs) 0#64) .l fd s
      ∧ FpDoes (.floorWS fd fs) (fpOutcome s.cfg (.cvt .w .down) .s s.fcsr (s.fpRead .s fs) 0#64) .w fd s
      ∧ FpDoes (.floorWD fd fs) (fpOutcome s.cfg (.cvt .w .down) .d s.fcsr (s.fpRead .d fs) 0#64) .w fd s
      ∧ FpDoes (.cvtWS fd fs) (fpOutcome s.cfg (.cvt .w (RoundMode.ofBits (bitField s.fcsr 0 2))) .s s.fcsr (s.fpRead .s fs) 0#64) .w fd s
      ∧ FpDoes (.cvtWD fd fs) (fpOutcome s.cfg (.cvt .w (RoundMode.ofBits (bitField s.fcsr 0 2))) .d s.fcsr (s.fpRead .d fs) 0#64) .w fd s
      ∧ FpDoes (.cvtLS fd fs) (fpOutcome s.cfg (.cvt .l (RoundMode.ofBits (bitField s.fcsr 0 2))) .s s.fcsr (s.fpRead .s fs) 0#64) .l fd s
      ∧ FpDoes (.cvtLD fd fs) (fpOutcome s.cfg (.cvt .l (RoundMode.ofBits (bitField s.fcsr 0 2))) .d s.fcsr (s.fpRead .d fs) 0#64) .l fd s
      ∧ FpDoes (.cvtSD fd fs) (fpOutcome s.cfg (.cvt .s (RoundMode.ofBits (bitField s.fcsr 0 2))) .d s.fcsr (s.fpRead .d fs) 0#64) .s fd s
      ∧ FpDoes (.cvtDS fd fs) (fpOutcome s.cfg (.cvt .d (RoundMode.ofBits (bitField s.fcsr 0 2))) .s s.fcsr (s.fpRead .s fs) 0#64) .d fd s
      ∧ FpDoes (.cvtSW fd fs) (fpOutcome s.cfg (.cvt .s (RoundMode.ofBits (bitField s.fcsr 0 2))) .w s.fcsr (s.fpRead .w fs) 0#64) .s fd s
      ∧ FpDoes (.cvtSL fd fs) (fpOutcome s.cfg (.cvt .s (RoundMode.ofBits (bitField s.fcsr 0 2))) .l s.fcsr (s.fpRead .l fs) 0#64) .s fd s
      ∧ FpDoes (.cvtDW fd fs) (fpOutcome s.cfg (.cvt .d (RoundMode.ofBits (bitField s.fcsr 0 2))) .w s.fcsr (s.fpRead .w fs) 0#64) .d fd s
      ∧ FpDoes (.cvtDL fd fs) (fpOutcome s.cfg (.cvt .d (RoundMode.ofBits (bitField s.fcsr 0 2))) .l s.fcsr (s.fpRead .l fs) 0#64) .d fd s

/-- With CU1 = 1, C is set when the order of the operands is one the condition's bits select (less, equal, unordered); an
unordered pair signals V when bit 3 of the condition is set or an operand is a signaling NaN: Cause.V and Flag.V are set, or,
enabled, FPE is taken with C and Flag unchanged. The other bits of FCSR, the registers and memory are unchanged. (R760.) -/
def Obligations.FpCompares : Prop :=
  ∀ (fs ft : RegIdx) (s : State), s.excLatch = false → s.cu 1 = true →
    ComparesAs (.cFS fs ft) .s 0#4 fs ft s
      ∧ ComparesAs (.cFD fs ft) .d 0#4 fs ft s
      ∧ ComparesAs (.cUnS fs ft) .s 1#4 fs ft s
      ∧ ComparesAs (.cUnD fs ft) .d 1#4 fs ft s
      ∧ ComparesAs (.cEqS fs ft) .s 2#4 fs ft s
      ∧ ComparesAs (.cEqD fs ft) .d 2#4 fs ft s
      ∧ ComparesAs (.cUeqS fs ft) .s 3#4 fs ft s
      ∧ ComparesAs (.cUeqD fs ft) .d 3#4 fs ft s
      ∧ ComparesAs (.cOltS fs ft) .s 4#4 fs ft s
      ∧ ComparesAs (.cOltD fs ft) .d 4#4 fs ft s
      ∧ ComparesAs (.cUltS fs ft) .s 5#4 fs ft s
      ∧ ComparesAs (.cUltD fs ft) .d 5#4 fs ft s
      ∧ ComparesAs (.cOleS fs ft) .s 6#4 fs ft s
      ∧ ComparesAs (.cOleD fs ft) .d 6#4 fs ft s
      ∧ ComparesAs (.cUleS fs ft) .s 7#4 fs ft s
      ∧ ComparesAs (.cUleD fs ft) .d 7#4 fs ft s
      ∧ ComparesAs (.cSfS fs ft) .s 8#4 fs ft s
      ∧ ComparesAs (.cSfD fs ft) .d 8#4 fs ft s
      ∧ ComparesAs (.cNgleS fs ft) .s 9#4 fs ft s
      ∧ ComparesAs (.cNgleD fs ft) .d 9#4 fs ft s
      ∧ ComparesAs (.cSeqS fs ft) .s 10#4 fs ft s
      ∧ ComparesAs (.cSeqD fs ft) .d 10#4 fs ft s
      ∧ ComparesAs (.cNglS fs ft) .s 11#4 fs ft s
      ∧ ComparesAs (.cNglD fs ft) .d 11#4 fs ft s
      ∧ ComparesAs (.cLtS fs ft) .s 12#4 fs ft s
      ∧ ComparesAs (.cLtD fs ft) .d 12#4 fs ft s
      ∧ ComparesAs (.cNgeS fs ft) .s 13#4 fs ft s
      ∧ ComparesAs (.cNgeD fs ft) .d 13#4 fs ft s
      ∧ ComparesAs (.cLeS fs ft) .s 14#4 fs ft s
      ∧ ComparesAs (.cLeD fs ft) .d 14#4 fs ft s
      ∧ ComparesAs (.cNgtS fs ft) .s 15#4 fs ft s
      ∧ ComparesAs (.cNgtD fs ft) .d 15#4 fs ft s

/-- With the parameter FP at its default, IEEE-754 (R12; that a parameter is a table over its default is the model's form of it,
log entry 8), in both formats: unordered exactly when an operand is a NaN; otherwise less exactly when the number of the first is
less than that of the second, equal exactly when they are equal (so +0 equals -0), infinities beyond every finite number. An
operand is a NaN exactly when its exponent is all ones and its fraction is not 0, and signaling exactly when the top fraction bit
is 1. (R702, R760, R763.) -/
def Obligations.FpOrder : Prop :=
  ∀ (cfg : Config) (f : FpFmt) (a b : DWord), FpDefaults cfg → f = .s ∨ f = .d →
    (fpCmp cfg f a b = .un ↔ fpIsNan f a = true ∨ fpIsNan f b = true)
      ∧ (fpIsNan f a = false → fpIsNan f b = false →
        (fpCmp cfg f a b = .lt ↔ fpExtended f a < fpExtended f b) ∧ (fpCmp cfg f a b = .eq ↔ fpExtended f a = fpExtended f b)
          ∧ (fpCmp cfg f a b = .gt ↔ fpExtended f b < fpExtended f a))
      ∧ (fpIsNan .s a = true ↔ bitField a 23 8 = 0xFF#8 ∧ bitField a 0 23 ≠ 0#23)
      ∧ (fpIsNan .d a = true ↔ bitField a 52 11 = 0x7FF#11 ∧ bitField a 0 52 ≠ 0#52)
      ∧ (fpIsSignaling .s a = true ↔ bitField a 22 9 = 0x1FF#9)
      ∧ (fpIsSignaling .d a = true ↔ bitField a 51 12 = 0xFFF#12)

/-- With FP and FP_UNIMPL at their defaults (log entry 8). ADD, SUB, MUL, DIV, CVT.S.D: exactly when an operand is denormalised or
a signaling NaN, or, finite, the exact result is non-zero and below the smallest normal number, before rounding (the model's
reading, log entry 10), with FS = 0 or U or I enabled. SQRT, ABS, NEG, CVT.D.S: exactly on such an operand. Conversions to W and
L: exactly on such an operand, a NaN, an infinity, or a rounded value outside the integer range. CVT.S.L and CVT.D.L: exactly
outside -2^55 to 2^55 - 1; from W never. (R790, R325.) -/
def Obligations.FpUnimplemented : Prop :=
  ∀ (cfg : Config) (f : FpFmt) (fcsr : Word) (rm : RoundMode) (a b : DWord), FpDefaults cfg → f = .s ∨ f = .d →
    let bad := FpBadOperand f a ∨ FpBadOperand f b
    let finite := FpFinite f a ∧ FpFinite f b
    let unimplemented := fun (op : FpOp) (f : FpFmt) (b : DWord) => fpOutcome cfg op f fcsr a b = .unimplemented
    (unimplemented .add f b ↔ bad ∨ (finite ∧ FpTinyTrap f fcsr (fpRat f a + fpRat f b)))
      ∧ (unimplemented .sub f b ↔ bad ∨ (finite ∧ FpTinyTrap f fcsr (fpRat f a - fpRat f b)))
      ∧ (unimplemented .mul f b ↔ bad ∨ (finite ∧ FpTinyTrap f fcsr (fpRat f a * fpRat f b)))
      ∧ (unimplemented .div f b ↔ bad ∨ (finite ∧ FpTinyTrap f fcsr (fpRat f a / fpRat f b)))
      ∧ (unimplemented .sqrt f 0#64 ↔ FpBadOperand f a)
      ∧ (unimplemented .abs f 0#64 ↔ FpBadOperand f a)
      ∧ (unimplemented .neg f 0#64 ↔ FpBadOperand f a)
      ∧ (unimplemented (.cvt .s rm) .d 0#64 ↔ FpBadOperand .d a ∨ (FpFinite .d a ∧ FpTinyTrap .s fcsr (fpRat .d a)))
      ∧ (unimplemented (.cvt .d rm) .s 0#64 ↔ FpBadOperand .s a)
      ∧ (unimplemented (.cvt .w rm) f 0#64 ↔ FpBadOperand f a ∨ ¬FpFinite f a
          ∨ ∃ r : ℤ, RoundedTo rm 1 (fpRat f a) r ∧ (r < -(2 ^ 31) ∨ 2 ^ 31 - 1 < r))
      ∧ (unimplemented (.cvt .l rm) f 0#64 ↔ FpBadOperand f a ∨ ¬FpFinite f a
          ∨ ∃ r : ℤ, RoundedTo rm 1 (fpRat f a) r ∧ (r < -(2 ^ 63) ∨ 2 ^ 63 - 1 < r))
      ∧ (unimplemented (.cvt f rm) .l 0#64 ↔ a.toInt < -(2 ^ 55) ∨ 2 ^ 55 - 1 < a.toInt)
      ∧ ¬unimplemented (.cvt f rm) .w 0#64

/-- With FP and FP_UNIMPL at their defaults (log entry 8), in both formats and every mode of FCSR.RM, on finite operands: a sum,
difference, product, quotient or conversion is the exact result rounded to a multiple of the last place of its binade, I exactly
when it differs; overflow, beyond the threshold of the mode, answers infinity or the largest number with O and I; a flushed
result, tiny before rounding (the model's reading, log entry 10), zero or the smallest normal with U and I. A root is rounded
likewise, said of squares. A zero sum has the sign of equal zeros, else minus only toward minus infinity. Products and quotients
have the product of the signs, conversions the sign of the operand. ABS and NEG clear and flip the sign bit. x / 0 is Z with an
infinity. inf - inf, 0 * inf, 0 / 0, inf / inf and the root of a negative non-zero value answer the default NaN with V (D87);
sqrt(-0) = -0. Other infinite operands give exact infinities or zeros. A quiet NaN gives a quiet NaN and no flag (log entry 9).
(R702, R703, R730, R731, R732, R733, R734, R735, R737, R748, R749, R138.) -/
def Obligations.FpRounding : Prop :=
  ∀ (cfg : Config) (f : FpFmt) (fcsr : Word) (a b : DWord), FpDefaults cfg → f = .s ∨ f = .d →
    let rm := RoundMode.ofBits (fcsrRm fcsr)
    let invalid := FpOutcome.value (if f = .s then 0x7FBFFFFF#64 else 0x7FF7FFFFFFFFFFFF#64) { FpFlags.none with v := true }
    let exact := fun v : DWord => FpOutcome.value v FpFlags.none
    let sign := fpNeg f a != fpNeg f b
    let usual := fun x : DWord => fpIsNan f x = false ∧ fpIsDenormal f x = false
    (∀ v fl, FpFinite f a → FpFinite f b → fpOutcome cfg .add f fcsr a b = .value v fl →
        FpRounded f fcsr (fpRat f a + fpRat f b) v fl)
      ∧ (∀ v fl, FpFinite f a → FpFinite f b → fpOutcome cfg .sub f fcsr a b = .value v fl →
          FpRounded f fcsr (fpRat f a - fpRat f b) v fl)
      ∧ (∀ v fl, FpFinite f a → FpFinite f b → fpOutcome cfg .mul f fcsr a b = .value v fl →
          FpRounded f fcsr (fpRat f a * fpRat f b) v fl ∧ fpNeg f v = sign)
      ∧ (∀ v fl, FpFinite f a → FpFinite f b → fpRat f b ≠ 0 → fpOutcome cfg .div f fcsr a b = .value v fl →
          FpRounded f fcsr (fpRat f a / fpRat f b) v fl ∧ fpNeg f v = sign)
      ∧ (∀ v fl, FpFinite .d a → fpOutcome cfg (.cvt .s rm) .d fcsr a 0#64 = .value v fl →
          FpRounded .s fcsr (fpRat .d a) v fl ∧ fpNeg .s v = fpNeg .d a)
      ∧ (∀ v fl, FpFinite .s a → fpOutcome cfg (.cvt .d rm) .s fcsr a 0#64 = .value v fl →
          FpRounded .d fcsr (fpRat .s a) v fl ∧ fpNeg .d v = fpNeg .s a)
      ∧ (∀ v fl, fpOutcome cfg (.cvt f rm) .w fcsr a 0#64 = .value v fl →
          FpRounded f fcsr ((low32 a).toInt : ℚ) v fl ∧ fpNeg f v = decide ((low32 a).toInt < 0))
      ∧ (∀ v fl, fpOutcome cfg (.cvt f rm) .l fcsr a 0#64 = .value v fl →
          FpRounded f fcsr (a.toInt : ℚ) v fl ∧ fpNeg f v = decide (a.toInt < 0))
      ∧ (∀ v fl, FpFinite f a → 0 < fpRat f a → fpOutcome cfg .sqrt f fcsr a 0#64 = .value v fl →
          FpFinite f v ∧ fl.v = false ∧ fl.z = false ∧ fl.o = false ∧ fl.u = false
            ∧ (fl.i = false ↔ fpRat f v ^ 2 = fpRat f a)
            ∧ RootRounded rm (fpRootUlp f (fpRat f a)) (fpRat f a) (fpRat f v))
      ∧ (∀ v fl, FpFinite f a → fpOutcome cfg .sub f fcsr a a = .value v fl → v = fpZero f (decide (rm = .down)) ∧ fl = FpFlags.none)
      ∧ (∀ v fl, FpOperand f a → FpFinite f a → FpFinite f b → fpRat f a + fpRat f b = 0 → fpOutcome cfg .add f fcsr a b = .value v fl →
          v = fpZero f (if fpIsZero f a = true ∧ sign = false then fpNeg f a else decide (rm = .down)))
      ∧ (∀ v fl, FpOperand f a → FpFinite f a → FpFinite f b → fpRat f a - fpRat f b = 0 → fpOutcome cfg .sub f fcsr a b = .value v fl →
          v = fpZero f (if fpIsZero f a = true ∧ sign = true then fpNeg f a else decide (rm = .down)))
      ∧ (FpFinite f a → fpRat f a ≠ 0 → FpFinite f b → fpRat f b = 0 → ¬FpBadOperand f a →
          fpOutcome cfg .div f fcsr a b = .value (fpInf f sign) { FpFlags.none with z := true })
      ∧ (fpIsInf f a = true → fpIsInf f b = true →
          fpOutcome cfg .div f fcsr a b = invalid
            ∧ (sign = true → fpOutcome cfg .add f fcsr a b = invalid) ∧ (sign = false → fpOutcome cfg .sub f fcsr a b = invalid))
      ∧ (fpIsInf f a = true ∧ fpIsZero f b = true ∨ fpIsZero f a = true ∧ fpIsInf f b = true →
          fpOutcome cfg .mul f fcsr a b = invalid)
      ∧ (fpIsZero f a = true → fpIsZero f b = true → fpOutcome cfg .div f fcsr a b = invalid)
      ∧ (fpNeg f a = true → fpIsZero f a = false → usual a → fpOutcome cfg .sqrt f fcsr a 0#64 = invalid)
      ∧ (FpOperand f a → fpIsZero f a = true → fpOutcome cfg .sqrt f fcsr a 0#64 = exact (fpZero f (fpNeg f a)))
      ∧ (FpOperand f a → fpIsInf f a = true → usual b →
          (fpIsInf f b = false ∨ sign = false → fpOutcome cfg .add f fcsr a b = exact (fpInf f (fpNeg f a)))
            ∧ (fpIsInf f b = false ∨ sign = true → fpOutcome cfg .sub f fcsr a b = exact (fpInf f (fpNeg f a)))
            ∧ (fpIsZero f b = false → fpOutcome cfg .mul f fcsr a b = exact (fpInf f sign))
            ∧ (fpIsInf f b = false → fpOutcome cfg .div f fcsr a b = exact (fpInf f sign))
            ∧ (fpNeg f a = false → fpOutcome cfg .sqrt f fcsr a 0#64 = exact (fpInf f false)))
      ∧ (FpOperand f b → usual a → fpIsInf f a = false → fpIsInf f b = true →
          fpOutcome cfg .add f fcsr a b = exact (fpInf f (fpNeg f b)) ∧ fpOutcome cfg .sub f fcsr a b = exact (fpInf f (!fpNeg f b))
            ∧ (fpIsZero f a = false → fpOutcome cfg .mul f fcsr a b = exact (fpInf f sign))
            ∧ fpOutcome cfg .div f fcsr a b = exact (fpZero f sign))
      ∧ (fpIsInf .d a = true → fpOutcome cfg (.cvt .s rm) .d fcsr a 0#64 = exact (fpInf .s (fpNeg .d a)))
      ∧ (fpIsInf .s a = true → fpOutcome cfg (.cvt .d rm) .s fcsr a 0#64 = exact (fpInf .d (fpNeg .s a)))
      ∧ (FpOperand f a → usual a →
          fpOutcome cfg .abs f fcsr a 0#64 = exact (a &&& (if f = .s then 0x7FFFFFFF#64 else 0x7FFFFFFFFFFFFFFF#64))
            ∧ fpOutcome cfg .neg f fcsr a 0#64 = exact (a ^^^ (if f = .s then 0x80000000#64 else 0x8000000000000000#64)))
      ∧ (¬FpBadOperand f a → ¬FpBadOperand f b → fpIsNan f a = true ∨ fpIsNan f b = true →
          ∀ op ∈ [FpOp.add, .sub, .mul, .div], ∃ v, fpOutcome cfg op f fcsr a b = exact v ∧ FpQuietNan f v)
      ∧ (¬FpBadOperand f a → fpIsNan f a = true →
          (∀ op ∈ [FpOp.sqrt, .abs, .neg], ∃ v, fpOutcome cfg op f fcsr a 0#64 = exact v ∧ FpQuietNan f v)
            ∧ (f = .d → ∃ v, fpOutcome cfg (.cvt .s rm) f fcsr a 0#64 = exact v ∧ FpQuietNan .s v)
            ∧ (f = .s → ∃ v, fpOutcome cfg (.cvt .d rm) f fcsr a 0#64 = exact v ∧ FpQuietNan .d v))

/-- With FP and FP_UNIMPL at their defaults (log entry 8), in both source formats, both integer formats and each rounding mode,
the value of a conversion is the integer that the finite operand rounds to (nearest with ties to even, toward zero, up, down),
inside the range of the format, in two's complement; I is set exactly when the operand is not that integer, and no other flag is.
(R740, R741, R742, R743, R744, R745, R746, R747, R750, R751, R138.) -/
def Obligations.FpToInteger : Prop :=
  ∀ (cfg : Config) (f dst : FpFmt) (rm : RoundMode) (fcsr : Word) (a v : DWord) (fl : FpFlags), FpDefaults cfg →
    f = .s ∨ f = .d → dst = .w ∨ dst = .l → fpOutcome cfg (.cvt dst rm) f fcsr a 0#64 = .value v fl →
      FpFinite f a ∧ ∃ r : ℤ, RoundedTo rm 1 (fpRat f a) r ∧ v = BitVec.ofInt 64 r
        ∧ -(2 ^ (dst.intBits - 1)) ≤ r ∧ r ≤ 2 ^ (dst.intBits - 1) - 1
        ∧ (fl.i = false ↔ fpRat f a = r) ∧ fl.v = false ∧ fl.z = false ∧ fl.o = false ∧ fl.u = false

/-- Adding an event replaces the one of its kind, keeps every other and the invariants of R900. An advance with nothing due only
brings every event nearer; one with only CompareInterrupt due at the front fires exactly that. An advance is over exactly when
nothing is due, so an event a callback adds with 0 cycles fires in the same advance (R902): the machine's next step goes on with
it (log entry 14). The CompareInterrupt callback sets Cause.IP7, and the next match comes 2 * (((Compare - Count - 1) mod 2^32) +
1) cycles later. The halfline callback steps or wraps VI_V_CURRENT, sets MI_INTR.VI when it equals VI_V_INTR, and adds itself
again with its full period. A write of AI_LEN, PI_RD_LEN, PI_WR_LEN or an SI address starts a DMA, is buffered while one runs, and
is refused while the buffer is full (D61; AI: nothing for length 0 or while disabled). A start records the request, adds the event
of its duration and, with DMA_COPY_AT = start, copies the bytes: AI to audio_buffer, PI between RDRAM and the cartridge, SI
between RDRAM and PIF RAM through PIF_PROCESS, nothing being read from or written to RDRAM beyond RDRAM_SIZE. Completion copies if
it was not done, updates the PI addresses, sets the device's MI_INTR bit, and starts the buffered request. (R900, R901, R902,
R905, R912, R932, R941, R942, R951, R952, R966, R967.) -/
def Obligations.TimerAndScheduler : Prop :=
  (∀ (q : Scheduler) (k : EventKind) (c elapsed : Int), q.Wf → 0 ≤ c + elapsed → c + elapsed < 2 ^ 63 →
      (q.add k c elapsed).Wf ∧ ((q.add k c elapsed).find k).map Event.remaining = some (c + elapsed)
        ∧ ∀ j, j ≠ k → (q.add k c elapsed).find j = q.find j)
    ∧ (∀ (step : Int) (q : Scheduler), 0 ≤ step → step < 2 ^ 63 → (∀ e ∈ q.events, 0 ≤ e.remaining) →
        (q.elapse step).nextSeq = q.nextSeq
          ∧ (q.elapse step).events.map (fun e => (e.kind, e.remaining, e.seq)) =
            q.events.map fun e => (e.kind, e.remaining - step, e.seq))
    ∧ (∀ (step : Int) (s : State), 0 ≤ step → (∀ e ∈ s.sched.events, step < e.remaining) →
        s.advanceEvents step = { s with sched := s.sched.elapse step, advancing := false })
    ∧ (∀ (step : Int) (e : Event) (rest : List Event) (s : State), s.sched.events = e :: rest → e.kind = .compareInterrupt →
        0 ≤ e.remaining → e.remaining ≤ step → step < 2 ^ 63 → (∀ g ∈ rest, step < g.remaining) →
          s.advanceEvents step =
            { State.compareFire { s with sched := { s.sched with events := rest }.elapse step } with advancing := false })
    ∧ (∀ s : State,
        (s.continueAdvance.advancing = true ↔
            ∃ e rest, s.continueAdvance.sched.events = e :: rest ∧ e.remaining ≤ 0)
          ∧ (s.advancing = true → Sys2Proof.Machine.step s = .next s.continueAdvance))
    ∧ (∀ s : State, s.compareFire = { s with cop0 := { s.cop0 with cause := setBit s.cop0.cause 15 true }, sched := s.compareFire.sched }
        ∧ (s.compareFire.sched.find .compareInterrupt).map Event.remaining =
            some (2 * (((s.cop0.compare.toNat + 2 ^ 33 - s.count33.toNat / 2 - 1) % 2 ^ 32 : ℕ) : ℤ) + 2))
    ∧ (∀ s : State,
        s.viFire.vi.vCurrent.toNat =
            (if s.vi.vSync.toNat ≤ s.vi.vCurrent.toNat then 0 else (s.vi.vCurrent.toNat + 1) % 2 ^ 10)
          ∧ (s.viFire.vi.vCurrent.toNat = s.vi.vIntr.toNat → bit s.viFire.mi.intr 3 = true)
          ∧ (s.viFire.vi.vCurrent.toNat ≠ s.vi.vIntr.toNat → s.viFire.mi = s.mi)
          ∧ (∀ k : Fin 6, k ≠ 3 → bit s.viFire.mi.intr k.val = bit s.mi.intr k.val)
          ∧ (s.viFire.sched.find .viHalfline).map Event.cyclesRemaining = some (BitVec.ofNat 64 s.cfg.cyclesPerHalfline))
    ∧ (∀ (step : Int) (e : Event) (rest : List Event) (s : State), s.sched.events = e :: rest → 0 ≤ e.remaining → e.remaining ≤ step →
        step < 2 ^ 63 →
          let u := State.onFire e.kind { s with sched := { s.sched with events := rest }.elapse step }
          (∀ g ∈ u.sched.events, 0 < g.remaining) → s.advanceEvents step = { u with advancing := false })
    ∧ (∀ (a : Nat) (b : Byte) (s : State), s.dmaRead a = s.dmaSees a
        ∧ (s.mem.wf = true → ∀ x, (s.dmaWrite a b).mem.read x = if x = a ∧ a < rdramBytes s.cfg.rdramSize then b else s.mem.read x))
    ∧ (∀ (v : Word) (elapsed : Int) (s : State),
        let len := v &&& 0x0003FFF8#32
        let r : State := { s with ai := { s.ai with raw := s.ai.raw.setIfInBounds 1 v } }
        let q : AiRequest := ⟨s.ai.addr, len, aiDmaCycles len s.ai.dacrate⟩
        (len = 0#32 ∨ s.ai.enable = false → s.slotWrite elapsed .ai 1 v = .ok () r)
          ∧ (len ≠ 0#32 → s.ai.enable = true →
            (s.ai.cur = none → ∃ t, s.slotWrite elapsed .ai 1 v = .ok () t ∧ AiStarted elapsed q r t)
              ∧ (s.ai.cur ≠ none → s.ai.next = none →
                  s.slotWrite elapsed .ai 1 v = .ok () { r with ai := { r.ai with next := some q } })
              ∧ (s.ai.cur ≠ none → s.ai.next ≠ none → s.slotWrite elapsed .ai 1 v = .refuse .requestBufferFull)))
    ∧ (∀ (q : AiRequest) (s : State), s.ai.cur = some q →
        (s.ai.next = none → s.onFire .aiDma = s.aiDone q)
          ∧ ∀ p, s.ai.next = some p → AiStarted 0 p (s.aiDone q) (s.onFire .aiDma))
    ∧ (∀ (v : Word) (elapsed : Int) (s : State), ∀ p ∈ [(2, PiDirection.toCart), (3, .toRdram)],
        let r : State := { s with pi := { s.pi with raw := s.pi.raw.setIfInBounds p.1 v } }
        let q : PiRequest := ⟨p.2, s.pi.dram, s.pi.cart, v.toNat % 2 ^ 24 + 1⟩
        (s.pi.cur = none → ∃ t, s.slotWrite elapsed .pi p.1 v = .ok () t ∧ PiStarted elapsed q r t)
          ∧ (s.pi.cur ≠ none → s.pi.next = none →
              s.slotWrite elapsed .pi p.1 v = .ok () { r with pi := { r.pi with next := some q } })
          ∧ (s.pi.cur ≠ none → s.pi.next ≠ none → s.slotWrite elapsed .pi p.1 v = .refuse .requestBufferFull))
    ∧ (∀ (q : PiRequest) (s : State), s.pi.cur = some q →
        (s.pi.next = none → s.onFire .piDma = s.piDone q)
          ∧ ∀ p, s.pi.next = some p → PiStarted 0 p (s.piDone q) (s.onFire .piDma))
    ∧ (∀ (v : Word) (elapsed : Int) (s : State), ∀ p ∈ [(1, SiDirection.pifToRdram), (4, .rdramToPif)],
        let r : State := { s with si := { s.si with raw := s.si.raw.setIfInBounds p.1 v } }
        let q : SiRequest := ⟨p.2, s.si.dram⟩
        (s.si.cur = none → ∃ t, s.slotWrite elapsed .si p.1 v = .ok () t ∧ SiStarted elapsed q r t)
          ∧ (s.si.cur ≠ none → s.si.next = none →
              s.slotWrite elapsed .si p.1 v = .ok () { r with si := { r.si with next := some q } })
          ∧ (s.si.cur ≠ none → s.si.next ≠ none → s.slotWrite elapsed .si p.1 v = .refuse .requestBufferFull))
    ∧ (∀ (q : SiRequest) (s : State), s.si.cur = some q → ∃ w, SiCopiedIf (s.cfg.dmaCopyAt = .completion) q s w
        ∧ (s.si.next = none → s.onFire .siDma = w.siDone)
        ∧ ∀ p, s.si.next = some p → SiStarted 0 p w.siDone (s.onFire .siDma))

/-- Uncached, aligned, within the block (or mirrored, D64): LW writes the register's value, sign-extended, and changes nothing
else; SW, SWC1 and a linked SC do what the register's write does, or are refused where it is (D61), and complete. LW and SW to an
RSP, RDP or RDRAM-register window make one collaborator call. To the cartridge LW and SW make one call a byte (R233), lowest
address first: R233 gives no order, so that order is the model's choice (log entry 7). VI registers store under their masks;
MI_MASK sets and clears each source by its pair of bits, set winning; MI_MODE reads its fields, and a write sets or clears each
mode by its pair (where both are set, set wins: the model's choice, log entry 33) and clears DP by bit 11; MI_VERSION and MI_INTR
ignore writes; AI, PI, SI and RI registers store and read as their tables say (the transfers that writes request are in
TimerAndScheduler): AI_LEN in every AI slot but AI_STATUS, the rest of the transfer in proportion to its time; busy, full and
interrupt bits in the status registers. A write that stores leaves what the other slots read. Writes to VI_V_CURRENT, AI_STATUS,
SI_STATUS and PI_STATUS bit 1 clear their MI_INTR bit only; raise_interrupt sets exactly its MI_INTR bit or CPU line, and
clear_interrupt clears it. (R908, R911, R920, R922, R923, R930, R940, R943, R950, R960, R965, R233.) -/
def Obligations.DeviceRegisters : Prop :=
  (∀ (rt base : RegIdx) (offset : Half) (pa : Word) (d : Device) (s : State), s.accessible →
      (effectiveAddress base offset s).toNat % 4 = 0 → s.region pa = .device d →
      (s.cfg.deviceMirroring = true ∨ pa.toNat % 0x100000 < 4 * d.slots) →
      let i := pa.toNat % 0x100000 / 4 % d.slots
      (Machine.translate (effectiveAddress base offset s) .load s = .ok (pa, false) s → s.watchHits .load pa = false →
          busError s.cfg pa .load = false →
            Answers (.lw rt base offset) s fun t =>
              GprSet rt (sext32 (s.slotRead s.runCycles.toNat d i)) s t ∧ SameHiLo s t ∧ SameSystem s t ∧ SameFpu s t
                ∧ SameMemory s t ∧ SamePlatform s t ∧ Completed s.cfg.costs.uncached4 s t)
        ∧ (Machine.translate (effectiveAddress base offset s) .store s = .ok (pa, false) s → s.watchHits .store pa = false →
          busError s.cfg pa .store = false →
            let wrote := fun (i : Instr) (u : State) => Answers i s fun t =>
              t = { u with pc := t.pc, branchState := t.branchState, stepCycles := t.stepCycles }
                ∧ Completed s.cfg.costs.uncached4 s t
            (∀ u, s.slotWrite s.runCycles.toNat d i (low32 (s.x rt)) = .ok () u →
                wrote (.sw rt base offset) u
                  ∧ (s.llBit = true → Answers (.sc rt base offset) s fun t =>
                      t = { u with gpr := t.gpr, pc := t.pc, branchState := t.branchState, stepCycles := t.stepCycles }
                        ∧ GprSet rt 1#64 s t ∧ Completed s.cfg.costs.uncached4 s t))
              ∧ (∀ q, s.slotWrite s.runCycles.toNat d i (low32 (s.x rt)) = .refuse q →
                  exec (.sw rt base offset) s = .refused q ∧ (s.llBit = true → exec (.sc rt base offset) s = .refused q))
              ∧ (s.cu 1 = true →
                (∀ u, s.slotWrite s.runCycles.toNat d i (s.fgr32 rt) = .ok () u → wrote (.swc1 rt base offset) u)
                  ∧ ∀ q, s.slotWrite s.runCycles.toNat d i (s.fgr32 rt) = .refuse q → exec (.swc1 rt base offset) s = .refused q)))
    ∧ (∀ (rt base : RegIdx) (offset : Half) (pa : Word) (s : State), s.accessible →
      (effectiveAddress base offset s).toNat % 4 = 0 →
      (Machine.translate (effectiveAddress base offset s) .load s = .ok (pa, false) s → s.watchHits .load pa = false →
          busError s.cfg pa .load = false →
            let loaded := fun (v : Word) (u : State) => Answers (.lw rt base offset) s fun t =>
              t = { u with gpr := t.gpr, pc := t.pc, branchState := t.branchState, stepCycles := t.stepCycles }
                ∧ GprSet rt (sext32 v) s t ∧ Completed s.cfg.costs.uncached4 s t
            (∀ k, s.region pa = .collab k → loaded (s.collabRead k pa).1 (s.collabRead k pa).2)
              ∧ (s.region pa = .cart →
                let r0 := s.cartRead s.elapsed pa
                let r1 := r0.2.cartRead s.elapsed (pa + 1#32)
                let r2 := r1.2.cartRead s.elapsed (pa + 2#32)
                let r3 := r2.2.cartRead s.elapsed (pa + 3#32)
                loaded (r0.1 ++ r1.1 ++ r2.1 ++ r3.1) r3.2))
        ∧ (Machine.translate (effectiveAddress base offset s) .store s = .ok (pa, false) s → s.watchHits .store pa = false →
          busError s.cfg pa .store = false →
            let wrote := fun u : State => Answers (.sw rt base offset) s fun t =>
              t = { u with pc := t.pc, branchState := t.branchState, stepCycles := t.stepCycles }
                ∧ Completed s.cfg.costs.uncached4 s t
            (∀ k, s.region pa = .collab k → wrote (s.collabWrite k pa (low32 (s.x rt))))
              ∧ (s.region pa = .cart →
                wrote ((((s.cartWrite s.elapsed pa (bitField (s.x rt) 24 8)).cartWrite s.elapsed (pa + 1#32)
                  (bitField (s.x rt) 16 8)).cartWrite s.elapsed (pa + 2#32) (bitField (s.x rt) 8 8)).cartWrite s.elapsed (pa + 3#32)
                  (bitField (s.x rt) 0 8)))))
    ∧ (∀ (elapsed : Int) (v : Word) (s : State),
        (∀ p ∈ [(0, 0x0001FFFF#32), (1, 0x00FFFFFF#32), (2, 0x00000FFF#32), (3, 0x000003FF#32), (5, 0x3FFFFFFF#32),
              (6, 0x000003FF#32), (7, 0x001F0FFF#32), (8, 0x0FFF0FFF#32), (9, 0x03FF03FF#32), (10, 0x03FF03FF#32),
              (11, 0x03FF03FF#32), (12, 0x0FFF0FFF#32), (13, 0x0FFF0FFF#32)],
            ∃ u, s.slotWrite elapsed .vi p.1 v = .ok () u ∧ u.slotRead elapsed .vi p.1 = v &&& p.2 ∧ u.mi = s.mi
              ∧ ∀ j, j ≠ p.1 → u.slotRead elapsed .vi j = s.slotRead elapsed .vi j)
          ∧ (∀ p ∈ [(0, 0x00FFFFFE#32), (1, 0xFFFFFFFE#32), (5, 0xFF#32), (6, 0xFF#32), (7, 0xF#32), (8, 0x3#32), (9, 0xFF#32),
                (10, 0xFF#32), (11, 0xF#32), (12, 0x3#32)],
              ∃ u, s.slotWrite elapsed .pi p.1 v = .ok () u ∧ u.slotRead elapsed .pi p.1 = v &&& p.2 ∧ u.mi = s.mi
                ∧ ∀ j, j ≠ p.1 → u.slotRead elapsed .pi j = s.slotRead elapsed .pi j)
          ∧ (∀ i ∈ [0, 1, 2, 3, 4, 5, 6, 7],
              ∃ u, s.slotWrite elapsed .ri i v = .ok () u ∧ u.slotRead elapsed .ri i = (if i = 6 then 0#32 else v) ∧ u.mi = s.mi
                ∧ ∀ j, j ≠ i → u.slotRead elapsed .ri j = s.slotRead elapsed .ri j)
          ∧ (∀ p ∈ [(0, 0x00FFFFFF#32), (2, 0xFFFFFFFF#32), (3, 0xFFFFFFFF#32), (5, 0xFFFFFFFF#32)],
              ∃ u, s.slotWrite elapsed .si p.1 v = .ok () u ∧ u.slotRead elapsed .si p.1 = v &&& p.2 ∧ u.mi = s.mi
                ∧ ∀ j, j ≠ p.1 → u.slotRead elapsed .si j = s.slotRead elapsed .si j)
          ∧ (∀ i ∈ [1, 4], ∀ u, s.slotWrite elapsed .si i v = .ok () u →
              u.slotRead elapsed .si i = v ∧ ∀ j, j ≠ i → j ≠ 6 → u.slotRead elapsed .si j = s.slotRead elapsed .si j)
          ∧ (∃ u, s.slotWrite elapsed .ai 0 v = .ok () u ∧ u.ai.addr = v &&& 0x00FFFFF8#32 ∧ u.mi = s.mi
              ∧ ∀ j, u.slotRead elapsed .ai j = s.slotRead elapsed .ai j)
          ∧ (∃ u, s.slotWrite elapsed .ai 2 v = .ok () u ∧ u.ai.enable = bit v 0 ∧ u.mi = s.mi
              ∧ ∀ j, u.slotRead elapsed .ai j = s.slotRead elapsed .ai j)
          ∧ (∃ u, s.slotWrite elapsed .ai 4 v = .ok () u ∧ u.ai.dacrate = bitField v 0 14 ∧ u.mi = s.mi
              ∧ ∀ j, u.slotRead elapsed .ai j = s.slotRead elapsed .ai j)
          ∧ (∃ u, s.slotWrite elapsed .ai 5 v = .ok () u ∧ u.ai.bitrate = bitField v 0 4 ∧ u.mi = s.mi
              ∧ ∀ j, u.slotRead elapsed .ai j = s.slotRead elapsed .ai j)
          ∧ (∃ u, s.slotWrite elapsed .mi 0 v = .ok () u ∧ u.mi.initLength = bitField v 0 7
              ∧ u.mi.initMode = (bit v 8 || (s.mi.initMode && !bit v 7))
              ∧ u.mi.ebusTest = (bit v 10 || (s.mi.ebusTest && !bit v 9))
              ∧ u.mi.rdramReg = (bit v 13 || (s.mi.rdramReg && !bit v 12)) ∧ u.mi.mask = s.mi.mask
              ∧ u.mi.intr = (if bit v 11 = true then setBit s.mi.intr 5 false else s.mi.intr))
          ∧ (∀ i ∈ [1, 2], ∃ u, s.slotWrite elapsed .mi i v = .ok () u ∧ u = { s with mi := { s.mi with raw := u.mi.raw } }
              ∧ ∀ j ∈ [0, 1, 2, 3], u.slotRead elapsed .mi j = s.slotRead elapsed .mi j)
          ∧ (∃ u, s.slotWrite elapsed .mi 3 v = .ok () u ∧ u.mi.intr = s.mi.intr
              ∧ (∀ j ∈ [0, 1, 2], u.slotRead elapsed .mi j = s.slotRead elapsed .mi j) ∧ ∀ k : Fin 6,
              bit u.mi.mask k.val = (bit v (2 * k.val + 1) || (bit s.mi.mask k.val && !bit v (2 * k.val))))
          ∧ (∃ u, s.slotWrite elapsed .vi 4 v = .ok () u ∧ u.mi = { s.mi with intr := setBit s.mi.intr 3 false }
              ∧ u.vi.vCurrent = s.vi.vCurrent)
          ∧ (∃ u, s.slotWrite elapsed .ai 3 v = .ok () u ∧ u.mi = { s.mi with intr := setBit s.mi.intr 2 false })
          ∧ (∃ u, s.slotWrite elapsed .si 6 v = .ok () u ∧ u.mi = { s.mi with intr := setBit s.mi.intr 1 false })
          ∧ (∃ u, s.slotWrite elapsed .pi 4 v = .ok () u
              ∧ u.mi = (if bit v 1 = true then { s.mi with intr := setBit s.mi.intr 4 false } else s.mi)))
    ∧ (∀ (elapsed : Int) (s : State),
        let len := (s.slotRead elapsed .ai 1).toNat
        (s.slotRead elapsed .mi 0).toNat
            = s.mi.initLength.toNat + s.mi.initMode.toNat * 2 ^ 7 + s.mi.ebusTest.toNat * 2 ^ 8 + s.mi.rdramReg.toNat * 2 ^ 9
          ∧ s.slotRead elapsed .mi 1 = s.cfg.miVersion
          ∧ (s.slotRead elapsed .mi 2).toNat = s.mi.intr.toNat ∧ (s.slotRead elapsed .mi 3).toNat = s.mi.mask.toNat
          ∧ (s.slotRead elapsed .vi 4).toNat = s.vi.vCurrent.toNat
          ∧ (∀ i ∈ [0, 2, 4, 5], (s.slotRead elapsed .ai i).toNat = len)
          ∧ (s.ai.cur = none → len = 0)
          ∧ (∀ q e, s.ai.cur = some q → s.sched.find .aiDma = some e →
              len = q.len.toNat * (e.remaining - elapsed).toNat / q.duration % 2 ^ 32 / 8 * 8)
          ∧ (s.slotRead elapsed .ai 3).toNat = 0x01100000 + s.ai.cur.isSome.toNat * 2 ^ 30 + s.ai.next.isSome.toNat * (2 ^ 31 + 1)
          ∧ (s.slotRead elapsed .pi 2 = 0x7F#32 ∧ s.slotRead elapsed .pi 3 = 0x7F#32)
          ∧ (s.slotRead elapsed .pi 4).toNat = s.pi.cur.isSome.toNat + (bit s.mi.intr 4).toNat * 2 ^ 3
          ∧ (s.slotRead elapsed .si 6).toNat = s.si.cur.isSome.toNat + (bit s.mi.intr 1).toNat * 2 ^ 12)
    ∧ (∀ (k : MiSource) (s : State),
        (raiseInterrupt (.mi k) s).mi = { s.mi with intr := setBit s.mi.intr k.index true }
          ∧ (bit s.mi.intr k.index = false → (clearInterrupt (.mi k) (raiseInterrupt (.mi k) s)).mi = s.mi)
          ∧ (raiseInterrupt (.mi k) s).cop0 = s.cop0 ∧ (raiseInterrupt (.mi k) s).extIp = s.extIp)
    ∧ ∀ s : State,
      (raiseInterrupt .cart s).extIp = setBit s.extIp 0 true ∧ (raiseInterrupt .prenmi s).extIp = setBit s.extIp 1 true
        ∧ (raiseInterrupt .line5 s).extIp = setBit s.extIp 2 true ∧ (raiseInterrupt .line6 s).extIp = setBit s.extIp 3 true
        ∧ (clearInterrupt .cart s).extIp = setBit s.extIp 0 false ∧ (clearInterrupt .prenmi s).extIp = setBit s.extIp 1 false
        ∧ (clearInterrupt .line5 s).extIp = setBit s.extIp 2 false ∧ (clearInterrupt .line6 s).extIp = setBit s.extIp 3 false
end

