-- ==== Sys2Proof/Laws/Bits.lean ====
section
/-! SUPPORT. The laws of bit fields: what a masked write and a single-bit write do to a field inside and outside the mask. -/

namespace Sys2Proof.Machine

variable {n : Nat}

theorem getLsbD_masked (mask old v : BitVec n) (i : Nat) :
    (masked mask old v).getLsbD i = if mask.getLsbD i then v.getLsbD i else old.getLsbD i := by
  by_cases hi : i < n
  · simp only [masked, BitVec.getLsbD_or, BitVec.getLsbD_and, BitVec.getLsbD_not]
    cases h : mask.getLsbD i <;> simp [hi]
  · have h1 : mask.getLsbD i = false := BitVec.getLsbD_of_ge _ _ (by omega)
    have h2 : old.getLsbD i = false := BitVec.getLsbD_of_ge _ _ (by omega)
    simp [masked, h1, h2]

theorem getLsbD_setBit (v : BitVec n) (k : Nat) (b : Bool) (i : Nat) :
    (setBit v k b).getLsbD i = if i = k ∧ k < n then b else v.getLsbD i := by
  by_cases hi : i < n
  · by_cases hk : i = k
    · subst hk
      cases b <;> simp [setBit, hi]
    · cases b <;> simp [setBit, hi, hk]
  · have h2 : v.getLsbD i = false := BitVec.getLsbD_of_ge _ _ (by omega)
    rw [BitVec.getLsbD_of_ge _ _ (by omega), h2]
    by_cases hk : i = k
    · simp; omega
    · simp [hk]

/-- A masked write changes nothing under a mask that is disjoint from its own. -/
theorem masked_and_disjoint {mask m : BitVec n} (h : mask &&& m = 0#n) (old v : BitVec n) :
    masked mask old v &&& m = old &&& m := by
  apply BitVec.eq_of_getLsbD_eq
  intro i hi
  have hb : (mask &&& m).getLsbD i = (0#n).getLsbD i := by rw [h]
  simp only [BitVec.getLsbD_and, BitVec.getLsbD_zero] at hb
  simp only [BitVec.getLsbD_and, getLsbD_masked]
  cases hm : mask.getLsbD i <;> simp_all

/-- A field under the mask takes the value written. -/
theorem bitField_masked_inside {mask : BitVec n} {lo len : Nat} (h : bitField mask lo len = BitVec.allOnes len) (old v : BitVec n) :
    bitField (masked mask old v) lo len = bitField v lo len := by
  apply BitVec.eq_of_getLsbD_eq
  intro i hi
  have hb : (bitField mask lo len).getLsbD i = (BitVec.allOnes len).getLsbD i := by rw [h]
  simp [hi] at hb
  simp [getLsbD_masked, hi, hb]

/-- A field beside the mask keeps its value. -/
theorem bitField_masked_outside {mask : BitVec n} {lo len : Nat} (h : bitField mask lo len = 0#len) (old v : BitVec n) :
    bitField (masked mask old v) lo len = bitField old lo len := by
  apply BitVec.eq_of_getLsbD_eq
  intro i hi
  have hb : (bitField mask lo len).getLsbD i = (0#len).getLsbD i := by rw [h]
  simp [hi] at hb
  simp [getLsbD_masked, hi, hb]

/-- A field beside the bit keeps its value. -/
theorem bitField_setBit {lo len k : Nat} (h : k < lo ∨ lo + len ≤ k) (v : BitVec n) (b : Bool) :
    bitField (setBit v k b) lo len = bitField v lo len := by
  apply BitVec.eq_of_getLsbD_eq
  intro i hi
  have : ¬(lo + i = k) := by omega
  simp [getLsbD_setBit, hi, this]

/-- A mask without the bit does not see it. -/
theorem setBit_and_disjoint {m : BitVec n} {k : Nat} (h : m.getLsbD k = false) (v : BitVec n) (b : Bool) :
    setBit v k b &&& m = v &&& m := by
  apply BitVec.eq_of_getLsbD_eq
  intro i hi
  simp only [BitVec.getLsbD_and, getLsbD_setBit]
  by_cases hk : i = k
  · subst hk; simp [h]
  · simp [hk]

theorem bit_setBit_self {k : Nat} (hk : k < n) (v : BitVec n) (b : Bool) : bit (setBit v k b) k = b := by
  simp only [bit, getLsbD_setBit, hk]; simp

theorem bit_masked_outside {mask : BitVec n} {k : Nat} (h : mask.getLsbD k = false) (old v : BitVec n) :
    bit (masked mask old v) k = bit old k := by
  simp [bit, getLsbD_masked, h]

end Sys2Proof.Machine
end

