-- ==== Sys2Proof/Laws/Memory.lean ====
section
/-! SUPPORT. The laws of byte memory: read after write, every other byte unchanged, and the canonical form kept by every write. -/

namespace Sys2Proof.Machine

/-! ### Canonical form -/

theorem Memory.wfFrom_mono {m : Memory} {lo lo' : Nat} (h : lo' ≤ lo) (hw : Memory.wfFrom lo m = true) :
    Memory.wfFrom lo' m = true := by
  cases m with
  | nil => rfl
  | cons c rest =>
    simp only [Memory.wfFrom, Bool.and_eq_true, decide_eq_true_eq] at hw ⊢
    exact ⟨⟨by omega, hw.1.2⟩, hw.2⟩

/-- Below the first listed address a byte is unlisted. -/
theorem Memory.read_below {m : Memory} {lo a : Nat} (hw : Memory.wfFrom lo m = true) (h : a < lo) :
    Memory.read m a = Memory.unlisted := by
  cases m with
  | nil => rfl
  | cons c rest =>
    simp only [Memory.wfFrom, Bool.and_eq_true, decide_eq_true_eq] at hw
    rw [Memory.read, if_neg (by omega), if_pos (by omega)]

/-- A write keeps the canonical form. -/
theorem Memory.wfFrom_write {m : Memory} {lo : Nat} (a : Nat) (v : Byte) (hw : Memory.wfFrom lo m = true) :
    Memory.wfFrom (min lo a) (Memory.write m a v) = true := by
  induction m generalizing lo with
  | nil =>
    by_cases hv : v = Memory.unlisted
    · simp [Memory.write, hv, Memory.wfFrom]
    · simp [Memory.write, hv, Memory.wfFrom]
  | cons c rest ih =>
    obtain ⟨k, b⟩ := c
    simp only [Memory.wfFrom, Bool.and_eq_true, decide_eq_true_eq] at hw
    obtain ⟨⟨hlo, hb⟩, hr⟩ := hw
    by_cases hk : k = a
    · subst hk
      by_cases hv : v = Memory.unlisted
      · simpa [Memory.write, hv] using Memory.wfFrom_mono (by omega) hr
      · simp [Memory.write, hv, Memory.wfFrom, hr]
    · by_cases hlt : a < k
      · by_cases hv : v = Memory.unlisted
        · simp only [Memory.write, if_neg hk, if_pos hlt, if_pos hv, Memory.wfFrom, Bool.and_eq_true, decide_eq_true_eq]
          exact ⟨⟨by omega, hb⟩, hr⟩
        · simp only [Memory.write, if_neg hk, if_pos hlt, if_neg hv, Memory.wfFrom, Bool.and_eq_true, decide_eq_true_eq]
          exact ⟨⟨by omega, hv⟩, ⟨by omega, hb⟩, hr⟩
      · simp only [Memory.write, if_neg hk, if_neg hlt, Memory.wfFrom, Bool.and_eq_true, decide_eq_true_eq]
        exact ⟨⟨by omega, hb⟩, Memory.wfFrom_mono (by omega) (ih hr)⟩

theorem Memory.wf_write {m : Memory} (a : Nat) (v : Byte) (h : m.wf = true) : (m.write a v).wf = true := by
  have := Memory.wfFrom_write a v h
  simpa [Memory.wf] using this

theorem Memory.wf_writeBytes {m : Memory} (bs : List Byte) (a : Nat) (h : m.wf = true) : (m.writeBytes a bs).wf = true := by
  induction bs generalizing m a with
  | nil => exact h
  | cons b bs ih => exact ih (a + 1) (Memory.wf_write a b h)

theorem Memory.wf_writeSome {m : Memory} (bs : List (Option Byte)) (a : Nat) (h : m.wf = true) :
    (m.writeSome a bs).wf = true := by
  induction bs generalizing m a with
  | nil => exact h
  | cons b bs ih =>
    cases b with
    | none => exact ih (a + 1) h
    | some b => exact ih (a + 1) (Memory.wf_write a b h)

/-! ### Read after write -/

/-- A write is seen at its own address and nowhere else. -/
theorem Memory.read_write {m : Memory} (h : m.wf = true) (a : Nat) (v : Byte) (q : Nat) :
    (m.write a v).read q = if q = a then v else m.read q := by
  suffices ∀ lo, Memory.wfFrom lo m = true → (m.write a v).read q = if q = a then v else m.read q from this 0 h
  clear h
  intro lo hw
  induction m generalizing lo with
  | nil =>
    by_cases hv : v = Memory.unlisted <;> by_cases hq : q = a
    · simp [Memory.write, hv, Memory.read, hq]
    · simp [Memory.write, hv, Memory.read, hq]
    · simp [Memory.write, hv, Memory.read, hq]
    · have : ¬ a = q := fun e => hq e.symm
      simp [Memory.write, hv, Memory.read, hq, this]
  | cons c rest ih =>
    obtain ⟨k, b⟩ := c
    simp only [Memory.wfFrom, Bool.and_eq_true, decide_eq_true_eq] at hw
    obtain ⟨⟨hlo, hb⟩, hr⟩ := hw
    by_cases hk : k = a
    · subst hk
      by_cases hv : v = Memory.unlisted
      · rw [Memory.write, if_pos rfl, if_pos hv]
        by_cases hq : q = k
        · rw [if_pos hq, Memory.read_below hr (by omega), hv]
        · rw [if_neg hq, Memory.read, if_neg (fun e => hq e.symm)]
          by_cases hlt : q < k
          · rw [if_pos hlt, Memory.read_below hr (by omega)]
          · rw [if_neg hlt]
      · rw [Memory.write, if_pos rfl, if_neg hv]
        by_cases hq : q = k
        · rw [if_pos hq, Memory.read, if_pos hq.symm]
        · have hq' : ¬ k = q := fun e => hq e.symm
          simp only [Memory.read, if_neg hq', if_neg hq]
    · by_cases hlt : a < k
      · by_cases hv : v = Memory.unlisted
        · simp only [Memory.write, if_neg hk, if_pos hlt, if_pos hv]
          by_cases hq : q = a
          · subst hq
            rw [if_pos rfl, hv, Memory.read, if_neg hk, if_pos hlt]
          · rw [if_neg hq]
        · simp only [Memory.write, if_neg hk, if_pos hlt, if_neg hv]
          by_cases hq : q = a
          · subst hq; simp [Memory.read]
          · rw [Memory.read, if_neg (fun e => hq e.symm), if_neg hq]
            by_cases hqa : q < a
            · rw [if_pos hqa, Memory.read, if_neg (by omega), if_pos (by omega)]
            · rw [if_neg hqa]
      · simp only [Memory.write, if_neg hk, if_neg hlt, Memory.read]
        by_cases hq : k = q
        · subst hq
          rw [if_pos rfl, if_neg (fun e => hk e), if_pos rfl]
        · rw [if_neg hq, if_neg hq]
          by_cases hqk : q < k
          · rw [if_pos hqk, if_pos hqk, if_neg (by omega)]
          · rw [if_neg hqk, if_neg hqk, ih _ hr]

theorem storedByte_cons_succ (a : Nat) (b : Option Byte) (bs : List (Option Byte)) (q : Nat) (h : q ≠ a) :
    storedByte a (b :: bs) q = storedByte (a + 1) bs q := by
  unfold storedByte
  by_cases hle : a ≤ q
  · rw [if_pos hle, if_pos (by omega)]
    have : q - a = (q - (a + 1)) + 1 := by omega
    rw [this, List.getElem?_cons_succ]
  · rw [if_neg hle, if_neg (by omega)]

theorem storedByte_cons_self (a : Nat) (b : Option Byte) (bs : List (Option Byte)) : storedByte a (b :: bs) a = b := by
  simp [storedByte]

theorem storedByte_below (a : Nat) (bs : List (Option Byte)) (q : Nat) (h : q < a) : storedByte a bs q = none := by
  simp [storedByte, Nat.not_le.mpr h]

/-- After a masked write a byte is the stored one where one was selected, and unchanged elsewhere (R551). -/
theorem Memory.read_writeSome {m : Memory} (h : m.wf = true) (bs : List (Option Byte)) (a q : Nat) :
    (m.writeSome a bs).read q = (storedByte a bs q).getD (m.read q) := by
  induction bs generalizing m a with
  | nil => simp [Memory.writeSome, storedByte]
  | cons b bs ih =>
    cases b with
    | none =>
      rw [Memory.writeSome, ih h]
      by_cases hq : q = a
      · subst hq; rw [storedByte_cons_self, storedByte_below _ _ _ (by omega)]
      · rw [storedByte_cons_succ _ _ _ _ hq]
    | some b =>
      rw [Memory.writeSome, ih (Memory.wf_write a b h), Memory.read_write h]
      by_cases hq : q = a
      · subst hq; rw [storedByte_cons_self, storedByte_below _ _ _ (by omega)]; simp
      · rw [storedByte_cons_succ _ _ _ _ hq, if_neg hq]

theorem Memory.writeBytes_eq (m : Memory) (a : Nat) (bs : List Byte) : m.writeBytes a bs = m.writeSome a (bs.map some) := by
  induction bs generalizing m a with
  | nil => rfl
  | cons b bs ih => exact ih _ _

theorem Memory.length_readBytes (m : Memory) (a n : Nat) : (m.readBytes a n).length = n := by
  induction n generalizing a with
  | zero => rfl
  | succ n ih => simp [Memory.readBytes, ih]

theorem Memory.getElem?_readBytes (m : Memory) (a n i : Nat) :
    (m.readBytes a n)[i]? = if i < n then some (m.read (a + i)) else none := by
  induction n generalizing a i with
  | zero => simp [Memory.readBytes]
  | succ n ih =>
    cases i with
    | zero => simp [Memory.readBytes]
    | succ i =>
      rw [Memory.readBytes, List.getElem?_cons_succ, ih]
      have : a + 1 + i = a + (i + 1) := by omega
      simp [this]

/-- Where no byte is selected nothing changes. -/
theorem storedByte_outside (a : Nat) (bs : List (Option Byte)) (q : Nat) (h : ¬(a ≤ q ∧ q < a + bs.length)) :
    storedByte a bs q = none := by
  unfold storedByte
  by_cases hle : a ≤ q
  · rw [if_pos hle, List.getElem?_eq_none (by omega)]; rfl
  · rw [if_neg hle]

end Sys2Proof.Machine
end

