-- ==== Sys2Proof/Laws/State.lean ====
section
/-! SUPPORT. One lemma for each field and each named update of the state that leaves it alone, so that no proof unfolds a record update. -/

namespace Sys2Proof.Machine

/-- The mode is a function of coprocessor 0 (R800). -/
theorem mode_of_cop0 {s t : State} (h : t.cop0 = s.cop0) : t.mode = s.mode := by
  unfold State.mode State.exl State.erl State.ksu State.status
  rw [h]

variable (s : State)

@[simp] theorem setX_hi (r : RegIdx) (v : DWord) : (s.setX r v).hi = s.hi := by unfold State.setX; split <;> rfl
@[simp] theorem setX_lo (r : RegIdx) (v : DWord) : (s.setX r v).lo = s.lo := by unfold State.setX; split <;> rfl
@[simp] theorem setX_pc (r : RegIdx) (v : DWord) : (s.setX r v).pc = s.pc := by unfold State.setX; split <;> rfl
@[simp] theorem setX_branchState (r : RegIdx) (v : DWord) : (s.setX r v).branchState = s.branchState := by unfold State.setX; split <;> rfl
@[simp] theorem setX_branchTarget (r : RegIdx) (v : DWord) : (s.setX r v).branchTarget = s.branchTarget := by unfold State.setX; split <;> rfl
@[simp] theorem setX_llBit (r : RegIdx) (v : DWord) : (s.setX r v).llBit = s.llBit := by unfold State.setX; split <;> rfl
@[simp] theorem setX_excLatch (r : RegIdx) (v : DWord) : (s.setX r v).excLatch = s.excLatch := by unfold State.setX; split <;> rfl
@[simp] theorem setX_runCycles (r : RegIdx) (v : DWord) : (s.setX r v).runCycles = s.runCycles := by unfold State.setX; split <;> rfl
@[simp] theorem setX_count33 (r : RegIdx) (v : DWord) : (s.setX r v).count33 = s.count33 := by unfold State.setX; split <;> rfl
@[simp] theorem setX_stepCycles (r : RegIdx) (v : DWord) : (s.setX r v).stepCycles = s.stepCycles := by unfold State.setX; split <;> rfl
@[simp] theorem setX_extIp (r : RegIdx) (v : DWord) : (s.setX r v).extIp = s.extIp := by unfold State.setX; split <;> rfl
@[simp] theorem setX_cop0 (r : RegIdx) (v : DWord) : (s.setX r v).cop0 = s.cop0 := by unfold State.setX; split <;> rfl
@[simp] theorem setX_fpr (r : RegIdx) (v : DWord) : (s.setX r v).fpr = s.fpr := by unfold State.setX; split <;> rfl
@[simp] theorem setX_fcsr (r : RegIdx) (v : DWord) : (s.setX r v).fcsr = s.fcsr := by unfold State.setX; split <;> rfl
@[simp] theorem setX_tlb (r : RegIdx) (v : DWord) : (s.setX r v).tlb = s.tlb := by unfold State.setX; split <;> rfl
@[simp] theorem setX_icache (r : RegIdx) (v : DWord) : (s.setX r v).icache = s.icache := by unfold State.setX; split <;> rfl
@[simp] theorem setX_dcache (r : RegIdx) (v : DWord) : (s.setX r v).dcache = s.dcache := by unfold State.setX; split <;> rfl
@[simp] theorem setX_mem (r : RegIdx) (v : DWord) : (s.setX r v).mem = s.mem := by unfold State.setX; split <;> rfl
@[simp] theorem setX_sched (r : RegIdx) (v : DWord) : (s.setX r v).sched = s.sched := by unfold State.setX; split <;> rfl
@[simp] theorem setX_mi (r : RegIdx) (v : DWord) : (s.setX r v).mi = s.mi := by unfold State.setX; split <;> rfl
@[simp] theorem setX_vi (r : RegIdx) (v : DWord) : (s.setX r v).vi = s.vi := by unfold State.setX; split <;> rfl
@[simp] theorem setX_ai (r : RegIdx) (v : DWord) : (s.setX r v).ai = s.ai := by unfold State.setX; split <;> rfl
@[simp] theorem setX_pi (r : RegIdx) (v : DWord) : (s.setX r v).pi = s.pi := by unfold State.setX; split <;> rfl
@[simp] theorem setX_ri (r : RegIdx) (v : DWord) : (s.setX r v).ri = s.ri := by unfold State.setX; split <;> rfl
@[simp] theorem setX_si (r : RegIdx) (v : DWord) : (s.setX r v).si = s.si := by unfold State.setX; split <;> rfl
@[simp] theorem setX_padState (r : RegIdx) (v : DWord) : (s.setX r v).padState = s.padState := by unfold State.setX; split <;> rfl
@[simp] theorem setX_cpuCarry (r : RegIdx) (v : DWord) : (s.setX r v).cpuCarry = s.cpuCarry := by unfold State.setX; split <;> rfl
@[simp] theorem setX_rspCarry (r : RegIdx) (v : DWord) : (s.setX r v).rspCarry = s.rspCarry := by unfold State.setX; split <;> rfl
@[simp] theorem setX_advancing (r : RegIdx) (v : DWord) : (s.setX r v).advancing = s.advancing := by unfold State.setX; split <;> rfl
@[simp] theorem setX_stop (r : RegIdx) (v : DWord) : (s.setX r v).stop = s.stop := by unfold State.setX; split <;> rfl
@[simp] theorem setX_firmwareLoaded (r : RegIdx) (v : DWord) : (s.setX r v).firmwareLoaded = s.firmwareLoaded := by unfold State.setX; split <;> rfl
@[simp] theorem setX_initialised (r : RegIdx) (v : DWord) : (s.setX r v).initialised = s.initialised := by unfold State.setX; split <;> rfl
@[simp] theorem setX_inputs (r : RegIdx) (v : DWord) : (s.setX r v).inputs = s.inputs := by unfold State.setX; split <;> rfl
@[simp] theorem setX_outputs (r : RegIdx) (v : DWord) : (s.setX r v).outputs = s.outputs := by unfold State.setX; split <;> rfl
@[simp] theorem setX_collabState (r : RegIdx) (v : DWord) : (s.setX r v).collabState = s.collabState := by unfold State.setX; split <;> rfl
@[simp] theorem setX_cfg (r : RegIdx) (v : DWord) : (s.setX r v).cfg = s.cfg := by unfold State.setX; split <;> rfl
@[simp] theorem setX_mode (r : RegIdx) (v : DWord) : (s.setX r v).mode = s.mode := mode_of_cop0 (by simp)

@[simp] theorem setHiLo_gpr (h l : DWord) : (s.setHiLo h l).gpr = s.gpr := rfl
@[simp] theorem setHiLo_pc (h l : DWord) : (s.setHiLo h l).pc = s.pc := rfl
@[simp] theorem setHiLo_branchState (h l : DWord) : (s.setHiLo h l).branchState = s.branchState := rfl
@[simp] theorem setHiLo_branchTarget (h l : DWord) : (s.setHiLo h l).branchTarget = s.branchTarget := rfl
@[simp] theorem setHiLo_llBit (h l : DWord) : (s.setHiLo h l).llBit = s.llBit := rfl
@[simp] theorem setHiLo_excLatch (h l : DWord) : (s.setHiLo h l).excLatch = s.excLatch := rfl
@[simp] theorem setHiLo_runCycles (h l : DWord) : (s.setHiLo h l).runCycles = s.runCycles := rfl
@[simp] theorem setHiLo_count33 (h l : DWord) : (s.setHiLo h l).count33 = s.count33 := rfl
@[simp] theorem setHiLo_stepCycles (h l : DWord) : (s.setHiLo h l).stepCycles = s.stepCycles := rfl
@[simp] theorem setHiLo_extIp (h l : DWord) : (s.setHiLo h l).extIp = s.extIp := rfl
@[simp] theorem setHiLo_cop0 (h l : DWord) : (s.setHiLo h l).cop0 = s.cop0 := rfl
@[simp] theorem setHiLo_fpr (h l : DWord) : (s.setHiLo h l).fpr = s.fpr := rfl
@[simp] theorem setHiLo_fcsr (h l : DWord) : (s.setHiLo h l).fcsr = s.fcsr := rfl
@[simp] theorem setHiLo_tlb (h l : DWord) : (s.setHiLo h l).tlb = s.tlb := rfl
@[simp] theorem setHiLo_icache (h l : DWord) : (s.setHiLo h l).icache = s.icache := rfl
@[simp] theorem setHiLo_dcache (h l : DWord) : (s.setHiLo h l).dcache = s.dcache := rfl
@[simp] theorem setHiLo_mem (h l : DWord) : (s.setHiLo h l).mem = s.mem := rfl
@[simp] theorem setHiLo_sched (h l : DWord) : (s.setHiLo h l).sched = s.sched := rfl
@[simp] theorem setHiLo_mi (h l : DWord) : (s.setHiLo h l).mi = s.mi := rfl
@[simp] theorem setHiLo_vi (h l : DWord) : (s.setHiLo h l).vi = s.vi := rfl
@[simp] theorem setHiLo_ai (h l : DWord) : (s.setHiLo h l).ai = s.ai := rfl
@[simp] theorem setHiLo_pi (h l : DWord) : (s.setHiLo h l).pi = s.pi := rfl
@[simp] theorem setHiLo_ri (h l : DWord) : (s.setHiLo h l).ri = s.ri := rfl
@[simp] theorem setHiLo_si (h l : DWord) : (s.setHiLo h l).si = s.si := rfl
@[simp] theorem setHiLo_padState (h l : DWord) : (s.setHiLo h l).padState = s.padState := rfl
@[simp] theorem setHiLo_cpuCarry (h l : DWord) : (s.setHiLo h l).cpuCarry = s.cpuCarry := rfl
@[simp] theorem setHiLo_rspCarry (h l : DWord) : (s.setHiLo h l).rspCarry = s.rspCarry := rfl
@[simp] theorem setHiLo_advancing (h l : DWord) : (s.setHiLo h l).advancing = s.advancing := rfl
@[simp] theorem setHiLo_stop (h l : DWord) : (s.setHiLo h l).stop = s.stop := rfl
@[simp] theorem setHiLo_firmwareLoaded (h l : DWord) : (s.setHiLo h l).firmwareLoaded = s.firmwareLoaded := rfl
@[simp] theorem setHiLo_initialised (h l : DWord) : (s.setHiLo h l).initialised = s.initialised := rfl
@[simp] theorem setHiLo_inputs (h l : DWord) : (s.setHiLo h l).inputs = s.inputs := rfl
@[simp] theorem setHiLo_outputs (h l : DWord) : (s.setHiLo h l).outputs = s.outputs := rfl
@[simp] theorem setHiLo_collabState (h l : DWord) : (s.setHiLo h l).collabState = s.collabState := rfl
@[simp] theorem setHiLo_cfg (h l : DWord) : (s.setHiLo h l).cfg = s.cfg := rfl
@[simp] theorem setHiLo_x (h l : DWord) (q : RegIdx) : (s.setHiLo h l).x q = s.x q := by simp [State.x]
@[simp] theorem setHiLo_mode (h l : DWord) : (s.setHiLo h l).mode = s.mode := mode_of_cop0 (by simp)

@[simp] theorem addCycles_gpr (n : Nat) : (s.addCycles n).gpr = s.gpr := rfl
@[simp] theorem addCycles_hi (n : Nat) : (s.addCycles n).hi = s.hi := rfl
@[simp] theorem addCycles_lo (n : Nat) : (s.addCycles n).lo = s.lo := rfl
@[simp] theorem addCycles_pc (n : Nat) : (s.addCycles n).pc = s.pc := rfl
@[simp] theorem addCycles_branchState (n : Nat) : (s.addCycles n).branchState = s.branchState := rfl
@[simp] theorem addCycles_branchTarget (n : Nat) : (s.addCycles n).branchTarget = s.branchTarget := rfl
@[simp] theorem addCycles_llBit (n : Nat) : (s.addCycles n).llBit = s.llBit := rfl
@[simp] theorem addCycles_excLatch (n : Nat) : (s.addCycles n).excLatch = s.excLatch := rfl
@[simp] theorem addCycles_runCycles (n : Nat) : (s.addCycles n).runCycles = s.runCycles := rfl
@[simp] theorem addCycles_count33 (n : Nat) : (s.addCycles n).count33 = s.count33 := rfl
@[simp] theorem addCycles_extIp (n : Nat) : (s.addCycles n).extIp = s.extIp := rfl
@[simp] theorem addCycles_cop0 (n : Nat) : (s.addCycles n).cop0 = s.cop0 := rfl
@[simp] theorem addCycles_fpr (n : Nat) : (s.addCycles n).fpr = s.fpr := rfl
@[simp] theorem addCycles_fcsr (n : Nat) : (s.addCycles n).fcsr = s.fcsr := rfl
@[simp] theorem addCycles_tlb (n : Nat) : (s.addCycles n).tlb = s.tlb := rfl
@[simp] theorem addCycles_icache (n : Nat) : (s.addCycles n).icache = s.icache := rfl
@[simp] theorem addCycles_dcache (n : Nat) : (s.addCycles n).dcache = s.dcache := rfl
@[simp] theorem addCycles_mem (n : Nat) : (s.addCycles n).mem = s.mem := rfl
@[simp] theorem addCycles_sched (n : Nat) : (s.addCycles n).sched = s.sched := rfl
@[simp] theorem addCycles_mi (n : Nat) : (s.addCycles n).mi = s.mi := rfl
@[simp] theorem addCycles_vi (n : Nat) : (s.addCycles n).vi = s.vi := rfl
@[simp] theorem addCycles_ai (n : Nat) : (s.addCycles n).ai = s.ai := rfl
@[simp] theorem addCycles_pi (n : Nat) : (s.addCycles n).pi = s.pi := rfl
@[simp] theorem addCycles_ri (n : Nat) : (s.addCycles n).ri = s.ri := rfl
@[simp] theorem addCycles_si (n : Nat) : (s.addCycles n).si = s.si := rfl
@[simp] theorem addCycles_padState (n : Nat) : (s.addCycles n).padState = s.padState := rfl
@[simp] theorem addCycles_cpuCarry (n : Nat) : (s.addCycles n).cpuCarry = s.cpuCarry := rfl
@[simp] theorem addCycles_rspCarry (n : Nat) : (s.addCycles n).rspCarry = s.rspCarry := rfl
@[simp] theorem addCycles_advancing (n : Nat) : (s.addCycles n).advancing = s.advancing := rfl
@[simp] theorem addCycles_stop (n : Nat) : (s.addCycles n).stop = s.stop := rfl
@[simp] theorem addCycles_firmwareLoaded (n : Nat) : (s.addCycles n).firmwareLoaded = s.firmwareLoaded := rfl
@[simp] theorem addCycles_initialised (n : Nat) : (s.addCycles n).initialised = s.initialised := rfl
@[simp] theorem addCycles_inputs (n : Nat) : (s.addCycles n).inputs = s.inputs := rfl
@[simp] theorem addCycles_outputs (n : Nat) : (s.addCycles n).outputs = s.outputs := rfl
@[simp] theorem addCycles_collabState (n : Nat) : (s.addCycles n).collabState = s.collabState := rfl
@[simp] theorem addCycles_cfg (n : Nat) : (s.addCycles n).cfg = s.cfg := rfl
@[simp] theorem addCycles_x (n : Nat) (q : RegIdx) : (s.addCycles n).x q = s.x q := by simp [State.x]
@[simp] theorem addCycles_mode (n : Nat) : (s.addCycles n).mode = s.mode := mode_of_cop0 (by simp)

@[simp] theorem advance_gpr (b : BranchState) (l : Bool) : (s.advance b l).gpr = s.gpr := by cases b <;> rfl
@[simp] theorem advance_hi (b : BranchState) (l : Bool) : (s.advance b l).hi = s.hi := by cases b <;> rfl
@[simp] theorem advance_lo (b : BranchState) (l : Bool) : (s.advance b l).lo = s.lo := by cases b <;> rfl
@[simp] theorem advance_branchTarget (b : BranchState) (l : Bool) : (s.advance b l).branchTarget = s.branchTarget := by cases b <;> rfl
@[simp] theorem advance_llBit (b : BranchState) (l : Bool) : (s.advance b l).llBit = s.llBit := by cases b <;> rfl
@[simp] theorem advance_excLatch (b : BranchState) (l : Bool) : (s.advance b l).excLatch = s.excLatch := by cases b <;> rfl
@[simp] theorem advance_runCycles (b : BranchState) (l : Bool) : (s.advance b l).runCycles = s.runCycles := by cases b <;> rfl
@[simp] theorem advance_count33 (b : BranchState) (l : Bool) : (s.advance b l).count33 = s.count33 := by cases b <;> rfl
@[simp] theorem advance_stepCycles (b : BranchState) (l : Bool) : (s.advance b l).stepCycles = s.stepCycles := by cases b <;> rfl
@[simp] theorem advance_extIp (b : BranchState) (l : Bool) : (s.advance b l).extIp = s.extIp := by cases b <;> rfl
@[simp] theorem advance_cop0 (b : BranchState) (l : Bool) : (s.advance b l).cop0 = s.cop0 := by cases b <;> rfl
@[simp] theorem advance_fpr (b : BranchState) (l : Bool) : (s.advance b l).fpr = s.fpr := by cases b <;> rfl
@[simp] theorem advance_fcsr (b : BranchState) (l : Bool) : (s.advance b l).fcsr = s.fcsr := by cases b <;> rfl
@[simp] theorem advance_tlb (b : BranchState) (l : Bool) : (s.advance b l).tlb = s.tlb := by cases b <;> rfl
@[simp] theorem advance_icache (b : BranchState) (l : Bool) : (s.advance b l).icache = s.icache := by cases b <;> rfl
@[simp] theorem advance_dcache (b : BranchState) (l : Bool) : (s.advance b l).dcache = s.dcache := by cases b <;> rfl
@[simp] theorem advance_mem (b : BranchState) (l : Bool) : (s.advance b l).mem = s.mem := by cases b <;> rfl
@[simp] theorem advance_sched (b : BranchState) (l : Bool) : (s.advance b l).sched = s.sched := by cases b <;> rfl
@[simp] theorem advance_mi (b : BranchState) (l : Bool) : (s.advance b l).mi = s.mi := by cases b <;> rfl
@[simp] theorem advance_vi (b : BranchState) (l : Bool) : (s.advance b l).vi = s.vi := by cases b <;> rfl
@[simp] theorem advance_ai (b : BranchState) (l : Bool) : (s.advance b l).ai = s.ai := by cases b <;> rfl
@[simp] theorem advance_pi (b : BranchState) (l : Bool) : (s.advance b l).pi = s.pi := by cases b <;> rfl
@[simp] theorem advance_ri (b : BranchState) (l : Bool) : (s.advance b l).ri = s.ri := by cases b <;> rfl
@[simp] theorem advance_si (b : BranchState) (l : Bool) : (s.advance b l).si = s.si := by cases b <;> rfl
@[simp] theorem advance_padState (b : BranchState) (l : Bool) : (s.advance b l).padState = s.padState := by cases b <;> rfl
@[simp] theorem advance_cpuCarry (b : BranchState) (l : Bool) : (s.advance b l).cpuCarry = s.cpuCarry := by cases b <;> rfl
@[simp] theorem advance_rspCarry (b : BranchState) (l : Bool) : (s.advance b l).rspCarry = s.rspCarry := by cases b <;> rfl
@[simp] theorem advance_advancing (b : BranchState) (l : Bool) : (s.advance b l).advancing = s.advancing := by cases b <;> rfl
@[simp] theorem advance_stop (b : BranchState) (l : Bool) : (s.advance b l).stop = s.stop := by cases b <;> rfl
@[simp] theorem advance_firmwareLoaded (b : BranchState) (l : Bool) : (s.advance b l).firmwareLoaded = s.firmwareLoaded := by cases b <;> rfl
@[simp] theorem advance_initialised (b : BranchState) (l : Bool) : (s.advance b l).initialised = s.initialised := by cases b <;> rfl
@[simp] theorem advance_inputs (b : BranchState) (l : Bool) : (s.advance b l).inputs = s.inputs := by cases b <;> rfl
@[simp] theorem advance_outputs (b : BranchState) (l : Bool) : (s.advance b l).outputs = s.outputs := by cases b <;> rfl
@[simp] theorem advance_collabState (b : BranchState) (l : Bool) : (s.advance b l).collabState = s.collabState := by cases b <;> rfl
@[simp] theorem advance_cfg (b : BranchState) (l : Bool) : (s.advance b l).cfg = s.cfg := by cases b <;> rfl
@[simp] theorem advance_x (b : BranchState) (l : Bool) (q : RegIdx) : (s.advance b l).x q = s.x q := by simp [State.x]
@[simp] theorem advance_mode (b : BranchState) (l : Bool) : (s.advance b l).mode = s.mode := mode_of_cop0 (by simp)

@[simp] theorem retire_gpr : (s.retire).gpr = s.gpr := by unfold State.retire; simp
@[simp] theorem retire_hi : (s.retire).hi = s.hi := by unfold State.retire; simp
@[simp] theorem retire_lo : (s.retire).lo = s.lo := by unfold State.retire; simp
@[simp] theorem retire_branchTarget : (s.retire).branchTarget = s.branchTarget := by unfold State.retire; simp
@[simp] theorem retire_llBit : (s.retire).llBit = s.llBit := by unfold State.retire; simp
@[simp] theorem retire_excLatch : (s.retire).excLatch = s.excLatch := by unfold State.retire; simp
@[simp] theorem retire_runCycles : (s.retire).runCycles = s.runCycles := by unfold State.retire; simp
@[simp] theorem retire_count33 : (s.retire).count33 = s.count33 := by unfold State.retire; simp
@[simp] theorem retire_stepCycles : (s.retire).stepCycles = s.stepCycles := by unfold State.retire; simp
@[simp] theorem retire_extIp : (s.retire).extIp = s.extIp := by unfold State.retire; simp
@[simp] theorem retire_cop0 : (s.retire).cop0 = s.cop0 := by unfold State.retire; simp
@[simp] theorem retire_fpr : (s.retire).fpr = s.fpr := by unfold State.retire; simp
@[simp] theorem retire_fcsr : (s.retire).fcsr = s.fcsr := by unfold State.retire; simp
@[simp] theorem retire_tlb : (s.retire).tlb = s.tlb := by unfold State.retire; simp
@[simp] theorem retire_icache : (s.retire).icache = s.icache := by unfold State.retire; simp
@[simp] theorem retire_dcache : (s.retire).dcache = s.dcache := by unfold State.retire; simp
@[simp] theorem retire_mem : (s.retire).mem = s.mem := by unfold State.retire; simp
@[simp] theorem retire_sched : (s.retire).sched = s.sched := by unfold State.retire; simp
@[simp] theorem retire_mi : (s.retire).mi = s.mi := by unfold State.retire; simp
@[simp] theorem retire_vi : (s.retire).vi = s.vi := by unfold State.retire; simp
@[simp] theorem retire_ai : (s.retire).ai = s.ai := by unfold State.retire; simp
@[simp] theorem retire_pi : (s.retire).pi = s.pi := by unfold State.retire; simp
@[simp] theorem retire_ri : (s.retire).ri = s.ri := by unfold State.retire; simp
@[simp] theorem retire_si : (s.retire).si = s.si := by unfold State.retire; simp
@[simp] theorem retire_padState : (s.retire).padState = s.padState := by unfold State.retire; simp
@[simp] theorem retire_cpuCarry : (s.retire).cpuCarry = s.cpuCarry := by unfold State.retire; simp
@[simp] theorem retire_rspCarry : (s.retire).rspCarry = s.rspCarry := by unfold State.retire; simp
@[simp] theorem retire_advancing : (s.retire).advancing = s.advancing := by unfold State.retire; simp
@[simp] theorem retire_stop : (s.retire).stop = s.stop := by unfold State.retire; simp
@[simp] theorem retire_firmwareLoaded : (s.retire).firmwareLoaded = s.firmwareLoaded := by unfold State.retire; simp
@[simp] theorem retire_initialised : (s.retire).initialised = s.initialised := by unfold State.retire; simp
@[simp] theorem retire_inputs : (s.retire).inputs = s.inputs := by unfold State.retire; simp
@[simp] theorem retire_outputs : (s.retire).outputs = s.outputs := by unfold State.retire; simp
@[simp] theorem retire_collabState : (s.retire).collabState = s.collabState := by unfold State.retire; simp
@[simp] theorem retire_cfg : (s.retire).cfg = s.cfg := by unfold State.retire; simp
@[simp] theorem retire_x (q : RegIdx) : (s.retire).x q = s.x q := by simp [State.x]
@[simp] theorem retire_mode : (s.retire).mode = s.mode := mode_of_cop0 (by simp)

@[simp] theorem takeException_gpr (e : Exc) : (takeException e s).gpr = s.gpr := by unfold takeException; split <;> rfl
@[simp] theorem takeException_hi (e : Exc) : (takeException e s).hi = s.hi := by unfold takeException; split <;> rfl
@[simp] theorem takeException_lo (e : Exc) : (takeException e s).lo = s.lo := by unfold takeException; split <;> rfl
@[simp] theorem takeException_branchTarget (e : Exc) : (takeException e s).branchTarget = s.branchTarget := by unfold takeException; split <;> rfl
@[simp] theorem takeException_llBit (e : Exc) : (takeException e s).llBit = s.llBit := by unfold takeException; split <;> rfl
@[simp] theorem takeException_runCycles (e : Exc) : (takeException e s).runCycles = s.runCycles := by unfold takeException; split <;> rfl
@[simp] theorem takeException_count33 (e : Exc) : (takeException e s).count33 = s.count33 := by unfold takeException; split <;> rfl
@[simp] theorem takeException_stepCycles (e : Exc) : (takeException e s).stepCycles = s.stepCycles := by unfold takeException; split <;> rfl
@[simp] theorem takeException_extIp (e : Exc) : (takeException e s).extIp = s.extIp := by unfold takeException; split <;> rfl
@[simp] theorem takeException_fpr (e : Exc) : (takeException e s).fpr = s.fpr := by unfold takeException; split <;> rfl
@[simp] theorem takeException_fcsr (e : Exc) : (takeException e s).fcsr = s.fcsr := by unfold takeException; split <;> rfl
@[simp] theorem takeException_tlb (e : Exc) : (takeException e s).tlb = s.tlb := by unfold takeException; split <;> rfl
@[simp] theorem takeException_icache (e : Exc) : (takeException e s).icache = s.icache := by unfold takeException; split <;> rfl
@[simp] theorem takeException_dcache (e : Exc) : (takeException e s).dcache = s.dcache := by unfold takeException; split <;> rfl
@[simp] theorem takeException_mem (e : Exc) : (takeException e s).mem = s.mem := by unfold takeException; split <;> rfl
@[simp] theorem takeException_sched (e : Exc) : (takeException e s).sched = s.sched := by unfold takeException; split <;> rfl
@[simp] theorem takeException_mi (e : Exc) : (takeException e s).mi = s.mi := by unfold takeException; split <;> rfl
@[simp] theorem takeException_vi (e : Exc) : (takeException e s).vi = s.vi := by unfold takeException; split <;> rfl
@[simp] theorem takeException_ai (e : Exc) : (takeException e s).ai = s.ai := by unfold takeException; split <;> rfl
@[simp] theorem takeException_pi (e : Exc) : (takeException e s).pi = s.pi := by unfold takeException; split <;> rfl
@[simp] theorem takeException_ri (e : Exc) : (takeException e s).ri = s.ri := by unfold takeException; split <;> rfl
@[simp] theorem takeException_si (e : Exc) : (takeException e s).si = s.si := by unfold takeException; split <;> rfl
@[simp] theorem takeException_padState (e : Exc) : (takeException e s).padState = s.padState := by unfold takeException; split <;> rfl
@[simp] theorem takeException_cpuCarry (e : Exc) : (takeException e s).cpuCarry = s.cpuCarry := by unfold takeException; split <;> rfl
@[simp] theorem takeException_rspCarry (e : Exc) : (takeException e s).rspCarry = s.rspCarry := by unfold takeException; split <;> rfl
@[simp] theorem takeException_advancing (e : Exc) : (takeException e s).advancing = s.advancing := by unfold takeException; split <;> rfl
@[simp] theorem takeException_stop (e : Exc) : (takeException e s).stop = s.stop := by unfold takeException; split <;> rfl
@[simp] theorem takeException_firmwareLoaded (e : Exc) : (takeException e s).firmwareLoaded = s.firmwareLoaded := by unfold takeException; split <;> rfl
@[simp] theorem takeException_initialised (e : Exc) : (takeException e s).initialised = s.initialised := by unfold takeException; split <;> rfl
@[simp] theorem takeException_inputs (e : Exc) : (takeException e s).inputs = s.inputs := by unfold takeException; split <;> rfl
@[simp] theorem takeException_outputs (e : Exc) : (takeException e s).outputs = s.outputs := by unfold takeException; split <;> rfl
@[simp] theorem takeException_collabState (e : Exc) : (takeException e s).collabState = s.collabState := by unfold takeException; split <;> rfl
@[simp] theorem takeException_cfg (e : Exc) : (takeException e s).cfg = s.cfg := by unfold takeException; split <;> rfl
@[simp] theorem takeException_x (e : Exc) (q : RegIdx) : (takeException e s).x q = s.x q := by simp [State.x]

@[simp] theorem returnFromException_gpr : (returnFromException s).gpr = s.gpr := by unfold returnFromException; split <;> rfl
@[simp] theorem returnFromException_hi : (returnFromException s).hi = s.hi := by unfold returnFromException; split <;> rfl
@[simp] theorem returnFromException_lo : (returnFromException s).lo = s.lo := by unfold returnFromException; split <;> rfl
@[simp] theorem returnFromException_branchTarget : (returnFromException s).branchTarget = s.branchTarget := by unfold returnFromException; split <;> rfl
@[simp] theorem returnFromException_excLatch : (returnFromException s).excLatch = s.excLatch := by unfold returnFromException; split <;> rfl
@[simp] theorem returnFromException_runCycles : (returnFromException s).runCycles = s.runCycles := by unfold returnFromException; split <;> rfl
@[simp] theorem returnFromException_count33 : (returnFromException s).count33 = s.count33 := by unfold returnFromException; split <;> rfl
@[simp] theorem returnFromException_stepCycles : (returnFromException s).stepCycles = s.stepCycles := by unfold returnFromException; split <;> rfl
@[simp] theorem returnFromException_extIp : (returnFromException s).extIp = s.extIp := by unfold returnFromException; split <;> rfl
@[simp] theorem returnFromException_fpr : (returnFromException s).fpr = s.fpr := by unfold returnFromException; split <;> rfl
@[simp] theorem returnFromException_fcsr : (returnFromException s).fcsr = s.fcsr := by unfold returnFromException; split <;> rfl
@[simp] theorem returnFromException_tlb : (returnFromException s).tlb = s.tlb := by unfold returnFromException; split <;> rfl
@[simp] theorem returnFromException_icache : (returnFromException s).icache = s.icache := by unfold returnFromException; split <;> rfl
@[simp] theorem returnFromException_dcache : (returnFromException s).dcache = s.dcache := by unfold returnFromException; split <;> rfl
@[simp] theorem returnFromException_mem : (returnFromException s).mem = s.mem := by unfold returnFromException; split <;> rfl
@[simp] theorem returnFromException_sched : (returnFromException s).sched = s.sched := by unfold returnFromException; split <;> rfl
@[simp] theorem returnFromException_mi : (returnFromException s).mi = s.mi := by unfold returnFromException; split <;> rfl
@[simp] theorem returnFromException_vi : (returnFromException s).vi = s.vi := by unfold returnFromException; split <;> rfl
@[simp] theorem returnFromException_ai : (returnFromException s).ai = s.ai := by unfold returnFromException; split <;> rfl
@[simp] theorem returnFromException_pi : (returnFromException s).pi = s.pi := by unfold returnFromException; split <;> rfl
@[simp] theorem returnFromException_ri : (returnFromException s).ri = s.ri := by unfold returnFromException; split <;> rfl
@[simp] theorem returnFromException_si : (returnFromException s).si = s.si := by unfold returnFromException; split <;> rfl
@[simp] theorem returnFromException_padState : (returnFromException s).padState = s.padState := by unfold returnFromException; split <;> rfl
@[simp] theorem returnFromException_cpuCarry : (returnFromException s).cpuCarry = s.cpuCarry := by unfold returnFromException; split <;> rfl
@[simp] theorem returnFromException_rspCarry : (returnFromException s).rspCarry = s.rspCarry := by unfold returnFromException; split <;> rfl
@[simp] theorem returnFromException_advancing : (returnFromException s).advancing = s.advancing := by unfold returnFromException; split <;> rfl
@[simp] theorem returnFromException_stop : (returnFromException s).stop = s.stop := by unfold returnFromException; split <;> rfl
@[simp] theorem returnFromException_firmwareLoaded : (returnFromException s).firmwareLoaded = s.firmwareLoaded := by unfold returnFromException; split <;> rfl
@[simp] theorem returnFromException_initialised : (returnFromException s).initialised = s.initialised := by unfold returnFromException; split <;> rfl
@[simp] theorem returnFromException_inputs : (returnFromException s).inputs = s.inputs := by unfold returnFromException; split <;> rfl
@[simp] theorem returnFromException_outputs : (returnFromException s).outputs = s.outputs := by unfold returnFromException; split <;> rfl
@[simp] theorem returnFromException_collabState : (returnFromException s).collabState = s.collabState := by unfold returnFromException; split <;> rfl
@[simp] theorem returnFromException_cfg : (returnFromException s).cfg = s.cfg := by unfold returnFromException; split <;> rfl
@[simp] theorem returnFromException_x (q : RegIdx) : (returnFromException s).x q = s.x q := by simp [State.x]

@[simp] theorem setFgr32_gpr (n : RegIdx) (v : Word) : (s.setFgr32 n v).gpr = s.gpr := by unfold State.setFgr32; split <;> rfl
@[simp] theorem setFgr32_hi (n : RegIdx) (v : Word) : (s.setFgr32 n v).hi = s.hi := by unfold State.setFgr32; split <;> rfl
@[simp] theorem setFgr32_lo (n : RegIdx) (v : Word) : (s.setFgr32 n v).lo = s.lo := by unfold State.setFgr32; split <;> rfl
@[simp] theorem setFgr32_pc (n : RegIdx) (v : Word) : (s.setFgr32 n v).pc = s.pc := by unfold State.setFgr32; split <;> rfl
@[simp] theorem setFgr32_branchState (n : RegIdx) (v : Word) : (s.setFgr32 n v).branchState = s.branchState := by unfold State.setFgr32; split <;> rfl
@[simp] theorem setFgr32_branchTarget (n : RegIdx) (v : Word) : (s.setFgr32 n v).branchTarget = s.branchTarget := by unfold State.setFgr32; split <;> rfl
@[simp] theorem setFgr32_llBit (n : RegIdx) (v : Word) : (s.setFgr32 n v).llBit = s.llBit := by unfold State.setFgr32; split <;> rfl
@[simp] theorem setFgr32_excLatch (n : RegIdx) (v : Word) : (s.setFgr32 n v).excLatch = s.excLatch := by unfold State.setFgr32; split <;> rfl
@[simp] theorem setFgr32_runCycles (n : RegIdx) (v : Word) : (s.setFgr32 n v).runCycles = s.runCycles := by unfold State.setFgr32; split <;> rfl
@[simp] theorem setFgr32_count33 (n : RegIdx) (v : Word) : (s.setFgr32 n v).count33 = s.count33 := by unfold State.setFgr32; split <;> rfl
@[simp] theorem setFgr32_stepCycles (n : RegIdx) (v : Word) : (s.setFgr32 n v).stepCycles = s.stepCycles := by unfold State.setFgr32; split <;> rfl
@[simp] theorem setFgr32_extIp (n : RegIdx) (v : Word) : (s.setFgr32 n v).extIp = s.extIp := by unfold State.setFgr32; split <;> rfl
@[simp] theorem setFgr32_cop0 (n : RegIdx) (v : Word) : (s.setFgr32 n v).cop0 = s.cop0 := by unfold State.setFgr32; split <;> rfl
@[simp] theorem setFgr32_fcsr (n : RegIdx) (v : Word) : (s.setFgr32 n v).fcsr = s.fcsr := by unfold State.setFgr32; split <;> rfl
@[simp] theorem setFgr32_tlb (n : RegIdx) (v : Word) : (s.setFgr32 n v).tlb = s.tlb := by unfold State.setFgr32; split <;> rfl
@[simp] theorem setFgr32_icache (n : RegIdx) (v : Word) : (s.setFgr32 n v).icache = s.icache := by unfold State.setFgr32; split <;> rfl
@[simp] theorem setFgr32_dcache (n : RegIdx) (v : Word) : (s.setFgr32 n v).dcache = s.dcache := by unfold State.setFgr32; split <;> rfl
@[simp] theorem setFgr32_mem (n : RegIdx) (v : Word) : (s.setFgr32 n v).mem = s.mem := by unfold State.setFgr32; split <;> rfl
@[simp] theorem setFgr32_sched (n : RegIdx) (v : Word) : (s.setFgr32 n v).sched = s.sched := by unfold State.setFgr32; split <;> rfl
@[simp] theorem setFgr32_mi (n : RegIdx) (v : Word) : (s.setFgr32 n v).mi = s.mi := by unfold State.setFgr32; split <;> rfl
@[simp] theorem setFgr32_vi (n : RegIdx) (v : Word) : (s.setFgr32 n v).vi = s.vi := by unfold State.setFgr32; split <;> rfl
@[simp] theorem setFgr32_ai (n : RegIdx) (v : Word) : (s.setFgr32 n v).ai = s.ai := by unfold State.setFgr32; split <;> rfl
@[simp] theorem setFgr32_pi (n : RegIdx) (v : Word) : (s.setFgr32 n v).pi = s.pi := by unfold State.setFgr32; split <;> rfl
@[simp] theorem setFgr32_ri (n : RegIdx) (v : Word) : (s.setFgr32 n v).ri = s.ri := by unfold State.setFgr32; split <;> rfl
@[simp] theorem setFgr32_si (n : RegIdx) (v : Word) : (s.setFgr32 n v).si = s.si := by unfold State.setFgr32; split <;> rfl
@[simp] theorem setFgr32_padState (n : RegIdx) (v : Word) : (s.setFgr32 n v).padState = s.padState := by unfold State.setFgr32; split <;> rfl
@[simp] theorem setFgr32_cpuCarry (n : RegIdx) (v : Word) : (s.setFgr32 n v).cpuCarry = s.cpuCarry := by unfold State.setFgr32; split <;> rfl
@[simp] theorem setFgr32_rspCarry (n : RegIdx) (v : Word) : (s.setFgr32 n v).rspCarry = s.rspCarry := by unfold State.setFgr32; split <;> rfl
@[simp] theorem setFgr32_advancing (n : RegIdx) (v : Word) : (s.setFgr32 n v).advancing = s.advancing := by unfold State.setFgr32; split <;> rfl
@[simp] theorem setFgr32_stop (n : RegIdx) (v : Word) : (s.setFgr32 n v).stop = s.stop := by unfold State.setFgr32; split <;> rfl
@[simp] theorem setFgr32_firmwareLoaded (n : RegIdx) (v : Word) : (s.setFgr32 n v).firmwareLoaded = s.firmwareLoaded := by unfold State.setFgr32; split <;> rfl
@[simp] theorem setFgr32_initialised (n : RegIdx) (v : Word) : (s.setFgr32 n v).initialised = s.initialised := by unfold State.setFgr32; split <;> rfl
@[simp] theorem setFgr32_inputs (n : RegIdx) (v : Word) : (s.setFgr32 n v).inputs = s.inputs := by unfold State.setFgr32; split <;> rfl
@[simp] theorem setFgr32_outputs (n : RegIdx) (v : Word) : (s.setFgr32 n v).outputs = s.outputs := by unfold State.setFgr32; split <;> rfl
@[simp] theorem setFgr32_collabState (n : RegIdx) (v : Word) : (s.setFgr32 n v).collabState = s.collabState := by unfold State.setFgr32; split <;> rfl
@[simp] theorem setFgr32_cfg (n : RegIdx) (v : Word) : (s.setFgr32 n v).cfg = s.cfg := by unfold State.setFgr32; split <;> rfl
@[simp] theorem setFgr32_x (n : RegIdx) (v : Word) (q : RegIdx) : (s.setFgr32 n v).x q = s.x q := by simp [State.x]
@[simp] theorem setFgr32_mode (n : RegIdx) (v : Word) : (s.setFgr32 n v).mode = s.mode := mode_of_cop0 (by simp)

@[simp] theorem setFgr64_gpr (n : RegIdx) (v : DWord) : (s.setFgr64 n v).gpr = s.gpr := by unfold State.setFgr64; split <;> rfl
@[simp] theorem setFgr64_hi (n : RegIdx) (v : DWord) : (s.setFgr64 n v).hi = s.hi := by unfold State.setFgr64; split <;> rfl
@[simp] theorem setFgr64_lo (n : RegIdx) (v : DWord) : (s.setFgr64 n v).lo = s.lo := by unfold State.setFgr64; split <;> rfl
@[simp] theorem setFgr64_pc (n : RegIdx) (v : DWord) : (s.setFgr64 n v).pc = s.pc := by unfold State.setFgr64; split <;> rfl
@[simp] theorem setFgr64_branchState (n : RegIdx) (v : DWord) : (s.setFgr64 n v).branchState = s.branchState := by unfold State.setFgr64; split <;> rfl
@[simp] theorem setFgr64_branchTarget (n : RegIdx) (v : DWord) : (s.setFgr64 n v).branchTarget = s.branchTarget := by unfold State.setFgr64; split <;> rfl
@[simp] theorem setFgr64_llBit (n : RegIdx) (v : DWord) : (s.setFgr64 n v).llBit = s.llBit := by unfold State.setFgr64; split <;> rfl
@[simp] theorem setFgr64_excLatch (n : RegIdx) (v : DWord) : (s.setFgr64 n v).excLatch = s.excLatch := by unfold State.setFgr64; split <;> rfl
@[simp] theorem setFgr64_runCycles (n : RegIdx) (v : DWord) : (s.setFgr64 n v).runCycles = s.runCycles := by unfold State.setFgr64; split <;> rfl
@[simp] theorem setFgr64_count33 (n : RegIdx) (v : DWord) : (s.setFgr64 n v).count33 = s.count33 := by unfold State.setFgr64; split <;> rfl
@[simp] theorem setFgr64_stepCycles (n : RegIdx) (v : DWord) : (s.setFgr64 n v).stepCycles = s.stepCycles := by unfold State.setFgr64; split <;> rfl
@[simp] theorem setFgr64_extIp (n : RegIdx) (v : DWord) : (s.setFgr64 n v).extIp = s.extIp := by unfold State.setFgr64; split <;> rfl
@[simp] theorem setFgr64_cop0 (n : RegIdx) (v : DWord) : (s.setFgr64 n v).cop0 = s.cop0 := by unfold State.setFgr64; split <;> rfl
@[simp] theorem setFgr64_fcsr (n : RegIdx) (v : DWord) : (s.setFgr64 n v).fcsr = s.fcsr := by unfold State.setFgr64; split <;> rfl
@[simp] theorem setFgr64_tlb (n : RegIdx) (v : DWord) : (s.setFgr64 n v).tlb = s.tlb := by unfold State.setFgr64; split <;> rfl
@[simp] theorem setFgr64_icache (n : RegIdx) (v : DWord) : (s.setFgr64 n v).icache = s.icache := by unfold State.setFgr64; split <;> rfl
@[simp] theorem setFgr64_dcache (n : RegIdx) (v : DWord) : (s.setFgr64 n v).dcache = s.dcache := by unfold State.setFgr64; split <;> rfl
@[simp] theorem setFgr64_mem (n : RegIdx) (v : DWord) : (s.setFgr64 n v).mem = s.mem := by unfold State.setFgr64; split <;> rfl
@[simp] theorem setFgr64_sched (n : RegIdx) (v : DWord) : (s.setFgr64 n v).sched = s.sched := by unfold State.setFgr64; split <;> rfl
@[simp] theorem setFgr64_mi (n : RegIdx) (v : DWord) : (s.setFgr64 n v).mi = s.mi := by unfold State.setFgr64; split <;> rfl
@[simp] theorem setFgr64_vi (n : RegIdx) (v : DWord) : (s.setFgr64 n v).vi = s.vi := by unfold State.setFgr64; split <;> rfl
@[simp] theorem setFgr64_ai (n : RegIdx) (v : DWord) : (s.setFgr64 n v).ai = s.ai := by unfold State.setFgr64; split <;> rfl
@[simp] theorem setFgr64_pi (n : RegIdx) (v : DWord) : (s.setFgr64 n v).pi = s.pi := by unfold State.setFgr64; split <;> rfl
@[simp] theorem setFgr64_ri (n : RegIdx) (v : DWord) : (s.setFgr64 n v).ri = s.ri := by unfold State.setFgr64; split <;> rfl
@[simp] theorem setFgr64_si (n : RegIdx) (v : DWord) : (s.setFgr64 n v).si = s.si := by unfold State.setFgr64; split <;> rfl
@[simp] theorem setFgr64_padState (n : RegIdx) (v : DWord) : (s.setFgr64 n v).padState = s.padState := by unfold State.setFgr64; split <;> rfl
@[simp] theorem setFgr64_cpuCarry (n : RegIdx) (v : DWord) : (s.setFgr64 n v).cpuCarry = s.cpuCarry := by unfold State.setFgr64; split <;> rfl
@[simp] theorem setFgr64_rspCarry (n : RegIdx) (v : DWord) : (s.setFgr64 n v).rspCarry = s.rspCarry := by unfold State.setFgr64; split <;> rfl
@[simp] theorem setFgr64_advancing (n : RegIdx) (v : DWord) : (s.setFgr64 n v).advancing = s.advancing := by unfold State.setFgr64; split <;> rfl
@[simp] theorem setFgr64_stop (n : RegIdx) (v : DWord) : (s.setFgr64 n v).stop = s.stop := by unfold State.setFgr64; split <;> rfl
@[simp] theorem setFgr64_firmwareLoaded (n : RegIdx) (v : DWord) : (s.setFgr64 n v).firmwareLoaded = s.firmwareLoaded := by unfold State.setFgr64; split <;> rfl
@[simp] theorem setFgr64_initialised (n : RegIdx) (v : DWord) : (s.setFgr64 n v).initialised = s.initialised := by unfold State.setFgr64; split <;> rfl
@[simp] theorem setFgr64_inputs (n : RegIdx) (v : DWord) : (s.setFgr64 n v).inputs = s.inputs := by unfold State.setFgr64; split <;> rfl
@[simp] theorem setFgr64_outputs (n : RegIdx) (v : DWord) : (s.setFgr64 n v).outputs = s.outputs := by unfold State.setFgr64; split <;> rfl
@[simp] theorem setFgr64_collabState (n : RegIdx) (v : DWord) : (s.setFgr64 n v).collabState = s.collabState := by unfold State.setFgr64; split <;> rfl
@[simp] theorem setFgr64_cfg (n : RegIdx) (v : DWord) : (s.setFgr64 n v).cfg = s.cfg := by unfold State.setFgr64; split <;> rfl
@[simp] theorem setFgr64_x (n : RegIdx) (v : DWord) (q : RegIdx) : (s.setFgr64 n v).x q = s.x q := by simp [State.x]
@[simp] theorem setFgr64_mode (n : RegIdx) (v : DWord) : (s.setFgr64 n v).mode = s.mode := mode_of_cop0 (by simp)

@[simp] theorem fpWrite_gpr (f : FpFmt) (n : RegIdx) (v : DWord) : (s.fpWrite f n v).gpr = s.gpr := by cases f <;> simp [State.fpWrite]
@[simp] theorem fpWrite_hi (f : FpFmt) (n : RegIdx) (v : DWord) : (s.fpWrite f n v).hi = s.hi := by cases f <;> simp [State.fpWrite]
@[simp] theorem fpWrite_lo (f : FpFmt) (n : RegIdx) (v : DWord) : (s.fpWrite f n v).lo = s.lo := by cases f <;> simp [State.fpWrite]
@[simp] theorem fpWrite_pc (f : FpFmt) (n : RegIdx) (v : DWord) : (s.fpWrite f n v).pc = s.pc := by cases f <;> simp [State.fpWrite]
@[simp] theorem fpWrite_branchState (f : FpFmt) (n : RegIdx) (v : DWord) : (s.fpWrite f n v).branchState = s.branchState := by cases f <;> simp [State.fpWrite]
@[simp] theorem fpWrite_branchTarget (f : FpFmt) (n : RegIdx) (v : DWord) : (s.fpWrite f n v).branchTarget = s.branchTarget := by cases f <;> simp [State.fpWrite]
@[simp] theorem fpWrite_llBit (f : FpFmt) (n : RegIdx) (v : DWord) : (s.fpWrite f n v).llBit = s.llBit := by cases f <;> simp [State.fpWrite]
@[simp] theorem fpWrite_excLatch (f : FpFmt) (n : RegIdx) (v : DWord) : (s.fpWrite f n v).excLatch = s.excLatch := by cases f <;> simp [State.fpWrite]
@[simp] theorem fpWrite_runCycles (f : FpFmt) (n : RegIdx) (v : DWord) : (s.fpWrite f n v).runCycles = s.runCycles := by cases f <;> simp [State.fpWrite]
@[simp] theorem fpWrite_count33 (f : FpFmt) (n : RegIdx) (v : DWord) : (s.fpWrite f n v).count33 = s.count33 := by cases f <;> simp [State.fpWrite]
@[simp] theorem fpWrite_stepCycles (f : FpFmt) (n : RegIdx) (v : DWord) : (s.fpWrite f n v).stepCycles = s.stepCycles := by cases f <;> simp [State.fpWrite]
@[simp] theorem fpWrite_extIp (f : FpFmt) (n : RegIdx) (v : DWord) : (s.fpWrite f n v).extIp = s.extIp := by cases f <;> simp [State.fpWrite]
@[simp] theorem fpWrite_cop0 (f : FpFmt) (n : RegIdx) (v : DWord) : (s.fpWrite f n v).cop0 = s.cop0 := by cases f <;> simp [State.fpWrite]
@[simp] theorem fpWrite_fcsr (f : FpFmt) (n : RegIdx) (v : DWord) : (s.fpWrite f n v).fcsr = s.fcsr := by cases f <;> simp [State.fpWrite]
@[simp] theorem fpWrite_tlb (f : FpFmt) (n : RegIdx) (v : DWord) : (s.fpWrite f n v).tlb = s.tlb := by cases f <;> simp [State.fpWrite]
@[simp] theorem fpWrite_icache (f : FpFmt) (n : RegIdx) (v : DWord) : (s.fpWrite f n v).icache = s.icache := by cases f <;> simp [State.fpWrite]
@[simp] theorem fpWrite_dcache (f : FpFmt) (n : RegIdx) (v : DWord) : (s.fpWrite f n v).dcache = s.dcache := by cases f <;> simp [State.fpWrite]
@[simp] theorem fpWrite_mem (f : FpFmt) (n : RegIdx) (v : DWord) : (s.fpWrite f n v).mem = s.mem := by cases f <;> simp [State.fpWrite]
@[simp] theorem fpWrite_sched (f : FpFmt) (n : RegIdx) (v : DWord) : (s.fpWrite f n v).sched = s.sched := by cases f <;> simp [State.fpWrite]
@[simp] theorem fpWrite_mi (f : FpFmt) (n : RegIdx) (v : DWord) : (s.fpWrite f n v).mi = s.mi := by cases f <;> simp [State.fpWrite]
@[simp] theorem fpWrite_vi (f : FpFmt) (n : RegIdx) (v : DWord) : (s.fpWrite f n v).vi = s.vi := by cases f <;> simp [State.fpWrite]
@[simp] theorem fpWrite_ai (f : FpFmt) (n : RegIdx) (v : DWord) : (s.fpWrite f n v).ai = s.ai := by cases f <;> simp [State.fpWrite]
@[simp] theorem fpWrite_pi (f : FpFmt) (n : RegIdx) (v : DWord) : (s.fpWrite f n v).pi = s.pi := by cases f <;> simp [State.fpWrite]
@[simp] theorem fpWrite_ri (f : FpFmt) (n : RegIdx) (v : DWord) : (s.fpWrite f n v).ri = s.ri := by cases f <;> simp [State.fpWrite]
@[simp] theorem fpWrite_si (f : FpFmt) (n : RegIdx) (v : DWord) : (s.fpWrite f n v).si = s.si := by cases f <;> simp [State.fpWrite]
@[simp] theorem fpWrite_padState (f : FpFmt) (n : RegIdx) (v : DWord) : (s.fpWrite f n v).padState = s.padState := by cases f <;> simp [State.fpWrite]
@[simp] theorem fpWrite_cpuCarry (f : FpFmt) (n : RegIdx) (v : DWord) : (s.fpWrite f n v).cpuCarry = s.cpuCarry := by cases f <;> simp [State.fpWrite]
@[simp] theorem fpWrite_rspCarry (f : FpFmt) (n : RegIdx) (v : DWord) : (s.fpWrite f n v).rspCarry = s.rspCarry := by cases f <;> simp [State.fpWrite]
@[simp] theorem fpWrite_advancing (f : FpFmt) (n : RegIdx) (v : DWord) : (s.fpWrite f n v).advancing = s.advancing := by cases f <;> simp [State.fpWrite]
@[simp] theorem fpWrite_stop (f : FpFmt) (n : RegIdx) (v : DWord) : (s.fpWrite f n v).stop = s.stop := by cases f <;> simp [State.fpWrite]
@[simp] theorem fpWrite_firmwareLoaded (f : FpFmt) (n : RegIdx) (v : DWord) : (s.fpWrite f n v).firmwareLoaded = s.firmwareLoaded := by cases f <;> simp [State.fpWrite]
@[simp] theorem fpWrite_initialised (f : FpFmt) (n : RegIdx) (v : DWord) : (s.fpWrite f n v).initialised = s.initialised := by cases f <;> simp [State.fpWrite]
@[simp] theorem fpWrite_inputs (f : FpFmt) (n : RegIdx) (v : DWord) : (s.fpWrite f n v).inputs = s.inputs := by cases f <;> simp [State.fpWrite]
@[simp] theorem fpWrite_outputs (f : FpFmt) (n : RegIdx) (v : DWord) : (s.fpWrite f n v).outputs = s.outputs := by cases f <;> simp [State.fpWrite]
@[simp] theorem fpWrite_collabState (f : FpFmt) (n : RegIdx) (v : DWord) : (s.fpWrite f n v).collabState = s.collabState := by cases f <;> simp [State.fpWrite]
@[simp] theorem fpWrite_cfg (f : FpFmt) (n : RegIdx) (v : DWord) : (s.fpWrite f n v).cfg = s.cfg := by cases f <;> simp [State.fpWrite]
@[simp] theorem fpWrite_x (f : FpFmt) (n : RegIdx) (v : DWord) (q : RegIdx) : (s.fpWrite f n v).x q = s.x q := by simp [State.x]
@[simp] theorem fpWrite_mode (f : FpFmt) (n : RegIdx) (v : DWord) : (s.fpWrite f n v).mode = s.mode := mode_of_cop0 (by simp)

@[simp] theorem setFcsr_gpr (w : Word) : (s.setFcsr w).gpr = s.gpr := rfl
@[simp] theorem setFcsr_hi (w : Word) : (s.setFcsr w).hi = s.hi := rfl
@[simp] theorem setFcsr_lo (w : Word) : (s.setFcsr w).lo = s.lo := rfl
@[simp] theorem setFcsr_pc (w : Word) : (s.setFcsr w).pc = s.pc := rfl
@[simp] theorem setFcsr_branchState (w : Word) : (s.setFcsr w).branchState = s.branchState := rfl
@[simp] theorem setFcsr_branchTarget (w : Word) : (s.setFcsr w).branchTarget = s.branchTarget := rfl
@[simp] theorem setFcsr_llBit (w : Word) : (s.setFcsr w).llBit = s.llBit := rfl
@[simp] theorem setFcsr_excLatch (w : Word) : (s.setFcsr w).excLatch = s.excLatch := rfl
@[simp] theorem setFcsr_runCycles (w : Word) : (s.setFcsr w).runCycles = s.runCycles := rfl
@[simp] theorem setFcsr_count33 (w : Word) : (s.setFcsr w).count33 = s.count33 := rfl
@[simp] theorem setFcsr_stepCycles (w : Word) : (s.setFcsr w).stepCycles = s.stepCycles := rfl
@[simp] theorem setFcsr_extIp (w : Word) : (s.setFcsr w).extIp = s.extIp := rfl
@[simp] theorem setFcsr_cop0 (w : Word) : (s.setFcsr w).cop0 = s.cop0 := rfl
@[simp] theorem setFcsr_fpr (w : Word) : (s.setFcsr w).fpr = s.fpr := rfl
@[simp] theorem setFcsr_tlb (w : Word) : (s.setFcsr w).tlb = s.tlb := rfl
@[simp] theorem setFcsr_icache (w : Word) : (s.setFcsr w).icache = s.icache := rfl
@[simp] theorem setFcsr_dcache (w : Word) : (s.setFcsr w).dcache = s.dcache := rfl
@[simp] theorem setFcsr_mem (w : Word) : (s.setFcsr w).mem = s.mem := rfl
@[simp] theorem setFcsr_sched (w : Word) : (s.setFcsr w).sched = s.sched := rfl
@[simp] theorem setFcsr_mi (w : Word) : (s.setFcsr w).mi = s.mi := rfl
@[simp] theorem setFcsr_vi (w : Word) : (s.setFcsr w).vi = s.vi := rfl
@[simp] theorem setFcsr_ai (w : Word) : (s.setFcsr w).ai = s.ai := rfl
@[simp] theorem setFcsr_pi (w : Word) : (s.setFcsr w).pi = s.pi := rfl
@[simp] theorem setFcsr_ri (w : Word) : (s.setFcsr w).ri = s.ri := rfl
@[simp] theorem setFcsr_si (w : Word) : (s.setFcsr w).si = s.si := rfl
@[simp] theorem setFcsr_padState (w : Word) : (s.setFcsr w).padState = s.padState := rfl
@[simp] theorem setFcsr_cpuCarry (w : Word) : (s.setFcsr w).cpuCarry = s.cpuCarry := rfl
@[simp] theorem setFcsr_rspCarry (w : Word) : (s.setFcsr w).rspCarry = s.rspCarry := rfl
@[simp] theorem setFcsr_advancing (w : Word) : (s.setFcsr w).advancing = s.advancing := rfl
@[simp] theorem setFcsr_stop (w : Word) : (s.setFcsr w).stop = s.stop := rfl
@[simp] theorem setFcsr_firmwareLoaded (w : Word) : (s.setFcsr w).firmwareLoaded = s.firmwareLoaded := rfl
@[simp] theorem setFcsr_initialised (w : Word) : (s.setFcsr w).initialised = s.initialised := rfl
@[simp] theorem setFcsr_inputs (w : Word) : (s.setFcsr w).inputs = s.inputs := rfl
@[simp] theorem setFcsr_outputs (w : Word) : (s.setFcsr w).outputs = s.outputs := rfl
@[simp] theorem setFcsr_collabState (w : Word) : (s.setFcsr w).collabState = s.collabState := rfl
@[simp] theorem setFcsr_cfg (w : Word) : (s.setFcsr w).cfg = s.cfg := rfl
@[simp] theorem setFcsr_x (w : Word) (q : RegIdx) : (s.setFcsr w).x q = s.x q := by simp [State.x]
@[simp] theorem setFcsr_mode (w : Word) : (s.setFcsr w).mode = s.mode := mode_of_cop0 (by simp)

@[simp] theorem link_hi : (link s).hi = s.hi := by simp [link]
@[simp] theorem link_lo : (link s).lo = s.lo := by simp [link]
@[simp] theorem link_pc : (link s).pc = s.pc := by simp [link]
@[simp] theorem link_branchState : (link s).branchState = s.branchState := by simp [link]
@[simp] theorem link_branchTarget : (link s).branchTarget = s.branchTarget := by simp [link]
@[simp] theorem link_llBit : (link s).llBit = s.llBit := by simp [link]
@[simp] theorem link_excLatch : (link s).excLatch = s.excLatch := by simp [link]
@[simp] theorem link_runCycles : (link s).runCycles = s.runCycles := by simp [link]
@[simp] theorem link_count33 : (link s).count33 = s.count33 := by simp [link]
@[simp] theorem link_stepCycles : (link s).stepCycles = s.stepCycles := by simp [link]
@[simp] theorem link_extIp : (link s).extIp = s.extIp := by simp [link]
@[simp] theorem link_cop0 : (link s).cop0 = s.cop0 := by simp [link]
@[simp] theorem link_fpr : (link s).fpr = s.fpr := by simp [link]
@[simp] theorem link_fcsr : (link s).fcsr = s.fcsr := by simp [link]
@[simp] theorem link_tlb : (link s).tlb = s.tlb := by simp [link]
@[simp] theorem link_icache : (link s).icache = s.icache := by simp [link]
@[simp] theorem link_dcache : (link s).dcache = s.dcache := by simp [link]
@[simp] theorem link_mem : (link s).mem = s.mem := by simp [link]
@[simp] theorem link_sched : (link s).sched = s.sched := by simp [link]
@[simp] theorem link_mi : (link s).mi = s.mi := by simp [link]
@[simp] theorem link_vi : (link s).vi = s.vi := by simp [link]
@[simp] theorem link_ai : (link s).ai = s.ai := by simp [link]
@[simp] theorem link_pi : (link s).pi = s.pi := by simp [link]
@[simp] theorem link_ri : (link s).ri = s.ri := by simp [link]
@[simp] theorem link_si : (link s).si = s.si := by simp [link]
@[simp] theorem link_padState : (link s).padState = s.padState := by simp [link]
@[simp] theorem link_cpuCarry : (link s).cpuCarry = s.cpuCarry := by simp [link]
@[simp] theorem link_rspCarry : (link s).rspCarry = s.rspCarry := by simp [link]
@[simp] theorem link_advancing : (link s).advancing = s.advancing := by simp [link]
@[simp] theorem link_stop : (link s).stop = s.stop := by simp [link]
@[simp] theorem link_firmwareLoaded : (link s).firmwareLoaded = s.firmwareLoaded := by simp [link]
@[simp] theorem link_initialised : (link s).initialised = s.initialised := by simp [link]
@[simp] theorem link_inputs : (link s).inputs = s.inputs := by simp [link]
@[simp] theorem link_outputs : (link s).outputs = s.outputs := by simp [link]
@[simp] theorem link_collabState : (link s).collabState = s.collabState := by simp [link]
@[simp] theorem link_cfg : (link s).cfg = s.cfg := by simp [link]
@[simp] theorem link_mode : (link s).mode = s.mode := mode_of_cop0 (by simp)

@[simp] theorem reserve_gpr (pa : Word) : (s.reserve pa).gpr = s.gpr := rfl
@[simp] theorem reserve_hi (pa : Word) : (s.reserve pa).hi = s.hi := rfl
@[simp] theorem reserve_lo (pa : Word) : (s.reserve pa).lo = s.lo := rfl
@[simp] theorem reserve_pc (pa : Word) : (s.reserve pa).pc = s.pc := rfl
@[simp] theorem reserve_branchState (pa : Word) : (s.reserve pa).branchState = s.branchState := rfl
@[simp] theorem reserve_branchTarget (pa : Word) : (s.reserve pa).branchTarget = s.branchTarget := rfl
@[simp] theorem reserve_excLatch (pa : Word) : (s.reserve pa).excLatch = s.excLatch := rfl
@[simp] theorem reserve_runCycles (pa : Word) : (s.reserve pa).runCycles = s.runCycles := rfl
@[simp] theorem reserve_count33 (pa : Word) : (s.reserve pa).count33 = s.count33 := rfl
@[simp] theorem reserve_stepCycles (pa : Word) : (s.reserve pa).stepCycles = s.stepCycles := rfl
@[simp] theorem reserve_extIp (pa : Word) : (s.reserve pa).extIp = s.extIp := rfl
@[simp] theorem reserve_fpr (pa : Word) : (s.reserve pa).fpr = s.fpr := rfl
@[simp] theorem reserve_fcsr (pa : Word) : (s.reserve pa).fcsr = s.fcsr := rfl
@[simp] theorem reserve_tlb (pa : Word) : (s.reserve pa).tlb = s.tlb := rfl
@[simp] theorem reserve_icache (pa : Word) : (s.reserve pa).icache = s.icache := rfl
@[simp] theorem reserve_dcache (pa : Word) : (s.reserve pa).dcache = s.dcache := rfl
@[simp] theorem reserve_mem (pa : Word) : (s.reserve pa).mem = s.mem := rfl
@[simp] theorem reserve_sched (pa : Word) : (s.reserve pa).sched = s.sched := rfl
@[simp] theorem reserve_mi (pa : Word) : (s.reserve pa).mi = s.mi := rfl
@[simp] theorem reserve_vi (pa : Word) : (s.reserve pa).vi = s.vi := rfl
@[simp] theorem reserve_ai (pa : Word) : (s.reserve pa).ai = s.ai := rfl
@[simp] theorem reserve_pi (pa : Word) : (s.reserve pa).pi = s.pi := rfl
@[simp] theorem reserve_ri (pa : Word) : (s.reserve pa).ri = s.ri := rfl
@[simp] theorem reserve_si (pa : Word) : (s.reserve pa).si = s.si := rfl
@[simp] theorem reserve_padState (pa : Word) : (s.reserve pa).padState = s.padState := rfl
@[simp] theorem reserve_cpuCarry (pa : Word) : (s.reserve pa).cpuCarry = s.cpuCarry := rfl
@[simp] theorem reserve_rspCarry (pa : Word) : (s.reserve pa).rspCarry = s.rspCarry := rfl
@[simp] theorem reserve_advancing (pa : Word) : (s.reserve pa).advancing = s.advancing := rfl
@[simp] theorem reserve_stop (pa : Word) : (s.reserve pa).stop = s.stop := rfl
@[simp] theorem reserve_firmwareLoaded (pa : Word) : (s.reserve pa).firmwareLoaded = s.firmwareLoaded := rfl
@[simp] theorem reserve_initialised (pa : Word) : (s.reserve pa).initialised = s.initialised := rfl
@[simp] theorem reserve_inputs (pa : Word) : (s.reserve pa).inputs = s.inputs := rfl
@[simp] theorem reserve_outputs (pa : Word) : (s.reserve pa).outputs = s.outputs := rfl
@[simp] theorem reserve_collabState (pa : Word) : (s.reserve pa).collabState = s.collabState := rfl
@[simp] theorem reserve_cfg (pa : Word) : (s.reserve pa).cfg = s.cfg := rfl
@[simp] theorem reserve_x (pa : Word) (q : RegIdx) : (s.reserve pa).x q = s.x q := by simp [State.x]

@[simp] theorem setILine_gpr (pa : Word) (l : ILine) : (s.setILine pa l).gpr = s.gpr := rfl
@[simp] theorem setILine_hi (pa : Word) (l : ILine) : (s.setILine pa l).hi = s.hi := rfl
@[simp] theorem setILine_lo (pa : Word) (l : ILine) : (s.setILine pa l).lo = s.lo := rfl
@[simp] theorem setILine_pc (pa : Word) (l : ILine) : (s.setILine pa l).pc = s.pc := rfl
@[simp] theorem setILine_branchState (pa : Word) (l : ILine) : (s.setILine pa l).branchState = s.branchState := rfl
@[simp] theorem setILine_branchTarget (pa : Word) (l : ILine) : (s.setILine pa l).branchTarget = s.branchTarget := rfl
@[simp] theorem setILine_llBit (pa : Word) (l : ILine) : (s.setILine pa l).llBit = s.llBit := rfl
@[simp] theorem setILine_excLatch (pa : Word) (l : ILine) : (s.setILine pa l).excLatch = s.excLatch := rfl
@[simp] theorem setILine_runCycles (pa : Word) (l : ILine) : (s.setILine pa l).runCycles = s.runCycles := rfl
@[simp] theorem setILine_count33 (pa : Word) (l : ILine) : (s.setILine pa l).count33 = s.count33 := rfl
@[simp] theorem setILine_stepCycles (pa : Word) (l : ILine) : (s.setILine pa l).stepCycles = s.stepCycles := rfl
@[simp] theorem setILine_extIp (pa : Word) (l : ILine) : (s.setILine pa l).extIp = s.extIp := rfl
@[simp] theorem setILine_cop0 (pa : Word) (l : ILine) : (s.setILine pa l).cop0 = s.cop0 := rfl
@[simp] theorem setILine_fpr (pa : Word) (l : ILine) : (s.setILine pa l).fpr = s.fpr := rfl
@[simp] theorem setILine_fcsr (pa : Word) (l : ILine) : (s.setILine pa l).fcsr = s.fcsr := rfl
@[simp] theorem setILine_tlb (pa : Word) (l : ILine) : (s.setILine pa l).tlb = s.tlb := rfl
@[simp] theorem setILine_dcache (pa : Word) (l : ILine) : (s.setILine pa l).dcache = s.dcache := rfl
@[simp] theorem setILine_mem (pa : Word) (l : ILine) : (s.setILine pa l).mem = s.mem := rfl
@[simp] theorem setILine_sched (pa : Word) (l : ILine) : (s.setILine pa l).sched = s.sched := rfl
@[simp] theorem setILine_mi (pa : Word) (l : ILine) : (s.setILine pa l).mi = s.mi := rfl
@[simp] theorem setILine_vi (pa : Word) (l : ILine) : (s.setILine pa l).vi = s.vi := rfl
@[simp] theorem setILine_ai (pa : Word) (l : ILine) : (s.setILine pa l).ai = s.ai := rfl
@[simp] theorem setILine_pi (pa : Word) (l : ILine) : (s.setILine pa l).pi = s.pi := rfl
@[simp] theorem setILine_ri (pa : Word) (l : ILine) : (s.setILine pa l).ri = s.ri := rfl
@[simp] theorem setILine_si (pa : Word) (l : ILine) : (s.setILine pa l).si = s.si := rfl
@[simp] theorem setILine_padState (pa : Word) (l : ILine) : (s.setILine pa l).padState = s.padState := rfl
@[simp] theorem setILine_cpuCarry (pa : Word) (l : ILine) : (s.setILine pa l).cpuCarry = s.cpuCarry := rfl
@[simp] theorem setILine_rspCarry (pa : Word) (l : ILine) : (s.setILine pa l).rspCarry = s.rspCarry := rfl
@[simp] theorem setILine_advancing (pa : Word) (l : ILine) : (s.setILine pa l).advancing = s.advancing := rfl
@[simp] theorem setILine_stop (pa : Word) (l : ILine) : (s.setILine pa l).stop = s.stop := rfl
@[simp] theorem setILine_firmwareLoaded (pa : Word) (l : ILine) : (s.setILine pa l).firmwareLoaded = s.firmwareLoaded := rfl
@[simp] theorem setILine_initialised (pa : Word) (l : ILine) : (s.setILine pa l).initialised = s.initialised := rfl
@[simp] theorem setILine_inputs (pa : Word) (l : ILine) : (s.setILine pa l).inputs = s.inputs := rfl
@[simp] theorem setILine_outputs (pa : Word) (l : ILine) : (s.setILine pa l).outputs = s.outputs := rfl
@[simp] theorem setILine_collabState (pa : Word) (l : ILine) : (s.setILine pa l).collabState = s.collabState := rfl
@[simp] theorem setILine_cfg (pa : Word) (l : ILine) : (s.setILine pa l).cfg = s.cfg := rfl
@[simp] theorem setILine_x (pa : Word) (l : ILine) (q : RegIdx) : (s.setILine pa l).x q = s.x q := by simp [State.x]
@[simp] theorem setILine_mode (pa : Word) (l : ILine) : (s.setILine pa l).mode = s.mode := mode_of_cop0 (by simp)

@[simp] theorem setDLine_gpr (pa : Word) (l : DLine) : (s.setDLine pa l).gpr = s.gpr := rfl
@[simp] theorem setDLine_hi (pa : Word) (l : DLine) : (s.setDLine pa l).hi = s.hi := rfl
@[simp] theorem setDLine_lo (pa : Word) (l : DLine) : (s.setDLine pa l).lo = s.lo := rfl
@[simp] theorem setDLine_pc (pa : Word) (l : DLine) : (s.setDLine pa l).pc = s.pc := rfl
@[simp] theorem setDLine_branchState (pa : Word) (l : DLine) : (s.setDLine pa l).branchState = s.branchState := rfl
@[simp] theorem setDLine_branchTarget (pa : Word) (l : DLine) : (s.setDLine pa l).branchTarget = s.branchTarget := rfl
@[simp] theorem setDLine_llBit (pa : Word) (l : DLine) : (s.setDLine pa l).llBit = s.llBit := rfl
@[simp] theorem setDLine_excLatch (pa : Word) (l : DLine) : (s.setDLine pa l).excLatch = s.excLatch := rfl
@[simp] theorem setDLine_runCycles (pa : Word) (l : DLine) : (s.setDLine pa l).runCycles = s.runCycles := rfl
@[simp] theorem setDLine_count33 (pa : Word) (l : DLine) : (s.setDLine pa l).count33 = s.count33 := rfl
@[simp] theorem setDLine_stepCycles (pa : Word) (l : DLine) : (s.setDLine pa l).stepCycles = s.stepCycles := rfl
@[simp] theorem setDLine_extIp (pa : Word) (l : DLine) : (s.setDLine pa l).extIp = s.extIp := rfl
@[simp] theorem setDLine_cop0 (pa : Word) (l : DLine) : (s.setDLine pa l).cop0 = s.cop0 := rfl
@[simp] theorem setDLine_fpr (pa : Word) (l : DLine) : (s.setDLine pa l).fpr = s.fpr := rfl
@[simp] theorem setDLine_fcsr (pa : Word) (l : DLine) : (s.setDLine pa l).fcsr = s.fcsr := rfl
@[simp] theorem setDLine_tlb (pa : Word) (l : DLine) : (s.setDLine pa l).tlb = s.tlb := rfl
@[simp] theorem setDLine_icache (pa : Word) (l : DLine) : (s.setDLine pa l).icache = s.icache := rfl
@[simp] theorem setDLine_mem (pa : Word) (l : DLine) : (s.setDLine pa l).mem = s.mem := rfl
@[simp] theorem setDLine_sched (pa : Word) (l : DLine) : (s.setDLine pa l).sched = s.sched := rfl
@[simp] theorem setDLine_mi (pa : Word) (l : DLine) : (s.setDLine pa l).mi = s.mi := rfl
@[simp] theorem setDLine_vi (pa : Word) (l : DLine) : (s.setDLine pa l).vi = s.vi := rfl
@[simp] theorem setDLine_ai (pa : Word) (l : DLine) : (s.setDLine pa l).ai = s.ai := rfl
@[simp] theorem setDLine_pi (pa : Word) (l : DLine) : (s.setDLine pa l).pi = s.pi := rfl
@[simp] theorem setDLine_ri (pa : Word) (l : DLine) : (s.setDLine pa l).ri = s.ri := rfl
@[simp] theorem setDLine_si (pa : Word) (l : DLine) : (s.setDLine pa l).si = s.si := rfl
@[simp] theorem setDLine_padState (pa : Word) (l : DLine) : (s.setDLine pa l).padState = s.padState := rfl
@[simp] theorem setDLine_cpuCarry (pa : Word) (l : DLine) : (s.setDLine pa l).cpuCarry = s.cpuCarry := rfl
@[simp] theorem setDLine_rspCarry (pa : Word) (l : DLine) : (s.setDLine pa l).rspCarry = s.rspCarry := rfl
@[simp] theorem setDLine_advancing (pa : Word) (l : DLine) : (s.setDLine pa l).advancing = s.advancing := rfl
@[simp] theorem setDLine_stop (pa : Word) (l : DLine) : (s.setDLine pa l).stop = s.stop := rfl
@[simp] theorem setDLine_firmwareLoaded (pa : Word) (l : DLine) : (s.setDLine pa l).firmwareLoaded = s.firmwareLoaded := rfl
@[simp] theorem setDLine_initialised (pa : Word) (l : DLine) : (s.setDLine pa l).initialised = s.initialised := rfl
@[simp] theorem setDLine_inputs (pa : Word) (l : DLine) : (s.setDLine pa l).inputs = s.inputs := rfl
@[simp] theorem setDLine_outputs (pa : Word) (l : DLine) : (s.setDLine pa l).outputs = s.outputs := rfl
@[simp] theorem setDLine_collabState (pa : Word) (l : DLine) : (s.setDLine pa l).collabState = s.collabState := rfl
@[simp] theorem setDLine_cfg (pa : Word) (l : DLine) : (s.setDLine pa l).cfg = s.cfg := rfl
@[simp] theorem setDLine_x (pa : Word) (l : DLine) (q : RegIdx) : (s.setDLine pa l).x q = s.x q := by simp [State.x]
@[simp] theorem setDLine_mode (pa : Word) (l : DLine) : (s.setDLine pa l).mode = s.mode := mode_of_cop0 (by simp)

@[simp] theorem setTagLo_gpr (w : Word) : (s.setTagLo w).gpr = s.gpr := rfl
@[simp] theorem setTagLo_hi (w : Word) : (s.setTagLo w).hi = s.hi := rfl
@[simp] theorem setTagLo_lo (w : Word) : (s.setTagLo w).lo = s.lo := rfl
@[simp] theorem setTagLo_pc (w : Word) : (s.setTagLo w).pc = s.pc := rfl
@[simp] theorem setTagLo_branchState (w : Word) : (s.setTagLo w).branchState = s.branchState := rfl
@[simp] theorem setTagLo_branchTarget (w : Word) : (s.setTagLo w).branchTarget = s.branchTarget := rfl
@[simp] theorem setTagLo_llBit (w : Word) : (s.setTagLo w).llBit = s.llBit := rfl
@[simp] theorem setTagLo_excLatch (w : Word) : (s.setTagLo w).excLatch = s.excLatch := rfl
@[simp] theorem setTagLo_runCycles (w : Word) : (s.setTagLo w).runCycles = s.runCycles := rfl
@[simp] theorem setTagLo_count33 (w : Word) : (s.setTagLo w).count33 = s.count33 := rfl
@[simp] theorem setTagLo_stepCycles (w : Word) : (s.setTagLo w).stepCycles = s.stepCycles := rfl
@[simp] theorem setTagLo_extIp (w : Word) : (s.setTagLo w).extIp = s.extIp := rfl
@[simp] theorem setTagLo_fpr (w : Word) : (s.setTagLo w).fpr = s.fpr := rfl
@[simp] theorem setTagLo_fcsr (w : Word) : (s.setTagLo w).fcsr = s.fcsr := rfl
@[simp] theorem setTagLo_tlb (w : Word) : (s.setTagLo w).tlb = s.tlb := rfl
@[simp] theorem setTagLo_icache (w : Word) : (s.setTagLo w).icache = s.icache := rfl
@[simp] theorem setTagLo_dcache (w : Word) : (s.setTagLo w).dcache = s.dcache := rfl
@[simp] theorem setTagLo_mem (w : Word) : (s.setTagLo w).mem = s.mem := rfl
@[simp] theorem setTagLo_sched (w : Word) : (s.setTagLo w).sched = s.sched := rfl
@[simp] theorem setTagLo_mi (w : Word) : (s.setTagLo w).mi = s.mi := rfl
@[simp] theorem setTagLo_vi (w : Word) : (s.setTagLo w).vi = s.vi := rfl
@[simp] theorem setTagLo_ai (w : Word) : (s.setTagLo w).ai = s.ai := rfl
@[simp] theorem setTagLo_pi (w : Word) : (s.setTagLo w).pi = s.pi := rfl
@[simp] theorem setTagLo_ri (w : Word) : (s.setTagLo w).ri = s.ri := rfl
@[simp] theorem setTagLo_si (w : Word) : (s.setTagLo w).si = s.si := rfl
@[simp] theorem setTagLo_padState (w : Word) : (s.setTagLo w).padState = s.padState := rfl
@[simp] theorem setTagLo_cpuCarry (w : Word) : (s.setTagLo w).cpuCarry = s.cpuCarry := rfl
@[simp] theorem setTagLo_rspCarry (w : Word) : (s.setTagLo w).rspCarry = s.rspCarry := rfl
@[simp] theorem setTagLo_advancing (w : Word) : (s.setTagLo w).advancing = s.advancing := rfl
@[simp] theorem setTagLo_stop (w : Word) : (s.setTagLo w).stop = s.stop := rfl
@[simp] theorem setTagLo_firmwareLoaded (w : Word) : (s.setTagLo w).firmwareLoaded = s.firmwareLoaded := rfl
@[simp] theorem setTagLo_initialised (w : Word) : (s.setTagLo w).initialised = s.initialised := rfl
@[simp] theorem setTagLo_inputs (w : Word) : (s.setTagLo w).inputs = s.inputs := rfl
@[simp] theorem setTagLo_outputs (w : Word) : (s.setTagLo w).outputs = s.outputs := rfl
@[simp] theorem setTagLo_collabState (w : Word) : (s.setTagLo w).collabState = s.collabState := rfl
@[simp] theorem setTagLo_cfg (w : Word) : (s.setTagLo w).cfg = s.cfg := rfl
@[simp] theorem setTagLo_x (w : Word) (q : RegIdx) : (s.setTagLo w).x q = s.x q := by simp [State.x]

@[simp] theorem output_gpr (o : HostOutput) : (s.output o).gpr = s.gpr := rfl
@[simp] theorem output_hi (o : HostOutput) : (s.output o).hi = s.hi := rfl
@[simp] theorem output_lo (o : HostOutput) : (s.output o).lo = s.lo := rfl
@[simp] theorem output_pc (o : HostOutput) : (s.output o).pc = s.pc := rfl
@[simp] theorem output_branchState (o : HostOutput) : (s.output o).branchState = s.branchState := rfl
@[simp] theorem output_branchTarget (o : HostOutput) : (s.output o).branchTarget = s.branchTarget := rfl
@[simp] theorem output_llBit (o : HostOutput) : (s.output o).llBit = s.llBit := rfl
@[simp] theorem output_excLatch (o : HostOutput) : (s.output o).excLatch = s.excLatch := rfl
@[simp] theorem output_runCycles (o : HostOutput) : (s.output o).runCycles = s.runCycles := rfl
@[simp] theorem output_count33 (o : HostOutput) : (s.output o).count33 = s.count33 := rfl
@[simp] theorem output_stepCycles (o : HostOutput) : (s.output o).stepCycles = s.stepCycles := rfl
@[simp] theorem output_extIp (o : HostOutput) : (s.output o).extIp = s.extIp := rfl
@[simp] theorem output_cop0 (o : HostOutput) : (s.output o).cop0 = s.cop0 := rfl
@[simp] theorem output_fpr (o : HostOutput) : (s.output o).fpr = s.fpr := rfl
@[simp] theorem output_fcsr (o : HostOutput) : (s.output o).fcsr = s.fcsr := rfl
@[simp] theorem output_tlb (o : HostOutput) : (s.output o).tlb = s.tlb := rfl
@[simp] theorem output_icache (o : HostOutput) : (s.output o).icache = s.icache := rfl
@[simp] theorem output_dcache (o : HostOutput) : (s.output o).dcache = s.dcache := rfl
@[simp] theorem output_mem (o : HostOutput) : (s.output o).mem = s.mem := rfl
@[simp] theorem output_sched (o : HostOutput) : (s.output o).sched = s.sched := rfl
@[simp] theorem output_mi (o : HostOutput) : (s.output o).mi = s.mi := rfl
@[simp] theorem output_vi (o : HostOutput) : (s.output o).vi = s.vi := rfl
@[simp] theorem output_ai (o : HostOutput) : (s.output o).ai = s.ai := rfl
@[simp] theorem output_pi (o : HostOutput) : (s.output o).pi = s.pi := rfl
@[simp] theorem output_ri (o : HostOutput) : (s.output o).ri = s.ri := rfl
@[simp] theorem output_si (o : HostOutput) : (s.output o).si = s.si := rfl
@[simp] theorem output_padState (o : HostOutput) : (s.output o).padState = s.padState := rfl
@[simp] theorem output_cpuCarry (o : HostOutput) : (s.output o).cpuCarry = s.cpuCarry := rfl
@[simp] theorem output_rspCarry (o : HostOutput) : (s.output o).rspCarry = s.rspCarry := rfl
@[simp] theorem output_advancing (o : HostOutput) : (s.output o).advancing = s.advancing := rfl
@[simp] theorem output_stop (o : HostOutput) : (s.output o).stop = s.stop := rfl
@[simp] theorem output_firmwareLoaded (o : HostOutput) : (s.output o).firmwareLoaded = s.firmwareLoaded := rfl
@[simp] theorem output_initialised (o : HostOutput) : (s.output o).initialised = s.initialised := rfl
@[simp] theorem output_inputs (o : HostOutput) : (s.output o).inputs = s.inputs := rfl
@[simp] theorem output_collabState (o : HostOutput) : (s.output o).collabState = s.collabState := rfl
@[simp] theorem output_cfg (o : HostOutput) : (s.output o).cfg = s.cfg := rfl
@[simp] theorem output_x (o : HostOutput) (q : RegIdx) : (s.output o).x q = s.x q := by simp [State.x]
@[simp] theorem output_mode (o : HostOutput) : (s.output o).mode = s.mode := mode_of_cop0 (by simp)

@[simp] theorem setMi_gpr (k : MiSource) : (s.setMi k).gpr = s.gpr := rfl
@[simp] theorem setMi_hi (k : MiSource) : (s.setMi k).hi = s.hi := rfl
@[simp] theorem setMi_lo (k : MiSource) : (s.setMi k).lo = s.lo := rfl
@[simp] theorem setMi_pc (k : MiSource) : (s.setMi k).pc = s.pc := rfl
@[simp] theorem setMi_branchState (k : MiSource) : (s.setMi k).branchState = s.branchState := rfl
@[simp] theorem setMi_branchTarget (k : MiSource) : (s.setMi k).branchTarget = s.branchTarget := rfl
@[simp] theorem setMi_llBit (k : MiSource) : (s.setMi k).llBit = s.llBit := rfl
@[simp] theorem setMi_excLatch (k : MiSource) : (s.setMi k).excLatch = s.excLatch := rfl
@[simp] theorem setMi_runCycles (k : MiSource) : (s.setMi k).runCycles = s.runCycles := rfl
@[simp] theorem setMi_count33 (k : MiSource) : (s.setMi k).count33 = s.count33 := rfl
@[simp] theorem setMi_stepCycles (k : MiSource) : (s.setMi k).stepCycles = s.stepCycles := rfl
@[simp] theorem setMi_extIp (k : MiSource) : (s.setMi k).extIp = s.extIp := rfl
@[simp] theorem setMi_cop0 (k : MiSource) : (s.setMi k).cop0 = s.cop0 := rfl
@[simp] theorem setMi_fpr (k : MiSource) : (s.setMi k).fpr = s.fpr := rfl
@[simp] theorem setMi_fcsr (k : MiSource) : (s.setMi k).fcsr = s.fcsr := rfl
@[simp] theorem setMi_tlb (k : MiSource) : (s.setMi k).tlb = s.tlb := rfl
@[simp] theorem setMi_icache (k : MiSource) : (s.setMi k).icache = s.icache := rfl
@[simp] theorem setMi_dcache (k : MiSource) : (s.setMi k).dcache = s.dcache := rfl
@[simp] theorem setMi_mem (k : MiSource) : (s.setMi k).mem = s.mem := rfl
@[simp] theorem setMi_sched (k : MiSource) : (s.setMi k).sched = s.sched := rfl
@[simp] theorem setMi_vi (k : MiSource) : (s.setMi k).vi = s.vi := rfl
@[simp] theorem setMi_ai (k : MiSource) : (s.setMi k).ai = s.ai := rfl
@[simp] theorem setMi_pi (k : MiSource) : (s.setMi k).pi = s.pi := rfl
@[simp] theorem setMi_ri (k : MiSource) : (s.setMi k).ri = s.ri := rfl
@[simp] theorem setMi_si (k : MiSource) : (s.setMi k).si = s.si := rfl
@[simp] theorem setMi_padState (k : MiSource) : (s.setMi k).padState = s.padState := rfl
@[simp] theorem setMi_cpuCarry (k : MiSource) : (s.setMi k).cpuCarry = s.cpuCarry := rfl
@[simp] theorem setMi_rspCarry (k : MiSource) : (s.setMi k).rspCarry = s.rspCarry := rfl
@[simp] theorem setMi_advancing (k : MiSource) : (s.setMi k).advancing = s.advancing := rfl
@[simp] theorem setMi_stop (k : MiSource) : (s.setMi k).stop = s.stop := rfl
@[simp] theorem setMi_firmwareLoaded (k : MiSource) : (s.setMi k).firmwareLoaded = s.firmwareLoaded := rfl
@[simp] theorem setMi_initialised (k : MiSource) : (s.setMi k).initialised = s.initialised := rfl
@[simp] theorem setMi_inputs (k : MiSource) : (s.setMi k).inputs = s.inputs := rfl
@[simp] theorem setMi_collabState (k : MiSource) : (s.setMi k).collabState = s.collabState := rfl
@[simp] theorem setMi_cfg (k : MiSource) : (s.setMi k).cfg = s.cfg := rfl
@[simp] theorem setMi_x (k : MiSource) (q : RegIdx) : (s.setMi k).x q = s.x q := by simp [State.x]
@[simp] theorem setMi_mode (k : MiSource) : (s.setMi k).mode = s.mode := mode_of_cop0 (by simp)

@[simp] theorem clearMi_gpr (k : MiSource) : (s.clearMi k).gpr = s.gpr := rfl
@[simp] theorem clearMi_hi (k : MiSource) : (s.clearMi k).hi = s.hi := rfl
@[simp] theorem clearMi_lo (k : MiSource) : (s.clearMi k).lo = s.lo := rfl
@[simp] theorem clearMi_pc (k : MiSource) : (s.clearMi k).pc = s.pc := rfl
@[simp] theorem clearMi_branchState (k : MiSource) : (s.clearMi k).branchState = s.branchState := rfl
@[simp] theorem clearMi_branchTarget (k : MiSource) : (s.clearMi k).branchTarget = s.branchTarget := rfl
@[simp] theorem clearMi_llBit (k : MiSource) : (s.clearMi k).llBit = s.llBit := rfl
@[simp] theorem clearMi_excLatch (k : MiSource) : (s.clearMi k).excLatch = s.excLatch := rfl
@[simp] theorem clearMi_runCycles (k : MiSource) : (s.clearMi k).runCycles = s.runCycles := rfl
@[simp] theorem clearMi_count33 (k : MiSource) : (s.clearMi k).count33 = s.count33 := rfl
@[simp] theorem clearMi_stepCycles (k : MiSource) : (s.clearMi k).stepCycles = s.stepCycles := rfl
@[simp] theorem clearMi_extIp (k : MiSource) : (s.clearMi k).extIp = s.extIp := rfl
@[simp] theorem clearMi_cop0 (k : MiSource) : (s.clearMi k).cop0 = s.cop0 := rfl
@[simp] theorem clearMi_fpr (k : MiSource) : (s.clearMi k).fpr = s.fpr := rfl
@[simp] theorem clearMi_fcsr (k : MiSource) : (s.clearMi k).fcsr = s.fcsr := rfl
@[simp] theorem clearMi_tlb (k : MiSource) : (s.clearMi k).tlb = s.tlb := rfl
@[simp] theorem clearMi_icache (k : MiSource) : (s.clearMi k).icache = s.icache := rfl
@[simp] theorem clearMi_dcache (k : MiSource) : (s.clearMi k).dcache = s.dcache := rfl
@[simp] theorem clearMi_mem (k : MiSource) : (s.clearMi k).mem = s.mem := rfl
@[simp] theorem clearMi_sched (k : MiSource) : (s.clearMi k).sched = s.sched := rfl
@[simp] theorem clearMi_vi (k : MiSource) : (s.clearMi k).vi = s.vi := rfl
@[simp] theorem clearMi_ai (k : MiSource) : (s.clearMi k).ai = s.ai := rfl
@[simp] theorem clearMi_pi (k : MiSource) : (s.clearMi k).pi = s.pi := rfl
@[simp] theorem clearMi_ri (k : MiSource) : (s.clearMi k).ri = s.ri := rfl
@[simp] theorem clearMi_si (k : MiSource) : (s.clearMi k).si = s.si := rfl
@[simp] theorem clearMi_padState (k : MiSource) : (s.clearMi k).padState = s.padState := rfl
@[simp] theorem clearMi_cpuCarry (k : MiSource) : (s.clearMi k).cpuCarry = s.cpuCarry := rfl
@[simp] theorem clearMi_rspCarry (k : MiSource) : (s.clearMi k).rspCarry = s.rspCarry := rfl
@[simp] theorem clearMi_advancing (k : MiSource) : (s.clearMi k).advancing = s.advancing := rfl
@[simp] theorem clearMi_stop (k : MiSource) : (s.clearMi k).stop = s.stop := rfl
@[simp] theorem clearMi_firmwareLoaded (k : MiSource) : (s.clearMi k).firmwareLoaded = s.firmwareLoaded := rfl
@[simp] theorem clearMi_initialised (k : MiSource) : (s.clearMi k).initialised = s.initialised := rfl
@[simp] theorem clearMi_inputs (k : MiSource) : (s.clearMi k).inputs = s.inputs := rfl
@[simp] theorem clearMi_outputs (k : MiSource) : (s.clearMi k).outputs = s.outputs := rfl
@[simp] theorem clearMi_collabState (k : MiSource) : (s.clearMi k).collabState = s.collabState := rfl
@[simp] theorem clearMi_cfg (k : MiSource) : (s.clearMi k).cfg = s.cfg := rfl
@[simp] theorem clearMi_x (k : MiSource) (q : RegIdx) : (s.clearMi k).x q = s.x q := by simp [State.x]
@[simp] theorem clearMi_mode (k : MiSource) : (s.clearMi k).mode = s.mode := mode_of_cop0 (by simp)

@[simp] theorem addEvent_gpr (k : EventKind) (c e : Int) : (s.addEvent k c e).gpr = s.gpr := rfl
@[simp] theorem addEvent_hi (k : EventKind) (c e : Int) : (s.addEvent k c e).hi = s.hi := rfl
@[simp] theorem addEvent_lo (k : EventKind) (c e : Int) : (s.addEvent k c e).lo = s.lo := rfl
@[simp] theorem addEvent_pc (k : EventKind) (c e : Int) : (s.addEvent k c e).pc = s.pc := rfl
@[simp] theorem addEvent_branchState (k : EventKind) (c e : Int) : (s.addEvent k c e).branchState = s.branchState := rfl
@[simp] theorem addEvent_branchTarget (k : EventKind) (c e : Int) : (s.addEvent k c e).branchTarget = s.branchTarget := rfl
@[simp] theorem addEvent_llBit (k : EventKind) (c e : Int) : (s.addEvent k c e).llBit = s.llBit := rfl
@[simp] theorem addEvent_excLatch (k : EventKind) (c e : Int) : (s.addEvent k c e).excLatch = s.excLatch := rfl
@[simp] theorem addEvent_runCycles (k : EventKind) (c e : Int) : (s.addEvent k c e).runCycles = s.runCycles := rfl
@[simp] theorem addEvent_count33 (k : EventKind) (c e : Int) : (s.addEvent k c e).count33 = s.count33 := rfl
@[simp] theorem addEvent_stepCycles (k : EventKind) (c e : Int) : (s.addEvent k c e).stepCycles = s.stepCycles := rfl
@[simp] theorem addEvent_extIp (k : EventKind) (c e : Int) : (s.addEvent k c e).extIp = s.extIp := rfl
@[simp] theorem addEvent_cop0 (k : EventKind) (c e : Int) : (s.addEvent k c e).cop0 = s.cop0 := rfl
@[simp] theorem addEvent_fpr (k : EventKind) (c e : Int) : (s.addEvent k c e).fpr = s.fpr := rfl
@[simp] theorem addEvent_fcsr (k : EventKind) (c e : Int) : (s.addEvent k c e).fcsr = s.fcsr := rfl
@[simp] theorem addEvent_tlb (k : EventKind) (c e : Int) : (s.addEvent k c e).tlb = s.tlb := rfl
@[simp] theorem addEvent_icache (k : EventKind) (c e : Int) : (s.addEvent k c e).icache = s.icache := rfl
@[simp] theorem addEvent_dcache (k : EventKind) (c e : Int) : (s.addEvent k c e).dcache = s.dcache := rfl
@[simp] theorem addEvent_mem (k : EventKind) (c e : Int) : (s.addEvent k c e).mem = s.mem := rfl
@[simp] theorem addEvent_mi (k : EventKind) (c e : Int) : (s.addEvent k c e).mi = s.mi := rfl
@[simp] theorem addEvent_vi (k : EventKind) (c e : Int) : (s.addEvent k c e).vi = s.vi := rfl
@[simp] theorem addEvent_ai (k : EventKind) (c e : Int) : (s.addEvent k c e).ai = s.ai := rfl
@[simp] theorem addEvent_pi (k : EventKind) (c e : Int) : (s.addEvent k c e).pi = s.pi := rfl
@[simp] theorem addEvent_ri (k : EventKind) (c e : Int) : (s.addEvent k c e).ri = s.ri := rfl
@[simp] theorem addEvent_si (k : EventKind) (c e : Int) : (s.addEvent k c e).si = s.si := rfl
@[simp] theorem addEvent_padState (k : EventKind) (c e : Int) : (s.addEvent k c e).padState = s.padState := rfl
@[simp] theorem addEvent_cpuCarry (k : EventKind) (c e : Int) : (s.addEvent k c e).cpuCarry = s.cpuCarry := rfl
@[simp] theorem addEvent_rspCarry (k : EventKind) (c e : Int) : (s.addEvent k c e).rspCarry = s.rspCarry := rfl
@[simp] theorem addEvent_advancing (k : EventKind) (c e : Int) : (s.addEvent k c e).advancing = s.advancing := rfl
@[simp] theorem addEvent_stop (k : EventKind) (c e : Int) : (s.addEvent k c e).stop = s.stop := rfl
@[simp] theorem addEvent_firmwareLoaded (k : EventKind) (c e : Int) : (s.addEvent k c e).firmwareLoaded = s.firmwareLoaded := rfl
@[simp] theorem addEvent_initialised (k : EventKind) (c e : Int) : (s.addEvent k c e).initialised = s.initialised := rfl
@[simp] theorem addEvent_inputs (k : EventKind) (c e : Int) : (s.addEvent k c e).inputs = s.inputs := rfl
@[simp] theorem addEvent_outputs (k : EventKind) (c e : Int) : (s.addEvent k c e).outputs = s.outputs := rfl
@[simp] theorem addEvent_collabState (k : EventKind) (c e : Int) : (s.addEvent k c e).collabState = s.collabState := rfl
@[simp] theorem addEvent_cfg (k : EventKind) (c e : Int) : (s.addEvent k c e).cfg = s.cfg := rfl
@[simp] theorem addEvent_x (k : EventKind) (c e : Int) (q : RegIdx) : (s.addEvent k c e).x q = s.x q := by simp [State.x]
@[simp] theorem addEvent_mode (k : EventKind) (c e : Int) : (s.addEvent k c e).mode = s.mode := mode_of_cop0 (by simp)

@[simp] theorem scheduleCompare_gpr (e : Int) : (s.scheduleCompare e).gpr = s.gpr := rfl
@[simp] theorem scheduleCompare_hi (e : Int) : (s.scheduleCompare e).hi = s.hi := rfl
@[simp] theorem scheduleCompare_lo (e : Int) : (s.scheduleCompare e).lo = s.lo := rfl
@[simp] theorem scheduleCompare_pc (e : Int) : (s.scheduleCompare e).pc = s.pc := rfl
@[simp] theorem scheduleCompare_branchState (e : Int) : (s.scheduleCompare e).branchState = s.branchState := rfl
@[simp] theorem scheduleCompare_branchTarget (e : Int) : (s.scheduleCompare e).branchTarget = s.branchTarget := rfl
@[simp] theorem scheduleCompare_llBit (e : Int) : (s.scheduleCompare e).llBit = s.llBit := rfl
@[simp] theorem scheduleCompare_excLatch (e : Int) : (s.scheduleCompare e).excLatch = s.excLatch := rfl
@[simp] theorem scheduleCompare_runCycles (e : Int) : (s.scheduleCompare e).runCycles = s.runCycles := rfl
@[simp] theorem scheduleCompare_count33 (e : Int) : (s.scheduleCompare e).count33 = s.count33 := rfl
@[simp] theorem scheduleCompare_stepCycles (e : Int) : (s.scheduleCompare e).stepCycles = s.stepCycles := rfl
@[simp] theorem scheduleCompare_extIp (e : Int) : (s.scheduleCompare e).extIp = s.extIp := rfl
@[simp] theorem scheduleCompare_cop0 (e : Int) : (s.scheduleCompare e).cop0 = s.cop0 := rfl
@[simp] theorem scheduleCompare_fpr (e : Int) : (s.scheduleCompare e).fpr = s.fpr := rfl
@[simp] theorem scheduleCompare_fcsr (e : Int) : (s.scheduleCompare e).fcsr = s.fcsr := rfl
@[simp] theorem scheduleCompare_tlb (e : Int) : (s.scheduleCompare e).tlb = s.tlb := rfl
@[simp] theorem scheduleCompare_icache (e : Int) : (s.scheduleCompare e).icache = s.icache := rfl
@[simp] theorem scheduleCompare_dcache (e : Int) : (s.scheduleCompare e).dcache = s.dcache := rfl
@[simp] theorem scheduleCompare_mem (e : Int) : (s.scheduleCompare e).mem = s.mem := rfl
@[simp] theorem scheduleCompare_mi (e : Int) : (s.scheduleCompare e).mi = s.mi := rfl
@[simp] theorem scheduleCompare_vi (e : Int) : (s.scheduleCompare e).vi = s.vi := rfl
@[simp] theorem scheduleCompare_ai (e : Int) : (s.scheduleCompare e).ai = s.ai := rfl
@[simp] theorem scheduleCompare_pi (e : Int) : (s.scheduleCompare e).pi = s.pi := rfl
@[simp] theorem scheduleCompare_ri (e : Int) : (s.scheduleCompare e).ri = s.ri := rfl
@[simp] theorem scheduleCompare_si (e : Int) : (s.scheduleCompare e).si = s.si := rfl
@[simp] theorem scheduleCompare_padState (e : Int) : (s.scheduleCompare e).padState = s.padState := rfl
@[simp] theorem scheduleCompare_cpuCarry (e : Int) : (s.scheduleCompare e).cpuCarry = s.cpuCarry := rfl
@[simp] theorem scheduleCompare_rspCarry (e : Int) : (s.scheduleCompare e).rspCarry = s.rspCarry := rfl
@[simp] theorem scheduleCompare_advancing (e : Int) : (s.scheduleCompare e).advancing = s.advancing := rfl
@[simp] theorem scheduleCompare_stop (e : Int) : (s.scheduleCompare e).stop = s.stop := rfl
@[simp] theorem scheduleCompare_firmwareLoaded (e : Int) : (s.scheduleCompare e).firmwareLoaded = s.firmwareLoaded := rfl
@[simp] theorem scheduleCompare_initialised (e : Int) : (s.scheduleCompare e).initialised = s.initialised := rfl
@[simp] theorem scheduleCompare_inputs (e : Int) : (s.scheduleCompare e).inputs = s.inputs := rfl
@[simp] theorem scheduleCompare_outputs (e : Int) : (s.scheduleCompare e).outputs = s.outputs := rfl
@[simp] theorem scheduleCompare_collabState (e : Int) : (s.scheduleCompare e).collabState = s.collabState := rfl
@[simp] theorem scheduleCompare_cfg (e : Int) : (s.scheduleCompare e).cfg = s.cfg := rfl
@[simp] theorem scheduleCompare_x (e : Int) (q : RegIdx) : (s.scheduleCompare e).x q = s.x q := by simp [State.x]
@[simp] theorem scheduleCompare_mode (e : Int) : (s.scheduleCompare e).mode = s.mode := mode_of_cop0 (by simp)

@[simp] theorem writeCop0_gpr (n : RegIdx) (v : DWord) : (writeCop0 n v s).gpr = s.gpr := by unfold writeCop0; split <;> rfl
@[simp] theorem writeCop0_hi (n : RegIdx) (v : DWord) : (writeCop0 n v s).hi = s.hi := by unfold writeCop0; split <;> rfl
@[simp] theorem writeCop0_lo (n : RegIdx) (v : DWord) : (writeCop0 n v s).lo = s.lo := by unfold writeCop0; split <;> rfl
@[simp] theorem writeCop0_pc (n : RegIdx) (v : DWord) : (writeCop0 n v s).pc = s.pc := by unfold writeCop0; split <;> rfl
@[simp] theorem writeCop0_branchState (n : RegIdx) (v : DWord) : (writeCop0 n v s).branchState = s.branchState := by unfold writeCop0; split <;> rfl
@[simp] theorem writeCop0_branchTarget (n : RegIdx) (v : DWord) : (writeCop0 n v s).branchTarget = s.branchTarget := by unfold writeCop0; split <;> rfl
@[simp] theorem writeCop0_llBit (n : RegIdx) (v : DWord) : (writeCop0 n v s).llBit = s.llBit := by unfold writeCop0; split <;> rfl
@[simp] theorem writeCop0_excLatch (n : RegIdx) (v : DWord) : (writeCop0 n v s).excLatch = s.excLatch := by unfold writeCop0; split <;> rfl
@[simp] theorem writeCop0_runCycles (n : RegIdx) (v : DWord) : (writeCop0 n v s).runCycles = s.runCycles := by unfold writeCop0; split <;> rfl
@[simp] theorem writeCop0_stepCycles (n : RegIdx) (v : DWord) : (writeCop0 n v s).stepCycles = s.stepCycles := by unfold writeCop0; split <;> rfl
@[simp] theorem writeCop0_extIp (n : RegIdx) (v : DWord) : (writeCop0 n v s).extIp = s.extIp := by unfold writeCop0; split <;> rfl
@[simp] theorem writeCop0_fpr (n : RegIdx) (v : DWord) : (writeCop0 n v s).fpr = s.fpr := by unfold writeCop0; split <;> rfl
@[simp] theorem writeCop0_fcsr (n : RegIdx) (v : DWord) : (writeCop0 n v s).fcsr = s.fcsr := by unfold writeCop0; split <;> rfl
@[simp] theorem writeCop0_tlb (n : RegIdx) (v : DWord) : (writeCop0 n v s).tlb = s.tlb := by unfold writeCop0; split <;> rfl
@[simp] theorem writeCop0_icache (n : RegIdx) (v : DWord) : (writeCop0 n v s).icache = s.icache := by unfold writeCop0; split <;> rfl
@[simp] theorem writeCop0_dcache (n : RegIdx) (v : DWord) : (writeCop0 n v s).dcache = s.dcache := by unfold writeCop0; split <;> rfl
@[simp] theorem writeCop0_mem (n : RegIdx) (v : DWord) : (writeCop0 n v s).mem = s.mem := by unfold writeCop0; split <;> rfl
@[simp] theorem writeCop0_mi (n : RegIdx) (v : DWord) : (writeCop0 n v s).mi = s.mi := by unfold writeCop0; split <;> rfl
@[simp] theorem writeCop0_vi (n : RegIdx) (v : DWord) : (writeCop0 n v s).vi = s.vi := by unfold writeCop0; split <;> rfl
@[simp] theorem writeCop0_ai (n : RegIdx) (v : DWord) : (writeCop0 n v s).ai = s.ai := by unfold writeCop0; split <;> rfl
@[simp] theorem writeCop0_pi (n : RegIdx) (v : DWord) : (writeCop0 n v s).pi = s.pi := by unfold writeCop0; split <;> rfl
@[simp] theorem writeCop0_ri (n : RegIdx) (v : DWord) : (writeCop0 n v s).ri = s.ri := by unfold writeCop0; split <;> rfl
@[simp] theorem writeCop0_si (n : RegIdx) (v : DWord) : (writeCop0 n v s).si = s.si := by unfold writeCop0; split <;> rfl
@[simp] theorem writeCop0_padState (n : RegIdx) (v : DWord) : (writeCop0 n v s).padState = s.padState := by unfold writeCop0; split <;> rfl
@[simp] theorem writeCop0_cpuCarry (n : RegIdx) (v : DWord) : (writeCop0 n v s).cpuCarry = s.cpuCarry := by unfold writeCop0; split <;> rfl
@[simp] theorem writeCop0_rspCarry (n : RegIdx) (v : DWord) : (writeCop0 n v s).rspCarry = s.rspCarry := by unfold writeCop0; split <;> rfl
@[simp] theorem writeCop0_advancing (n : RegIdx) (v : DWord) : (writeCop0 n v s).advancing = s.advancing := by unfold writeCop0; split <;> rfl
@[simp] theorem writeCop0_stop (n : RegIdx) (v : DWord) : (writeCop0 n v s).stop = s.stop := by unfold writeCop0; split <;> rfl
@[simp] theorem writeCop0_firmwareLoaded (n : RegIdx) (v : DWord) : (writeCop0 n v s).firmwareLoaded = s.firmwareLoaded := by unfold writeCop0; split <;> rfl
@[simp] theorem writeCop0_initialised (n : RegIdx) (v : DWord) : (writeCop0 n v s).initialised = s.initialised := by unfold writeCop0; split <;> rfl
@[simp] theorem writeCop0_inputs (n : RegIdx) (v : DWord) : (writeCop0 n v s).inputs = s.inputs := by unfold writeCop0; split <;> rfl
@[simp] theorem writeCop0_outputs (n : RegIdx) (v : DWord) : (writeCop0 n v s).outputs = s.outputs := by unfold writeCop0; split <;> rfl
@[simp] theorem writeCop0_collabState (n : RegIdx) (v : DWord) : (writeCop0 n v s).collabState = s.collabState := by unfold writeCop0; split <;> rfl
@[simp] theorem writeCop0_cfg (n : RegIdx) (v : DWord) : (writeCop0 n v s).cfg = s.cfg := by unfold writeCop0; split <;> rfl
@[simp] theorem writeCop0_x (n : RegIdx) (v : DWord) (q : RegIdx) : (writeCop0 n v s).x q = s.x q := by simp [State.x]

@[simp] theorem tlbWrite_gpr (i : Fin 32) : (tlbWrite i s).gpr = s.gpr := rfl
@[simp] theorem tlbWrite_hi (i : Fin 32) : (tlbWrite i s).hi = s.hi := rfl
@[simp] theorem tlbWrite_lo (i : Fin 32) : (tlbWrite i s).lo = s.lo := rfl
@[simp] theorem tlbWrite_pc (i : Fin 32) : (tlbWrite i s).pc = s.pc := rfl
@[simp] theorem tlbWrite_branchState (i : Fin 32) : (tlbWrite i s).branchState = s.branchState := rfl
@[simp] theorem tlbWrite_branchTarget (i : Fin 32) : (tlbWrite i s).branchTarget = s.branchTarget := rfl
@[simp] theorem tlbWrite_llBit (i : Fin 32) : (tlbWrite i s).llBit = s.llBit := rfl
@[simp] theorem tlbWrite_excLatch (i : Fin 32) : (tlbWrite i s).excLatch = s.excLatch := rfl
@[simp] theorem tlbWrite_runCycles (i : Fin 32) : (tlbWrite i s).runCycles = s.runCycles := rfl
@[simp] theorem tlbWrite_count33 (i : Fin 32) : (tlbWrite i s).count33 = s.count33 := rfl
@[simp] theorem tlbWrite_stepCycles (i : Fin 32) : (tlbWrite i s).stepCycles = s.stepCycles := rfl
@[simp] theorem tlbWrite_extIp (i : Fin 32) : (tlbWrite i s).extIp = s.extIp := rfl
@[simp] theorem tlbWrite_cop0 (i : Fin 32) : (tlbWrite i s).cop0 = s.cop0 := rfl
@[simp] theorem tlbWrite_fpr (i : Fin 32) : (tlbWrite i s).fpr = s.fpr := rfl
@[simp] theorem tlbWrite_fcsr (i : Fin 32) : (tlbWrite i s).fcsr = s.fcsr := rfl
@[simp] theorem tlbWrite_icache (i : Fin 32) : (tlbWrite i s).icache = s.icache := rfl
@[simp] theorem tlbWrite_dcache (i : Fin 32) : (tlbWrite i s).dcache = s.dcache := rfl
@[simp] theorem tlbWrite_mem (i : Fin 32) : (tlbWrite i s).mem = s.mem := rfl
@[simp] theorem tlbWrite_sched (i : Fin 32) : (tlbWrite i s).sched = s.sched := rfl
@[simp] theorem tlbWrite_mi (i : Fin 32) : (tlbWrite i s).mi = s.mi := rfl
@[simp] theorem tlbWrite_vi (i : Fin 32) : (tlbWrite i s).vi = s.vi := rfl
@[simp] theorem tlbWrite_ai (i : Fin 32) : (tlbWrite i s).ai = s.ai := rfl
@[simp] theorem tlbWrite_pi (i : Fin 32) : (tlbWrite i s).pi = s.pi := rfl
@[simp] theorem tlbWrite_ri (i : Fin 32) : (tlbWrite i s).ri = s.ri := rfl
@[simp] theorem tlbWrite_si (i : Fin 32) : (tlbWrite i s).si = s.si := rfl
@[simp] theorem tlbWrite_padState (i : Fin 32) : (tlbWrite i s).padState = s.padState := rfl
@[simp] theorem tlbWrite_cpuCarry (i : Fin 32) : (tlbWrite i s).cpuCarry = s.cpuCarry := rfl
@[simp] theorem tlbWrite_rspCarry (i : Fin 32) : (tlbWrite i s).rspCarry = s.rspCarry := rfl
@[simp] theorem tlbWrite_advancing (i : Fin 32) : (tlbWrite i s).advancing = s.advancing := rfl
@[simp] theorem tlbWrite_stop (i : Fin 32) : (tlbWrite i s).stop = s.stop := rfl
@[simp] theorem tlbWrite_firmwareLoaded (i : Fin 32) : (tlbWrite i s).firmwareLoaded = s.firmwareLoaded := rfl
@[simp] theorem tlbWrite_initialised (i : Fin 32) : (tlbWrite i s).initialised = s.initialised := rfl
@[simp] theorem tlbWrite_inputs (i : Fin 32) : (tlbWrite i s).inputs = s.inputs := rfl
@[simp] theorem tlbWrite_outputs (i : Fin 32) : (tlbWrite i s).outputs = s.outputs := rfl
@[simp] theorem tlbWrite_collabState (i : Fin 32) : (tlbWrite i s).collabState = s.collabState := rfl
@[simp] theorem tlbWrite_cfg (i : Fin 32) : (tlbWrite i s).cfg = s.cfg := rfl
@[simp] theorem tlbWrite_x (i : Fin 32) (q : RegIdx) : (tlbWrite i s).x q = s.x q := by simp [State.x]
@[simp] theorem tlbWrite_mode (i : Fin 32) : (tlbWrite i s).mode = s.mode := mode_of_cop0 (by simp)

@[simp] theorem tlbProbe_gpr : (tlbProbe s).gpr = s.gpr := rfl
@[simp] theorem tlbProbe_hi : (tlbProbe s).hi = s.hi := rfl
@[simp] theorem tlbProbe_lo : (tlbProbe s).lo = s.lo := rfl
@[simp] theorem tlbProbe_pc : (tlbProbe s).pc = s.pc := rfl
@[simp] theorem tlbProbe_branchState : (tlbProbe s).branchState = s.branchState := rfl
@[simp] theorem tlbProbe_branchTarget : (tlbProbe s).branchTarget = s.branchTarget := rfl
@[simp] theorem tlbProbe_llBit : (tlbProbe s).llBit = s.llBit := rfl
@[simp] theorem tlbProbe_excLatch : (tlbProbe s).excLatch = s.excLatch := rfl
@[simp] theorem tlbProbe_runCycles : (tlbProbe s).runCycles = s.runCycles := rfl
@[simp] theorem tlbProbe_count33 : (tlbProbe s).count33 = s.count33 := rfl
@[simp] theorem tlbProbe_stepCycles : (tlbProbe s).stepCycles = s.stepCycles := rfl
@[simp] theorem tlbProbe_extIp : (tlbProbe s).extIp = s.extIp := rfl
@[simp] theorem tlbProbe_fpr : (tlbProbe s).fpr = s.fpr := rfl
@[simp] theorem tlbProbe_fcsr : (tlbProbe s).fcsr = s.fcsr := rfl
@[simp] theorem tlbProbe_tlb : (tlbProbe s).tlb = s.tlb := rfl
@[simp] theorem tlbProbe_icache : (tlbProbe s).icache = s.icache := rfl
@[simp] theorem tlbProbe_dcache : (tlbProbe s).dcache = s.dcache := rfl
@[simp] theorem tlbProbe_mem : (tlbProbe s).mem = s.mem := rfl
@[simp] theorem tlbProbe_sched : (tlbProbe s).sched = s.sched := rfl
@[simp] theorem tlbProbe_mi : (tlbProbe s).mi = s.mi := rfl
@[simp] theorem tlbProbe_vi : (tlbProbe s).vi = s.vi := rfl
@[simp] theorem tlbProbe_ai : (tlbProbe s).ai = s.ai := rfl
@[simp] theorem tlbProbe_pi : (tlbProbe s).pi = s.pi := rfl
@[simp] theorem tlbProbe_ri : (tlbProbe s).ri = s.ri := rfl
@[simp] theorem tlbProbe_si : (tlbProbe s).si = s.si := rfl
@[simp] theorem tlbProbe_padState : (tlbProbe s).padState = s.padState := rfl
@[simp] theorem tlbProbe_cpuCarry : (tlbProbe s).cpuCarry = s.cpuCarry := rfl
@[simp] theorem tlbProbe_rspCarry : (tlbProbe s).rspCarry = s.rspCarry := rfl
@[simp] theorem tlbProbe_advancing : (tlbProbe s).advancing = s.advancing := rfl
@[simp] theorem tlbProbe_stop : (tlbProbe s).stop = s.stop := rfl
@[simp] theorem tlbProbe_firmwareLoaded : (tlbProbe s).firmwareLoaded = s.firmwareLoaded := rfl
@[simp] theorem tlbProbe_initialised : (tlbProbe s).initialised = s.initialised := rfl
@[simp] theorem tlbProbe_inputs : (tlbProbe s).inputs = s.inputs := rfl
@[simp] theorem tlbProbe_outputs : (tlbProbe s).outputs = s.outputs := rfl
@[simp] theorem tlbProbe_collabState : (tlbProbe s).collabState = s.collabState := rfl
@[simp] theorem tlbProbe_cfg : (tlbProbe s).cfg = s.cfg := rfl
@[simp] theorem tlbProbe_x (q : RegIdx) : (tlbProbe s).x q = s.x q := by simp [State.x]

@[simp] theorem resolveBranch_gpr : (s.resolveBranch).gpr = s.gpr := by unfold State.resolveBranch; split <;> rfl
@[simp] theorem resolveBranch_hi : (s.resolveBranch).hi = s.hi := by unfold State.resolveBranch; split <;> rfl
@[simp] theorem resolveBranch_lo : (s.resolveBranch).lo = s.lo := by unfold State.resolveBranch; split <;> rfl
@[simp] theorem resolveBranch_branchTarget : (s.resolveBranch).branchTarget = s.branchTarget := by unfold State.resolveBranch; split <;> rfl
@[simp] theorem resolveBranch_llBit : (s.resolveBranch).llBit = s.llBit := by unfold State.resolveBranch; split <;> rfl
@[simp] theorem resolveBranch_excLatch : (s.resolveBranch).excLatch = s.excLatch := by unfold State.resolveBranch; split <;> rfl
@[simp] theorem resolveBranch_runCycles : (s.resolveBranch).runCycles = s.runCycles := by unfold State.resolveBranch; split <;> rfl
@[simp] theorem resolveBranch_count33 : (s.resolveBranch).count33 = s.count33 := by unfold State.resolveBranch; split <;> rfl
@[simp] theorem resolveBranch_stepCycles : (s.resolveBranch).stepCycles = s.stepCycles := by unfold State.resolveBranch; split <;> rfl
@[simp] theorem resolveBranch_extIp : (s.resolveBranch).extIp = s.extIp := by unfold State.resolveBranch; split <;> rfl
@[simp] theorem resolveBranch_cop0 : (s.resolveBranch).cop0 = s.cop0 := by unfold State.resolveBranch; split <;> rfl
@[simp] theorem resolveBranch_fpr : (s.resolveBranch).fpr = s.fpr := by unfold State.resolveBranch; split <;> rfl
@[simp] theorem resolveBranch_fcsr : (s.resolveBranch).fcsr = s.fcsr := by unfold State.resolveBranch; split <;> rfl
@[simp] theorem resolveBranch_tlb : (s.resolveBranch).tlb = s.tlb := by unfold State.resolveBranch; split <;> rfl
@[simp] theorem resolveBranch_icache : (s.resolveBranch).icache = s.icache := by unfold State.resolveBranch; split <;> rfl
@[simp] theorem resolveBranch_dcache : (s.resolveBranch).dcache = s.dcache := by unfold State.resolveBranch; split <;> rfl
@[simp] theorem resolveBranch_mem : (s.resolveBranch).mem = s.mem := by unfold State.resolveBranch; split <;> rfl
@[simp] theorem resolveBranch_sched : (s.resolveBranch).sched = s.sched := by unfold State.resolveBranch; split <;> rfl
@[simp] theorem resolveBranch_mi : (s.resolveBranch).mi = s.mi := by unfold State.resolveBranch; split <;> rfl
@[simp] theorem resolveBranch_vi : (s.resolveBranch).vi = s.vi := by unfold State.resolveBranch; split <;> rfl
@[simp] theorem resolveBranch_ai : (s.resolveBranch).ai = s.ai := by unfold State.resolveBranch; split <;> rfl
@[simp] theorem resolveBranch_pi : (s.resolveBranch).pi = s.pi := by unfold State.resolveBranch; split <;> rfl
@[simp] theorem resolveBranch_ri : (s.resolveBranch).ri = s.ri := by unfold State.resolveBranch; split <;> rfl
@[simp] theorem resolveBranch_si : (s.resolveBranch).si = s.si := by unfold State.resolveBranch; split <;> rfl
@[simp] theorem resolveBranch_padState : (s.resolveBranch).padState = s.padState := by unfold State.resolveBranch; split <;> rfl
@[simp] theorem resolveBranch_cpuCarry : (s.resolveBranch).cpuCarry = s.cpuCarry := by unfold State.resolveBranch; split <;> rfl
@[simp] theorem resolveBranch_rspCarry : (s.resolveBranch).rspCarry = s.rspCarry := by unfold State.resolveBranch; split <;> rfl
@[simp] theorem resolveBranch_advancing : (s.resolveBranch).advancing = s.advancing := by unfold State.resolveBranch; split <;> rfl
@[simp] theorem resolveBranch_stop : (s.resolveBranch).stop = s.stop := by unfold State.resolveBranch; split <;> rfl
@[simp] theorem resolveBranch_firmwareLoaded : (s.resolveBranch).firmwareLoaded = s.firmwareLoaded := by unfold State.resolveBranch; split <;> rfl
@[simp] theorem resolveBranch_initialised : (s.resolveBranch).initialised = s.initialised := by unfold State.resolveBranch; split <;> rfl
@[simp] theorem resolveBranch_inputs : (s.resolveBranch).inputs = s.inputs := by unfold State.resolveBranch; split <;> rfl
@[simp] theorem resolveBranch_outputs : (s.resolveBranch).outputs = s.outputs := by unfold State.resolveBranch; split <;> rfl
@[simp] theorem resolveBranch_collabState : (s.resolveBranch).collabState = s.collabState := by unfold State.resolveBranch; split <;> rfl
@[simp] theorem resolveBranch_cfg : (s.resolveBranch).cfg = s.cfg := by unfold State.resolveBranch; split <;> rfl
@[simp] theorem resolveBranch_x (q : RegIdx) : (s.resolveBranch).x q = s.x q := by simp [State.x]
@[simp] theorem resolveBranch_mode : (s.resolveBranch).mode = s.mode := mode_of_cop0 (by simp)

@[simp] theorem beginStep_gpr : (s.beginStep).gpr = s.gpr := rfl
@[simp] theorem beginStep_hi : (s.beginStep).hi = s.hi := rfl
@[simp] theorem beginStep_lo : (s.beginStep).lo = s.lo := rfl
@[simp] theorem beginStep_pc : (s.beginStep).pc = s.pc := rfl
@[simp] theorem beginStep_branchState : (s.beginStep).branchState = s.branchState := rfl
@[simp] theorem beginStep_branchTarget : (s.beginStep).branchTarget = s.branchTarget := rfl
@[simp] theorem beginStep_llBit : (s.beginStep).llBit = s.llBit := rfl
@[simp] theorem beginStep_runCycles : (s.beginStep).runCycles = s.runCycles := rfl
@[simp] theorem beginStep_count33 : (s.beginStep).count33 = s.count33 := rfl
@[simp] theorem beginStep_extIp : (s.beginStep).extIp = s.extIp := rfl
@[simp] theorem beginStep_cop0 : (s.beginStep).cop0 = s.cop0 := rfl
@[simp] theorem beginStep_fpr : (s.beginStep).fpr = s.fpr := rfl
@[simp] theorem beginStep_fcsr : (s.beginStep).fcsr = s.fcsr := rfl
@[simp] theorem beginStep_tlb : (s.beginStep).tlb = s.tlb := rfl
@[simp] theorem beginStep_icache : (s.beginStep).icache = s.icache := rfl
@[simp] theorem beginStep_dcache : (s.beginStep).dcache = s.dcache := rfl
@[simp] theorem beginStep_mem : (s.beginStep).mem = s.mem := rfl
@[simp] theorem beginStep_sched : (s.beginStep).sched = s.sched := rfl
@[simp] theorem beginStep_mi : (s.beginStep).mi = s.mi := rfl
@[simp] theorem beginStep_vi : (s.beginStep).vi = s.vi := rfl
@[simp] theorem beginStep_ai : (s.beginStep).ai = s.ai := rfl
@[simp] theorem beginStep_pi : (s.beginStep).pi = s.pi := rfl
@[simp] theorem beginStep_ri : (s.beginStep).ri = s.ri := rfl
@[simp] theorem beginStep_si : (s.beginStep).si = s.si := rfl
@[simp] theorem beginStep_padState : (s.beginStep).padState = s.padState := rfl
@[simp] theorem beginStep_cpuCarry : (s.beginStep).cpuCarry = s.cpuCarry := rfl
@[simp] theorem beginStep_rspCarry : (s.beginStep).rspCarry = s.rspCarry := rfl
@[simp] theorem beginStep_advancing : (s.beginStep).advancing = s.advancing := rfl
@[simp] theorem beginStep_stop : (s.beginStep).stop = s.stop := rfl
@[simp] theorem beginStep_firmwareLoaded : (s.beginStep).firmwareLoaded = s.firmwareLoaded := rfl
@[simp] theorem beginStep_initialised : (s.beginStep).initialised = s.initialised := rfl
@[simp] theorem beginStep_inputs : (s.beginStep).inputs = s.inputs := rfl
@[simp] theorem beginStep_outputs : (s.beginStep).outputs = s.outputs := rfl
@[simp] theorem beginStep_collabState : (s.beginStep).collabState = s.collabState := rfl
@[simp] theorem beginStep_cfg : (s.beginStep).cfg = s.cfg := rfl
@[simp] theorem beginStep_x (q : RegIdx) : (s.beginStep).x q = s.x q := by simp [State.x]
@[simp] theorem beginStep_mode : (s.beginStep).mode = s.mode := mode_of_cop0 (by simp)

@[simp] theorem endStep_gpr : (s.endStep).gpr = s.gpr := rfl
@[simp] theorem endStep_hi : (s.endStep).hi = s.hi := rfl
@[simp] theorem endStep_lo : (s.endStep).lo = s.lo := rfl
@[simp] theorem endStep_pc : (s.endStep).pc = s.pc := rfl
@[simp] theorem endStep_branchState : (s.endStep).branchState = s.branchState := rfl
@[simp] theorem endStep_branchTarget : (s.endStep).branchTarget = s.branchTarget := rfl
@[simp] theorem endStep_llBit : (s.endStep).llBit = s.llBit := rfl
@[simp] theorem endStep_excLatch : (s.endStep).excLatch = s.excLatch := rfl
@[simp] theorem endStep_extIp : (s.endStep).extIp = s.extIp := rfl
@[simp] theorem endStep_fpr : (s.endStep).fpr = s.fpr := rfl
@[simp] theorem endStep_fcsr : (s.endStep).fcsr = s.fcsr := rfl
@[simp] theorem endStep_tlb : (s.endStep).tlb = s.tlb := rfl
@[simp] theorem endStep_icache : (s.endStep).icache = s.icache := rfl
@[simp] theorem endStep_dcache : (s.endStep).dcache = s.dcache := rfl
@[simp] theorem endStep_mem : (s.endStep).mem = s.mem := rfl
@[simp] theorem endStep_sched : (s.endStep).sched = s.sched := rfl
@[simp] theorem endStep_mi : (s.endStep).mi = s.mi := rfl
@[simp] theorem endStep_vi : (s.endStep).vi = s.vi := rfl
@[simp] theorem endStep_ai : (s.endStep).ai = s.ai := rfl
@[simp] theorem endStep_pi : (s.endStep).pi = s.pi := rfl
@[simp] theorem endStep_ri : (s.endStep).ri = s.ri := rfl
@[simp] theorem endStep_si : (s.endStep).si = s.si := rfl
@[simp] theorem endStep_padState : (s.endStep).padState = s.padState := rfl
@[simp] theorem endStep_cpuCarry : (s.endStep).cpuCarry = s.cpuCarry := rfl
@[simp] theorem endStep_rspCarry : (s.endStep).rspCarry = s.rspCarry := rfl
@[simp] theorem endStep_advancing : (s.endStep).advancing = s.advancing := rfl
@[simp] theorem endStep_stop : (s.endStep).stop = s.stop := rfl
@[simp] theorem endStep_firmwareLoaded : (s.endStep).firmwareLoaded = s.firmwareLoaded := rfl
@[simp] theorem endStep_initialised : (s.endStep).initialised = s.initialised := rfl
@[simp] theorem endStep_inputs : (s.endStep).inputs = s.inputs := rfl
@[simp] theorem endStep_outputs : (s.endStep).outputs = s.outputs := rfl
@[simp] theorem endStep_collabState : (s.endStep).collabState = s.collabState := rfl
@[simp] theorem endStep_cfg : (s.endStep).cfg = s.cfg := rfl
@[simp] theorem endStep_x (q : RegIdx) : (s.endStep).x q = s.x q := by simp [State.x]

@[simp] theorem dmaWrite_gpr (a : Nat) (b : Byte) : (s.dmaWrite a b).gpr = s.gpr := by unfold State.dmaWrite; split <;> rfl
@[simp] theorem dmaWrite_hi (a : Nat) (b : Byte) : (s.dmaWrite a b).hi = s.hi := by unfold State.dmaWrite; split <;> rfl
@[simp] theorem dmaWrite_lo (a : Nat) (b : Byte) : (s.dmaWrite a b).lo = s.lo := by unfold State.dmaWrite; split <;> rfl
@[simp] theorem dmaWrite_pc (a : Nat) (b : Byte) : (s.dmaWrite a b).pc = s.pc := by unfold State.dmaWrite; split <;> rfl
@[simp] theorem dmaWrite_branchState (a : Nat) (b : Byte) : (s.dmaWrite a b).branchState = s.branchState := by unfold State.dmaWrite; split <;> rfl
@[simp] theorem dmaWrite_branchTarget (a : Nat) (b : Byte) : (s.dmaWrite a b).branchTarget = s.branchTarget := by unfold State.dmaWrite; split <;> rfl
@[simp] theorem dmaWrite_llBit (a : Nat) (b : Byte) : (s.dmaWrite a b).llBit = s.llBit := by unfold State.dmaWrite; split <;> rfl
@[simp] theorem dmaWrite_excLatch (a : Nat) (b : Byte) : (s.dmaWrite a b).excLatch = s.excLatch := by unfold State.dmaWrite; split <;> rfl
@[simp] theorem dmaWrite_runCycles (a : Nat) (b : Byte) : (s.dmaWrite a b).runCycles = s.runCycles := by unfold State.dmaWrite; split <;> rfl
@[simp] theorem dmaWrite_count33 (a : Nat) (b : Byte) : (s.dmaWrite a b).count33 = s.count33 := by unfold State.dmaWrite; split <;> rfl
@[simp] theorem dmaWrite_stepCycles (a : Nat) (b : Byte) : (s.dmaWrite a b).stepCycles = s.stepCycles := by unfold State.dmaWrite; split <;> rfl
@[simp] theorem dmaWrite_extIp (a : Nat) (b : Byte) : (s.dmaWrite a b).extIp = s.extIp := by unfold State.dmaWrite; split <;> rfl
@[simp] theorem dmaWrite_cop0 (a : Nat) (b : Byte) : (s.dmaWrite a b).cop0 = s.cop0 := by unfold State.dmaWrite; split <;> rfl
@[simp] theorem dmaWrite_fpr (a : Nat) (b : Byte) : (s.dmaWrite a b).fpr = s.fpr := by unfold State.dmaWrite; split <;> rfl
@[simp] theorem dmaWrite_fcsr (a : Nat) (b : Byte) : (s.dmaWrite a b).fcsr = s.fcsr := by unfold State.dmaWrite; split <;> rfl
@[simp] theorem dmaWrite_tlb (a : Nat) (b : Byte) : (s.dmaWrite a b).tlb = s.tlb := by unfold State.dmaWrite; split <;> rfl
@[simp] theorem dmaWrite_icache (a : Nat) (b : Byte) : (s.dmaWrite a b).icache = s.icache := by unfold State.dmaWrite; split <;> rfl
@[simp] theorem dmaWrite_dcache (a : Nat) (b : Byte) : (s.dmaWrite a b).dcache = s.dcache := by unfold State.dmaWrite; split <;> rfl
@[simp] theorem dmaWrite_sched (a : Nat) (b : Byte) : (s.dmaWrite a b).sched = s.sched := by unfold State.dmaWrite; split <;> rfl
@[simp] theorem dmaWrite_mi (a : Nat) (b : Byte) : (s.dmaWrite a b).mi = s.mi := by unfold State.dmaWrite; split <;> rfl
@[simp] theorem dmaWrite_vi (a : Nat) (b : Byte) : (s.dmaWrite a b).vi = s.vi := by unfold State.dmaWrite; split <;> rfl
@[simp] theorem dmaWrite_ai (a : Nat) (b : Byte) : (s.dmaWrite a b).ai = s.ai := by unfold State.dmaWrite; split <;> rfl
@[simp] theorem dmaWrite_pi (a : Nat) (b : Byte) : (s.dmaWrite a b).pi = s.pi := by unfold State.dmaWrite; split <;> rfl
@[simp] theorem dmaWrite_ri (a : Nat) (b : Byte) : (s.dmaWrite a b).ri = s.ri := by unfold State.dmaWrite; split <;> rfl
@[simp] theorem dmaWrite_si (a : Nat) (b : Byte) : (s.dmaWrite a b).si = s.si := by unfold State.dmaWrite; split <;> rfl
@[simp] theorem dmaWrite_padState (a : Nat) (b : Byte) : (s.dmaWrite a b).padState = s.padState := by unfold State.dmaWrite; split <;> rfl
@[simp] theorem dmaWrite_cpuCarry (a : Nat) (b : Byte) : (s.dmaWrite a b).cpuCarry = s.cpuCarry := by unfold State.dmaWrite; split <;> rfl
@[simp] theorem dmaWrite_rspCarry (a : Nat) (b : Byte) : (s.dmaWrite a b).rspCarry = s.rspCarry := by unfold State.dmaWrite; split <;> rfl
@[simp] theorem dmaWrite_advancing (a : Nat) (b : Byte) : (s.dmaWrite a b).advancing = s.advancing := by unfold State.dmaWrite; split <;> rfl
@[simp] theorem dmaWrite_stop (a : Nat) (b : Byte) : (s.dmaWrite a b).stop = s.stop := by unfold State.dmaWrite; split <;> rfl
@[simp] theorem dmaWrite_firmwareLoaded (a : Nat) (b : Byte) : (s.dmaWrite a b).firmwareLoaded = s.firmwareLoaded := by unfold State.dmaWrite; split <;> rfl
@[simp] theorem dmaWrite_initialised (a : Nat) (b : Byte) : (s.dmaWrite a b).initialised = s.initialised := by unfold State.dmaWrite; split <;> rfl
@[simp] theorem dmaWrite_inputs (a : Nat) (b : Byte) : (s.dmaWrite a b).inputs = s.inputs := by unfold State.dmaWrite; split <;> rfl
@[simp] theorem dmaWrite_outputs (a : Nat) (b : Byte) : (s.dmaWrite a b).outputs = s.outputs := by unfold State.dmaWrite; split <;> rfl
@[simp] theorem dmaWrite_collabState (a : Nat) (b : Byte) : (s.dmaWrite a b).collabState = s.collabState := by unfold State.dmaWrite; split <;> rfl
@[simp] theorem dmaWrite_cfg (a : Nat) (b : Byte) : (s.dmaWrite a b).cfg = s.cfg := by unfold State.dmaWrite; split <;> rfl
@[simp] theorem dmaWrite_x (a : Nat) (b : Byte) (q : RegIdx) : (s.dmaWrite a b).x q = s.x q := by simp [State.x]
@[simp] theorem dmaWrite_mode (a : Nat) (b : Byte) : (s.dmaWrite a b).mode = s.mode := mode_of_cop0 (by simp)

@[simp] theorem chargeExtra_gpr (w : Word) : (s.chargeExtra w).gpr = s.gpr := by unfold State.chargeExtra; split <;> simp
@[simp] theorem chargeExtra_hi (w : Word) : (s.chargeExtra w).hi = s.hi := by unfold State.chargeExtra; split <;> simp
@[simp] theorem chargeExtra_lo (w : Word) : (s.chargeExtra w).lo = s.lo := by unfold State.chargeExtra; split <;> simp
@[simp] theorem chargeExtra_pc (w : Word) : (s.chargeExtra w).pc = s.pc := by unfold State.chargeExtra; split <;> simp
@[simp] theorem chargeExtra_branchState (w : Word) : (s.chargeExtra w).branchState = s.branchState := by unfold State.chargeExtra; split <;> simp
@[simp] theorem chargeExtra_branchTarget (w : Word) : (s.chargeExtra w).branchTarget = s.branchTarget := by unfold State.chargeExtra; split <;> simp
@[simp] theorem chargeExtra_llBit (w : Word) : (s.chargeExtra w).llBit = s.llBit := by unfold State.chargeExtra; split <;> simp
@[simp] theorem chargeExtra_excLatch (w : Word) : (s.chargeExtra w).excLatch = s.excLatch := by unfold State.chargeExtra; split <;> simp
@[simp] theorem chargeExtra_runCycles (w : Word) : (s.chargeExtra w).runCycles = s.runCycles := by unfold State.chargeExtra; split <;> simp
@[simp] theorem chargeExtra_count33 (w : Word) : (s.chargeExtra w).count33 = s.count33 := by unfold State.chargeExtra; split <;> simp
@[simp] theorem chargeExtra_extIp (w : Word) : (s.chargeExtra w).extIp = s.extIp := by unfold State.chargeExtra; split <;> simp
@[simp] theorem chargeExtra_cop0 (w : Word) : (s.chargeExtra w).cop0 = s.cop0 := by unfold State.chargeExtra; split <;> simp
@[simp] theorem chargeExtra_fpr (w : Word) : (s.chargeExtra w).fpr = s.fpr := by unfold State.chargeExtra; split <;> simp
@[simp] theorem chargeExtra_fcsr (w : Word) : (s.chargeExtra w).fcsr = s.fcsr := by unfold State.chargeExtra; split <;> simp
@[simp] theorem chargeExtra_tlb (w : Word) : (s.chargeExtra w).tlb = s.tlb := by unfold State.chargeExtra; split <;> simp
@[simp] theorem chargeExtra_icache (w : Word) : (s.chargeExtra w).icache = s.icache := by unfold State.chargeExtra; split <;> simp
@[simp] theorem chargeExtra_dcache (w : Word) : (s.chargeExtra w).dcache = s.dcache := by unfold State.chargeExtra; split <;> simp
@[simp] theorem chargeExtra_mem (w : Word) : (s.chargeExtra w).mem = s.mem := by unfold State.chargeExtra; split <;> simp
@[simp] theorem chargeExtra_sched (w : Word) : (s.chargeExtra w).sched = s.sched := by unfold State.chargeExtra; split <;> simp
@[simp] theorem chargeExtra_mi (w : Word) : (s.chargeExtra w).mi = s.mi := by unfold State.chargeExtra; split <;> simp
@[simp] theorem chargeExtra_vi (w : Word) : (s.chargeExtra w).vi = s.vi := by unfold State.chargeExtra; split <;> simp
@[simp] theorem chargeExtra_ai (w : Word) : (s.chargeExtra w).ai = s.ai := by unfold State.chargeExtra; split <;> simp
@[simp] theorem chargeExtra_pi (w : Word) : (s.chargeExtra w).pi = s.pi := by unfold State.chargeExtra; split <;> simp
@[simp] theorem chargeExtra_ri (w : Word) : (s.chargeExtra w).ri = s.ri := by unfold State.chargeExtra; split <;> simp
@[simp] theorem chargeExtra_si (w : Word) : (s.chargeExtra w).si = s.si := by unfold State.chargeExtra; split <;> simp
@[simp] theorem chargeExtra_padState (w : Word) : (s.chargeExtra w).padState = s.padState := by unfold State.chargeExtra; split <;> simp
@[simp] theorem chargeExtra_cpuCarry (w : Word) : (s.chargeExtra w).cpuCarry = s.cpuCarry := by unfold State.chargeExtra; split <;> simp
@[simp] theorem chargeExtra_rspCarry (w : Word) : (s.chargeExtra w).rspCarry = s.rspCarry := by unfold State.chargeExtra; split <;> simp
@[simp] theorem chargeExtra_advancing (w : Word) : (s.chargeExtra w).advancing = s.advancing := by unfold State.chargeExtra; split <;> simp
@[simp] theorem chargeExtra_stop (w : Word) : (s.chargeExtra w).stop = s.stop := by unfold State.chargeExtra; split <;> simp
@[simp] theorem chargeExtra_firmwareLoaded (w : Word) : (s.chargeExtra w).firmwareLoaded = s.firmwareLoaded := by unfold State.chargeExtra; split <;> simp
@[simp] theorem chargeExtra_initialised (w : Word) : (s.chargeExtra w).initialised = s.initialised := by unfold State.chargeExtra; split <;> simp
@[simp] theorem chargeExtra_inputs (w : Word) : (s.chargeExtra w).inputs = s.inputs := by unfold State.chargeExtra; split <;> simp
@[simp] theorem chargeExtra_outputs (w : Word) : (s.chargeExtra w).outputs = s.outputs := by unfold State.chargeExtra; split <;> simp
@[simp] theorem chargeExtra_collabState (w : Word) : (s.chargeExtra w).collabState = s.collabState := by unfold State.chargeExtra; split <;> simp
@[simp] theorem chargeExtra_cfg (w : Word) : (s.chargeExtra w).cfg = s.cfg := by unfold State.chargeExtra; split <;> simp
@[simp] theorem chargeExtra_x (w : Word) (q : RegIdx) : (s.chargeExtra w).x q = s.x q := by simp [State.x]
@[simp] theorem chargeExtra_mode (w : Word) : (s.chargeExtra w).mode = s.mode := mode_of_cop0 (by simp)

@[simp] theorem applyAction_gpr (e : Int) (a : CollabAction) : (s.applyAction e a).gpr = s.gpr := by cases a <;> simp [State.applyAction]
@[simp] theorem applyAction_hi (e : Int) (a : CollabAction) : (s.applyAction e a).hi = s.hi := by cases a <;> simp [State.applyAction]
@[simp] theorem applyAction_lo (e : Int) (a : CollabAction) : (s.applyAction e a).lo = s.lo := by cases a <;> simp [State.applyAction]
@[simp] theorem applyAction_pc (e : Int) (a : CollabAction) : (s.applyAction e a).pc = s.pc := by cases a <;> simp [State.applyAction]
@[simp] theorem applyAction_branchState (e : Int) (a : CollabAction) : (s.applyAction e a).branchState = s.branchState := by cases a <;> simp [State.applyAction]
@[simp] theorem applyAction_branchTarget (e : Int) (a : CollabAction) : (s.applyAction e a).branchTarget = s.branchTarget := by cases a <;> simp [State.applyAction]
@[simp] theorem applyAction_llBit (e : Int) (a : CollabAction) : (s.applyAction e a).llBit = s.llBit := by cases a <;> simp [State.applyAction]
@[simp] theorem applyAction_excLatch (e : Int) (a : CollabAction) : (s.applyAction e a).excLatch = s.excLatch := by cases a <;> simp [State.applyAction]
@[simp] theorem applyAction_runCycles (e : Int) (a : CollabAction) : (s.applyAction e a).runCycles = s.runCycles := by cases a <;> simp [State.applyAction]
@[simp] theorem applyAction_count33 (e : Int) (a : CollabAction) : (s.applyAction e a).count33 = s.count33 := by cases a <;> simp [State.applyAction]
@[simp] theorem applyAction_stepCycles (e : Int) (a : CollabAction) : (s.applyAction e a).stepCycles = s.stepCycles := by cases a <;> simp [State.applyAction]
@[simp] theorem applyAction_extIp (e : Int) (a : CollabAction) : (s.applyAction e a).extIp = s.extIp := by cases a <;> simp [State.applyAction]
@[simp] theorem applyAction_cop0 (e : Int) (a : CollabAction) : (s.applyAction e a).cop0 = s.cop0 := by cases a <;> simp [State.applyAction]
@[simp] theorem applyAction_fpr (e : Int) (a : CollabAction) : (s.applyAction e a).fpr = s.fpr := by cases a <;> simp [State.applyAction]
@[simp] theorem applyAction_fcsr (e : Int) (a : CollabAction) : (s.applyAction e a).fcsr = s.fcsr := by cases a <;> simp [State.applyAction]
@[simp] theorem applyAction_tlb (e : Int) (a : CollabAction) : (s.applyAction e a).tlb = s.tlb := by cases a <;> simp [State.applyAction]
@[simp] theorem applyAction_icache (e : Int) (a : CollabAction) : (s.applyAction e a).icache = s.icache := by cases a <;> simp [State.applyAction]
@[simp] theorem applyAction_dcache (e : Int) (a : CollabAction) : (s.applyAction e a).dcache = s.dcache := by cases a <;> simp [State.applyAction]
@[simp] theorem applyAction_vi (e : Int) (a : CollabAction) : (s.applyAction e a).vi = s.vi := by cases a <;> simp [State.applyAction]
@[simp] theorem applyAction_ai (e : Int) (a : CollabAction) : (s.applyAction e a).ai = s.ai := by cases a <;> simp [State.applyAction]
@[simp] theorem applyAction_pi (e : Int) (a : CollabAction) : (s.applyAction e a).pi = s.pi := by cases a <;> simp [State.applyAction]
@[simp] theorem applyAction_ri (e : Int) (a : CollabAction) : (s.applyAction e a).ri = s.ri := by cases a <;> simp [State.applyAction]
@[simp] theorem applyAction_si (e : Int) (a : CollabAction) : (s.applyAction e a).si = s.si := by cases a <;> simp [State.applyAction]
@[simp] theorem applyAction_padState (e : Int) (a : CollabAction) : (s.applyAction e a).padState = s.padState := by cases a <;> simp [State.applyAction]
@[simp] theorem applyAction_cpuCarry (e : Int) (a : CollabAction) : (s.applyAction e a).cpuCarry = s.cpuCarry := by cases a <;> simp [State.applyAction]
@[simp] theorem applyAction_rspCarry (e : Int) (a : CollabAction) : (s.applyAction e a).rspCarry = s.rspCarry := by cases a <;> simp [State.applyAction]
@[simp] theorem applyAction_advancing (e : Int) (a : CollabAction) : (s.applyAction e a).advancing = s.advancing := by cases a <;> simp [State.applyAction]
@[simp] theorem applyAction_stop (e : Int) (a : CollabAction) : (s.applyAction e a).stop = s.stop := by cases a <;> simp [State.applyAction]
@[simp] theorem applyAction_firmwareLoaded (e : Int) (a : CollabAction) : (s.applyAction e a).firmwareLoaded = s.firmwareLoaded := by cases a <;> simp [State.applyAction]
@[simp] theorem applyAction_initialised (e : Int) (a : CollabAction) : (s.applyAction e a).initialised = s.initialised := by cases a <;> simp [State.applyAction]
@[simp] theorem applyAction_inputs (e : Int) (a : CollabAction) : (s.applyAction e a).inputs = s.inputs := by cases a <;> simp [State.applyAction]
@[simp] theorem applyAction_collabState (e : Int) (a : CollabAction) : (s.applyAction e a).collabState = s.collabState := by cases a <;> simp [State.applyAction]
@[simp] theorem applyAction_cfg (e : Int) (a : CollabAction) : (s.applyAction e a).cfg = s.cfg := by cases a <;> simp [State.applyAction]
@[simp] theorem applyAction_x (e : Int) (a : CollabAction) (q : RegIdx) : (s.applyAction e a).x q = s.x q := by simp [State.x]
@[simp] theorem applyAction_mode (e : Int) (a : CollabAction) : (s.applyAction e a).mode = s.mode := mode_of_cop0 (by simp)

end Sys2Proof.Machine
end

