-- ==== Sys2Proof/Laws/Ops.lean ====
section
/-! SUPPORT. What the shared ends of instructions do, said once: completing, writing a register, registering a branch, taking an
exception. -/

namespace Sys2Proof.Machine

/-! ### Pieces of instructions -/

@[simp] theorem finish_ok {α : Type} (a : α) (s : State) (k : α → State → Result) : (Res.ok a s).finish k = k a s := rfl
@[simp] theorem finish_raise {α : Type} (e : Exc) (s : State) (k : α → State → Result) :
    (Res.raise e s : Res α).finish k = .next (takeException e s) := rfl
@[simp] theorem finish_refuse {α : Type} (q : Refusal) (k : α → State → Result) :
    (Res.refuse q : Res α).finish k = .refused q := rfl
@[simp] theorem bind_ok {α β : Type} (a : α) (s : State) (k : α → State → Res β) : (Res.ok a s).bind k = k a s := rfl
@[simp] theorem bind_raise {α β : Type} (e : Exc) (s : State) (k : α → State → Res β) :
    (Res.raise e s : Res α).bind k = .raise e s := rfl
@[simp] theorem bind_refuse {α β : Type} (q : Refusal) (k : α → State → Res β) :
    (Res.refuse q : Res α).bind k = .refuse q := rfl

/-! ### Writing a general register -/

theorem x_zero (s : State) : s.x 0 = 0#64 := by simp [State.x]

theorem setX_gprSet (r : RegIdx) (v : DWord) (s : State) : GprSet r v s (s.setX r v) := by
  intro q
  unfold State.setX State.x
  by_cases hr : r = 0
  · subst hr
    by_cases hq : q = 0 <;> simp [hq]
  · by_cases hq : q = 0
    · simp [hq]
    · by_cases hqr : q = r
      · subst hqr; simp [hr]
      · have : r.val ≠ q.val := fun h => hqr (Fin.ext h.symm)
        simp [hr, hq, hqr, Vector.getElem_set_ne _ _ this]

/-! ### Nothing changed -/

theorem SameGpr.rfl (s : State) : SameGpr s s := fun _ => Eq.refl _
theorem SameMemory.rfl (s : State) : SameMemory s s := ⟨fun _ => Eq.refl _, Eq.refl _, Eq.refl _⟩
theorem SamePlatform.rfl (s : State) : SamePlatform s s := by constructor <;> exact Eq.refl _

theorem SamePlatform.trans {s m t : State} (h : SamePlatform m t) (k : SamePlatform s m) : SamePlatform s t where
  sched := h.sched.trans k.sched
  mi := h.mi.trans k.mi
  vi := h.vi.trans k.vi
  ai := h.ai.trans k.ai
  pi := h.pi.trans k.pi
  ri := h.ri.trans k.ri
  si := h.si.trans k.si
  padState := h.padState.trans k.padState
  extIp := h.extIp.trans k.extIp
  runCycles := h.runCycles.trans k.runCycles
  count33 := h.count33.trans k.count33
  cpuCarry := h.cpuCarry.trans k.cpuCarry
  rspCarry := h.rspCarry.trans k.rspCarry
  advancing := h.advancing.trans k.advancing
  stop := h.stop.trans k.stop
  firmwareLoaded := h.firmwareLoaded.trans k.firmwareLoaded
  initialised := h.initialised.trans k.initialised
  inputs := h.inputs.trans k.inputs
  outputs := h.outputs.trans k.outputs
  collabState := h.collabState.trans k.collabState
  cfg := h.cfg.trans k.cfg

/-! ### Completing -/

theorem retire_completed (s : State) : Completed 0 s s.retire := by
  constructor
  · simp
  · simp
  · simp
  · intro h; simp [State.retire, State.advance, h]
  · intro h; simp [State.retire, State.advance, h]
  · intro h; simp [State.retire, State.advance, h]

/-- Completing from a state that differs from `s` in nothing that completing reads or keeps. -/
theorem Completed.of_eq {n : Nat} {s m t : State} (h : Completed n m t) (latch : m.excLatch = s.excLatch)
    (cycles : m.stepCycles = s.stepCycles) (target : m.branchTarget = s.branchTarget) (bs : m.branchState = s.branchState)
    (pc : m.pc = s.pc) : Completed n s t where
  latch := h.latch.trans latch
  cycles := by rw [h.cycles, cycles]
  target := h.target.trans target
  outside hb := by rw [← pc]; exact h.outside (bs.trans hb)
  takenSlot hb := by rw [← pc]; exact h.takenSlot (bs.trans hb)
  notTakenSlot hb := by rw [← pc]; exact h.notTakenSlot (bs.trans hb)

theorem retire_samePlatform (s : State) : SamePlatform s s.retire := by constructor <;> simp

theorem retire_sameRest (s : State) : SameRest s s.retire where
  fpu := ⟨by simp, by simp⟩
  memory := ⟨by simp, by simp, by simp⟩
  platform := retire_samePlatform s
  completed := retire_completed s

theorem retire_wroteNothing (s : State) : WroteNothing s s.retire where
  gpr := fun _ => by simp
  hiLo := ⟨by simp, by simp⟩
  system := ⟨by simp, by simp, by simp⟩
  rest := retire_sameRest s

theorem setX_retire_wroteGpr (rd : RegIdx) (v : DWord) (s : State) :
    WroteGpr rd v s ((s.setX rd v).retire) where
  gpr := fun q => by simpa using setX_gprSet rd v s q
  hiLo := ⟨by simp, by simp⟩
  system := ⟨by simp, by simp, by simp⟩
  rest :=
    { fpu := ⟨by simp, by simp⟩
      memory := ⟨by simp, by simp, by simp⟩
      platform := by constructor <;> simp
      completed := (retire_completed (s.setX rd v)).of_eq (by simp) (by simp) (by simp) (by simp) (by simp) }

/-- An instruction that ends by writing a doubleword. -/
theorem finishDouble_answers (rd : RegIdx) (v : DWord) (s : State) :
    ∃ t, finishDouble rd v s = .next t ∧ WroteGpr rd v s t :=
  ⟨_, rfl, by simpa using setX_retire_wroteGpr rd v s⟩

/-- An instruction that ends by writing a sign-extended word. -/
theorem finishWord_answers (rd : RegIdx) (v : Word) (s : State) :
    ∃ t, finishWord rd v s = .next t ∧ WroteGpr rd (sext32 v) s t :=
  ⟨_, rfl, by simpa using setX_retire_wroteGpr rd (sext32 v) s⟩

/-- An instruction that ends by writing HI and LO. -/
theorem finishHiLo_answers (h l : DWord) (s : State) :
    ∃ t, finishHiLo h l s = .next t ∧ WroteHiLo h l s t :=
  ⟨_, rfl,
    { hi := by simp [State.setHiLo]
      lo := by simp [State.setHiLo]
      gpr := fun _ => by simp
      system := ⟨by simp, by simp, by simp⟩
      rest :=
        { fpu := ⟨by simp, by simp⟩
          memory := ⟨by simp, by simp, by simp⟩
          platform := by constructor <;> simp
          completed := (retire_completed (s.setHiLo h l)).of_eq (by simp) (by simp) (by simp) (by simp) (by simp) } }⟩

/-- An instruction that ends having done nothing. -/
theorem done_answers (s : State) : ∃ t, s.done = .next t ∧ WroteNothing s t :=
  ⟨_, rfl, retire_wroteNothing _⟩

/-! ### Branches -/

theorem setX_zero (v : DWord) (s : State) : s.setX 0 v = s := by simp [State.setX]

theorem branch_outside {s : State} (h : s.branchState = .noBranch) (rd : RegIdx) (v : DWord) (c : Bool) (target : DWord) :
    ∃ t, (s.setX rd v).branch c target = .next t ∧ BranchFrame rd v s t ∧ BranchRegistered c target s t := by
  unfold State.branch
  rw [setX_branchState, h]
  refine ⟨_, rfl, ?_, ?_⟩
  · have hx := setX_gprSet rd v s
    cases c <;> constructor <;> first
      | (intro q; simpa [State.x] using hx q)
      | constructor <;> simp
      | simp
  · cases c <;> constructor <;> simp [State.advance]

theorem branchLikely_outside {s : State} (h : s.branchState = .noBranch) (rd : RegIdx) (v : DWord) (c : Bool) (target : DWord) :
    ∃ t, (s.setX rd v).branchLikely c target = .next t ∧ BranchFrame rd v s t ∧ LikelyRegistered c target s t := by
  unfold State.branchLikely
  rw [setX_branchState, h]
  refine ⟨_, rfl, ?_, ?_⟩
  · have hx := setX_gprSet rd v s
    cases c <;> constructor <;> first
      | (intro q; simpa [State.x] using hx q)
      | constructor <;> simp
      | simp
  · cases c <;> constructor <;> simp [State.advance, h]

/-- A branch of either kind in a delay slot (D24). -/
theorem branch_slot {s : State} (h : s.branchState ≠ .noBranch) (rd : RegIdx) (v : DWord) (c : Bool) (target : DWord) :
    (∃ t, (s.setX rd v).branch c target = .next t ∧ BranchFrame rd v s t ∧ SlotKept s t)
      ∧ ∃ t, (s.setX rd v).branchLikely c target = .next t ∧ BranchFrame rd v s t ∧ SlotKept s t := by
  have hx := setX_gprSet rd v s
  have key : ∀ b : BranchState, b = s.branchState → b ≠ .noBranch →
      BranchFrame rd v s ((s.setX rd v).advance b false)
        ∧ SlotKept s ((s.setX rd v).advance b false) := by
    intro b hb hn
    refine ⟨?_, ?_⟩
    · constructor <;> first
        | (intro q; simpa [State.x] using hx q)
        | constructor <;> simp
        | simp
    · constructor
      · simp
      · intro e; rw [hb, e]; simp [State.advance]
      · intro e; rw [hb, e]; simp [State.advance]
  unfold State.branch State.branchLikely
  rw [setX_branchState]
  cases hb : s.branchState
  · exact absurd hb h
  all_goals exact ⟨⟨_, rfl, key _ hb.symm (by simp)⟩, ⟨_, rfl, key _ hb.symm (by simp)⟩⟩

/-! ### Exceptions -/

theorem vectorOf_eq (e : Exc) (bev exl : Bool) :
    vectorBase bev + e.vectorOffset exl = vectorOf bev (e.refill && !exl) e.xtlb := by
  cases e with
  | tlbl a r x => cases bev <;> cases exl <;> cases r <;> cases x <;> rfl
  | tlbs a r x => cases bev <;> cases exl <;> cases r <;> cases x <;> rfl
  | _ => cases bev <;> cases exl <;> rfl

theorem recordVaddr_cause (a : DWord) (c : Cop0) : (c.recordVaddr a).cause = c.cause := rfl

/-- The fields of Cause after an exception (R820). -/
theorem causeAfter_fields (e : Exc) (bd : Option Bool) (c : Word) :
    bitField (causeAfter e bd c) 2 5 = e.code ∧ bitField (causeAfter e bd c) 28 2 = e.ce
      ∧ causeAfter e bd c &&& 0x4FFFFF83#32 = c &&& 0x4FFFFF83#32
      ∧ bit (causeAfter e bd c) 31 = bd.getD (bit c 31) := by
  have hv : ∀ (x : BitVec 2) (y : BitVec 5), bitField ((x.setWidth 32 <<< 28) ||| (y.setWidth 32 <<< 2)) 2 5 = y
      ∧ bitField ((x.setWidth 32 <<< 28) ||| (y.setWidth 32 <<< 2)) 28 2 = x := by decide
  obtain ⟨h1, h2⟩ := hv e.ce e.code
  cases bd with
  | none =>
    refine ⟨?_, ?_, ?_, ?_⟩
    · exact (bitField_masked_inside (by decide) _ _).trans h1
    · exact (bitField_masked_inside (by decide) _ _).trans h2
    · exact masked_and_disjoint (by decide) _ _
    · exact bit_masked_outside (by decide) _ _
  | some b =>
    refine ⟨?_, ?_, ?_, ?_⟩
    · exact (bitField_setBit (by decide) _ _).trans ((bitField_masked_inside (by decide) _ _).trans h1)
    · exact (bitField_setBit (by decide) _ _).trans ((bitField_masked_inside (by decide) _ _).trans h2)
    · exact (setBit_and_disjoint (by decide) _ _).trans (masked_and_disjoint (by decide) _ _)
    · exact bit_setBit_self (by decide) _ _

/-- The address registers after a faulting address is recorded (R221). -/
theorem recordVaddr_fields (a : DWord) (s t : State) (h : t.cop0.badVAddr = a)
    (hc : t.cop0.context = (s.cop0.recordVaddr a).context) (hx : t.cop0.xContext = (s.cop0.recordVaddr a).xContext)
    (he : t.cop0.entryHi = (s.cop0.recordVaddr a).entryHi) : AddressRecorded a s t := by
  have field : ∀ (v : DWord) (k lo len : Nat), bitField (v >>> k) lo len = bitField v (k + lo) len := by
    intro v k lo len
    apply BitVec.eq_of_getLsbD_eq
    intro i hi
    simp [hi, Nat.add_assoc]
  constructor
  · exact h
  · rw [hc]; exact (bitField_masked_inside (by decide) _ _).trans (field _ _ _ _)
  · rw [hc]; exact masked_and_disjoint (by decide) _ _
  · rw [hx]
    exact (bitField_masked_outside (by decide) _ _).trans ((bitField_masked_inside (by decide) _ _).trans (field _ _ _ _))
  · rw [hx]; exact (bitField_masked_inside (by decide) _ _).trans (field _ _ _ _)
  · rw [hx]; exact (masked_and_disjoint (by decide) _ _).trans (masked_and_disjoint (by decide) _ _)
  · rw [he]; exact bitField_masked_inside (by decide) _ _
  · rw [he]; exact bitField_masked_inside (by decide) _ _
  · rw [he]; exact masked_and_disjoint (by decide) _ _

theorem recorded_status (e : Exc) (c : Cop0) : (c.recorded e).status = c.status := by
  unfold Cop0.recorded; split <;> rfl

theorem recorded_cause (e : Exc) (c : Cop0) : (c.recorded e).cause = c.cause := by
  unfold Cop0.recorded; split <;> rfl

theorem recorded_epc (e : Exc) (c : Cop0) : (c.recorded e).epc = c.epc := by
  unfold Cop0.recorded; split <;> rfl

/-- Every register after trap entry, in one place (R820). -/
theorem afterException_eq (e : Exc) (pc : DWord) (inSlot : Bool) (c : Cop0) :
    c.afterException e pc inSlot =
      { c.recorded e with
        cause := causeAfter e (if bit c.status 1 then none else some inSlot) c.cause
        epc := if bit c.status 1 then c.epc else if inSlot then pc - 4#64 else pc
        status := setBit c.status 1 true } := by
  unfold Cop0.afterException Cop0.entered
  rw [recorded_status, recorded_cause]
  by_cases h : bit c.status 1 = true
  · have hs : setBit c.status 1 true = c.status := by
      apply BitVec.eq_of_getLsbD_eq
      intro i hi
      rw [getLsbD_setBit]
      by_cases hk : i = 1
      · subst hk; simpa using h.symm
      · simp [hk]
    rw [if_pos h, if_pos h, if_pos h, hs, ← recorded_status e c, ← recorded_epc e c]
  · rw [if_neg h, if_neg h, if_neg h]

/-- Trap entry does what R820 says. -/
theorem takeException_taken (e : Exc) (s : State) (h : s.excLatch = false) : ExceptionTaken e s (takeException e s) := by
  have hc : (takeException e s).cop0 =
      { s.cop0.recorded e with
        cause := causeAfter e (if bit s.cop0.status 1 then none else some s.branchState.inSlot) s.cop0.cause
        epc := if bit s.cop0.status 1 then s.cop0.epc else if s.branchState.inSlot then s.pc - 4#64 else s.pc
        status := setBit s.cop0.status 1 true } := by
    rw [takeException, if_neg (by simp [h])]
    exact afterException_eq e s.pc s.branchState.inSlot s.cop0
  obtain ⟨c1, c2, c3, c4⟩ := causeAfter_fields e (if bit s.cop0.status 1 then none else some s.branchState.inSlot) s.cop0.cause
  constructor
  · constructor
    · intro q; simp [State.x]
    · constructor <;> simp
    · simp
    · simp
    · constructor <;> simp
    · exact ⟨by simp, by simp, by simp⟩
    · constructor <;> simp
    · unfold SameCop0ButTrap
      rw [hc]
      unfold Cop0.recorded
      split <;> rfl
  · simp [takeException, h]
  · rw [hc]; exact c1
  · rw [hc]; exact c2
  · rw [hc]; exact c3
  · rw [hc]; exact c4.trans (by simp only [State.exl, State.status]; split <;> rfl)
  · rw [hc]
  · rw [hc]
  · intro a ha
    apply recordVaddr_fields <;> · rw [hc]; simp only [Cop0.recorded, ha]; try rfl
  · intro ha
    refine ⟨?_, ?_, ?_, ?_⟩ <;> · rw [hc]; simp only [Cop0.recorded, ha]
  · simp [takeException, h]
  · simp
  · simp
  · simp [takeException, h, vectorOf_eq]

end Sys2Proof.Machine
end

