-- ==== Sys2Proof/Laws/Access.lean ====
section
/-! SUPPORT. The spec of a data access to a plain region or (a load) to a device's registers, said once: what translation keeps of an address, what making a data line present does, and
what `MemRead`, `MemWrite` and the masked write answer when the access is ready. -/

namespace Sys2Proof.Machine

/-! ### Partial accesses -/

@[simp] theorem Res.withAddress_ok {α : Type} (a : DWord) (v : α) (s : State) : (Res.ok v s).withAddress a = .ok v s := rfl

@[simp] theorem Res.withAddress_raise {α : Type} (a : DWord) (e : Exc) (s : State) :
    (Res.raise e s : Res α).withAddress a = .raise (e.withAddress a) s := rfl

@[simp] theorem Res.withAddress_refuse {α : Type} (a : DWord) (q : Refusal) : (Res.refuse q : Res α).withAddress a = .refuse q := rfl

/-- What a partial access raises is what the statements call `Instr.raised`. -/
theorem raised_of_partial {i : Instr} {ea : DWord} {s : State} (h : Instr.partialAddress i s = some ea) (e : Exc) :
    Instr.raised i e s = e.withAddress (s.adjusted ea) := by
  unfold Instr.raised
  rw [h]
  cases e <;> rfl

/-! ### Translation -/

theorem ite_ne_rdram {c : Prop} [Decidable c] {a b : Region} (ha : a ≠ .rdram) (hb : b ≠ .rdram) :
    (if c then a else b) ≠ .rdram := by
  split
  · exact ha
  · exact hb

theorem route_rdram {size : RdramSize} {pa : Word} : route size pa = .rdram ↔ pa.toNat < rdramBytes size := by
  unfold route
  constructor
  · intro h
    by_contra hn
    rw [if_neg hn] at h
    revert h
    show (_ : Region) ≠ Region.rdram
    iterate 18 refine ite_ne_rdram nofun ?_
    nofun
  · intro h
    exact if_pos h

theorem toNat_dLineBase (pa : Word) : (dLineBase pa).toNat = pa.toNat - pa.toNat % 16 := by
  have h : pa &&& 0xFFFFFFF0#32 = (pa >>> 4) <<< 4 := by
    apply BitVec.eq_of_getLsbD_eq
    intro i hi
    have : ∀ i : Nat, i < 32 → (0xFFFFFFF0#32).getLsbD i = decide (4 ≤ i) := by decide
    rw [BitVec.getLsbD_and, this i hi]
    by_cases h4 : 4 ≤ i
    · have : 4 + (i - 4) = i := by omega
      simp [h4, hi, this]
    · simp [h4, hi]
  unfold dLineBase
  rw [h]
  simp only [BitVec.toNat_shiftLeft, BitVec.toNat_ushiftRight, Nat.shiftLeft_eq, Nat.shiftRight_eq_div_pow]
  have := pa.isLt
  omega

/-- The bounds of the map are multiples of 32, so a line lies in one region (R230, R242, R243). -/
theorem route_line {size : RdramSize} {pa q : Word} {n : Nat} (hn : n = 16 ∨ n = 32) (h : q.toNat = pa.toNat - pa.toNat % n) :
    route size q = route size pa := by
  have key : ∀ k : Nat, k % 32 = 0 → (q.toNat < k ↔ pa.toNat < k) := by
    intro k hk
    rcases hn with rfl | rfl <;> omega
  have h0 : rdramBytes size % 32 = 0 := by cases size <;> rfl
  unfold route
  simp only [key _ h0, key 0x03F00000 rfl, key 0x04000000 rfl, key 0x04002000 rfl, key 0x04040000 rfl, key 0x04100000 rfl,
    key 0x04300000 rfl, key 0x04400000 rfl, key 0x04500000 rfl, key 0x04600000 rfl, key 0x04700000 rfl, key 0x04800000 rfl,
    key 0x04900000 rfl, key 0x05000000 rfl, key 0x1FC00000 rfl, key 0x1FC007C0 rfl, key 0x1FC00800 rfl, key 0x1FD00000 rfl,
    key 0x80000000 rfl]

theorem route_dLineBase (size : RdramSize) (pa : Word) : route size (dLineBase pa) = route size pa :=
  route_line (.inl rfl) (toNat_dLineBase pa)

theorem dWriteback_mod (pa : Word) (l : DLine) : (dWritebackAddress pa l).toNat % 16 = 0 := by
  have h : dWritebackAddress pa l &&& 15#32 = 0#32 := by
    apply BitVec.eq_of_getLsbD_eq
    intro i hi
    have : ∀ i : Nat, i < 32 → (15#32).getLsbD i = decide (i < 4) := by decide
    rw [BitVec.getLsbD_and, this i hi]
    by_cases h4 : i < 4
    · have h12 : (l.tag ++ 0#12).getLsbD i = false := by rw [BitVec.getLsbD_append, if_pos (by omega)]; simp
      simp [dWritebackAddress, h4, h12]
    · simp [h4]
  have h2 : (dWritebackAddress pa l &&& 15#32).toNat = (0#32).toNat := by rw [h]
  rw [BitVec.toNat_and] at h2
  have : (15#32).toNat = 2 ^ 4 - 1 := rfl
  rw [this, Nat.and_two_pow_sub_one_eq_mod] at h2
  simpa using h2

/-- Addresses of one line have one index. -/
theorem dLine_dLineBase (pa : Word) : dIndex (dLineBase pa) = dIndex pa := by
  unfold dIndex dLineBase
  congr 1
  apply BitVec.eq_of_getLsbD_eq
  intro i hi
  have : ∀ i : Nat, i < 9 → (0xFFFFFFF0#32).getLsbD (4 + i) = true := by decide
  simp [hi, this i hi]

/-! ### Translation keeps the offset in the page -/

theorem low32_toNat (a : DWord) : (low32 a).toNat = a.toNat % 2 ^ 32 := by simp [low32]

theorem sub_mod_4096 {u k : Word} (hk : k.toNat % 4096 = 0) : (u - k).toNat % 4096 = u.toNat % 4096 := by
  rw [BitVec.toNat_sub]
  have := u.isLt
  have := k.isLt
  omega

theorem adjusted_mod (a : DWord) (s : State) : (s.adjusted a).toNat % 4096 = a.toNat % 4096 := by
  unfold State.adjusted
  split
  · rfl
  · have h : low32 (sext32 (low32 a)) = low32 a := by
      apply BitVec.eq_of_getLsbD_eq
      intro i hi
      simp [low32, sext32, BitVec.getLsbD_signExtend, hi]
      intros; omega
    have h1 := low32_toNat (sext32 (low32 a))
    rw [h, low32_toNat] at h1
    omega

theorem mapOf_mod {a : DWord} {s : State} {pa : Word} {c : Bool} (h : s.mapOf a = .unmapped pa c) :
    pa.toNat % 4096 = a.toNat % 4096 := by
  have hl : (low32 a).toNat % 4096 = a.toNat % 4096 := by rw [low32_toNat]; omega
  have h8 := sub_mod_4096 (u := low32 a) (k := 0x80000000#32) (by decide)
  have hA := sub_mod_4096 (u := low32 a) (k := 0xA0000000#32) (by decide)
  have hk : ∀ e k, kernel32 e k (low32 a) = .unmapped pa c → pa.toNat % 4096 = a.toNat % 4096 := by
    intro e k h
    unfold kernel32 at h
    split_ifs at h <;> (try simp at h) <;> (obtain ⟨rfl, -⟩ := h; omega)
  have hx : xkphys a = .unmapped pa c → pa.toNat % 4096 = a.toNat % 4096 := by
    intro h
    unfold xkphys at h
    split_ifs at h
    injection h with h1 h2; subst h1; omega
  have hK : ∀ e k, kernel64 e k a = .unmapped pa c → pa.toNat % 4096 = a.toNat % 4096 := by
    intro e k h
    unfold kernel64 at h
    dsimp only at h
    split_ifs at h <;> first
      | exact hx h
      | (injection h with h1 h2; subst h1; omega)
  unfold State.mapOf at h
  split at h
  · split at h
    · exact hK _ _ h
    · exact hk _ _ h
  · split at h
    · simp only [supervisor64] at h; split_ifs at h
    · simp only [supervisor32] at h; split_ifs at h
  · split at h
    · simp only [user64] at h; split_ifs at h
    · simp only [user32] at h; split_ifs at h
  · cases h

theorem offsetMask_bit (e : TlbEntry) (i : Nat) (hi : i < 12) : e.offsetMask.getLsbD i = true := by
  have : ∀ i : Nat, i < 12 → (0xFFF#64).getLsbD i = true := by decide
  simp [TlbEntry.offsetMask, this i hi]

theorem physical_mod (a : DWord) (e : TlbEntry) : (e.physical a).toNat % 4096 = a.toNat % 4096 := by
  have key : (e.physical a).setWidth 12 = a.setWidth 12 := by
    apply BitVec.eq_of_getLsbD_eq
    intro i hi
    have hm := offsetMask_bit e i hi
    simp only [TlbEntry.physical, low32, BitVec.getLsbD_setWidth, BitVec.getLsbD_or, BitVec.getLsbD_and, BitVec.getLsbD_not, hm]
    simp [hi, show i < 32 by omega, show i < 64 by omega]
  have := congrArg BitVec.toNat key
  simpa using this

/-- Translation keeps the offset in the smallest page. -/
theorem translate_mod {a : DWord} {kind : AccessKind} {s t : State} {pa : Word} {c : Bool}
    (h : translate a kind s = .ok (pa, c) t) : pa.toNat % 4096 = a.toNat % 4096 := by
  rw [← adjusted_mod a s]
  unfold translate at h
  split_ifs at h
  split at h
  · cases h
  · rename_i hm
    injection h with h1 h2
    injection h1 with h3 h4
    subst h3
    exact mapOf_mod hm
  · unfold tlbLookup at h
    split at h
    · cases h
    · split_ifs at h
      injection h with h1 h2
      injection h1 with h3 h4
      subst h3
      exact physical_mod _ _

/-! ### Making a data line present -/

theorem lineData_toList {n : Nat} {bs : List Byte} (h : bs.length = n) : (lineData n bs).toList = bs := by
  simp [lineData, Vector.toList, h]

theorem getD_map_range {f : Nat → Byte} {n i : Nat} (h : i < n) : ((List.range n).map f).getD i 0#8 = f i := by
  simp [List.getD, h]

theorem bytesOf_one (v : DWord) : bytesOf v 1 = [v.setWidth 8] := by
  simp [bytesOf]

/-- The bytes of a line of unclaimed addresses (R247, log entry 22). -/
theorem openBusLine_eq_map (s : State) (pa : Word) (n : Nat) (h : pa.toNat + n ≤ 2 ^ 32) :
    openBusLine s.cfg pa n = (List.range n).map fun i => s.openByte (pa.toNat + i) := by
  induction n generalizing pa with
  | zero => rfl
  | succ n ih =>
    rw [openBusLine, List.range_succ_eq_map, List.map_cons, List.map_map, openBusBytes, bytesOf_one, List.singleton_append]
    congr 1
    cases n with
    | zero => rfl
    | succ n =>
      have hp : (pa + 1#32).toNat = pa.toNat + 1 := by
        rw [BitVec.toNat_add]; simp; omega
      rw [ih _ (by omega)]
      apply List.map_congr_left
      intro i _
      simp only [Function.comp, hp]
      congr 1
      omega

theorem readBytes_eq_map (m : Memory) (a n : Nat) : m.readBytes a n = (List.range n).map fun i => m.read (a + i) := by
  apply List.ext_getElem?
  intro i
  rw [Memory.getElem?_readBytes]
  by_cases h : i < n <;> simp [h]

/-- What a cached access finds after its line is present: everything but memory, the line and the cycles is unchanged. -/
structure LinePresent (pa : Word) (s t : State) : Prop where
  frame : t = { s with mem := t.mem, dcache := t.dcache, stepCycles := t.stepCycles }
  cycles : t.stepCycles = s.stepCycles + s.accessCycles true pa 1
  hit : (t.dLine pa).hits pa = true
  data : ∀ i : Nat, i < 16 → (t.dLine pa).data.toList.getD i 0#8 = s.seenInLine pa i
  memory : LoadMemory true pa s t
  wf : t.mem.wf = true

theorem writeSome_line {m : Memory} (hw : m.wf = true) (w : Nat) (d : Vector Byte 16) (q : Nat) :
    (m.writeSome w (d.toList.map some)).read q =
      if w ≤ q ∧ q < w + 16 then d.toList.getD (q - w) 0#8 else m.read q := by
  rw [Memory.read_writeSome hw]
  have hl : d.toList.length = 16 := by simp
  by_cases h : w ≤ q ∧ q < w + 16
  · rw [if_pos h]
    unfold storedByte
    rw [if_pos h.1, List.getElem?_map]
    have : q - w < d.toList.length := by omega
    simp [List.getElem?_eq_getElem this, List.getD]
  · rw [if_neg h, storedByte_outside _ _ _ (by simpa using h)]
    rfl

theorem hits_tag {pa : Word} {l : DLine} (h : l.hits pa = true) : l.valid = true ∧ l.tag = cacheTag pa := by
  simpa [DLine.hits] using h

theorem setDLine_dLine (pa : Word) (l : DLine) (s : State) : (s.setDLine pa l).dLine pa = l := by
  simp [State.setDLine, State.dLine]

theorem setDLine_other (pa : Word) (l : DLine) (s : State) (i : Fin 512) (h : i ≠ dIndex pa) :
    (s.setDLine pa l).dcache[i.val] = s.dcache[i.val] := by
  have : (dIndex pa).val ≠ i.val := fun e => h (Fin.ext e.symm)
  simp [State.setDLine, Vector.getElem_set_ne _ _ this]

/-- A write-back to a plain region (R230, R247). -/
theorem lineWrite_plain {pa : Word} {d : Vector Byte 16} {s : State} (hw : s.mem.wf = true) (hp : (s.region pa).isPlain = true) :
    ∃ m, lineWrite pa d.toList s = .ok () { s with mem := m } ∧ m.wf = true
      ∧ ∀ a, m.read a =
        if (s.region pa).keepsWrites = true ∧ pa.toNat ≤ a ∧ a < pa.toNat + 16 then d.toList.getD (a - pa.toNat) 0#8 else s.mem.read a := by
  unfold lineWrite
  cases hr : s.region pa with
  | rdram => exact ⟨_, rfl, Memory.wf_writeSome _ _ hw, fun a => by rw [writeSome_line hw]; simp [Region.keepsWrites]⟩
  | pifRam => exact ⟨_, rfl, Memory.wf_writeSome _ _ hw, fun a => by rw [writeSome_line hw]; simp [Region.keepsWrites]⟩
  | pifRom => exact ⟨_, rfl, hw, fun a => by simp [Region.keepsWrites]⟩
  | openBus => exact ⟨_, rfl, hw, fun a => by simp [Region.keepsWrites]⟩
  | collab c => simp [hr, Region.isPlain] at hp
  | device d => simp [hr, Region.isPlain] at hp
  | cart => simp [hr, Region.isPlain] at hp

/-- Reading a line of a plain region (R230, R247). -/
theorem lineRead_plain {pa : Word} {n : Nat} {s : State} (hp : (s.region pa).isPlain = true) (hn : pa.toNat + n ≤ 2 ^ 32) :
    lineRead pa n s = .ok ((List.range n).map fun i =>
      if s.region pa = .openBus then s.openByte (pa.toNat + i) else s.mem.read (pa.toNat + i)) s := by
  unfold lineRead
  cases hr : s.region pa with
  | rdram => simp [readBytes_eq_map]
  | pifRam => simp [readBytes_eq_map]
  | pifRom => simp [readBytes_eq_map]
  | openBus => simp [openBusLine_eq_map s pa n hn]
  | collab c => simp [hr, Region.isPlain] at hp
  | device d => simp [hr, Region.isPlain] at hp
  | cart => simp [hr, Region.isPlain] at hp

/-- Writing the victim of a missing access back. -/
theorem writeBackIf_victim {pa : Word} {s : State} (hw : s.mem.wf = true) (hv : s.victimOk pa)
    (hh : (s.dLine pa).hits pa = false) :
    ∃ m n, writeBackIf true pa s = .ok () { s with mem := m, stepCycles := n } ∧ m.wf = true
      ∧ (∀ a, m.read a = s.memAfterEvict true pa a)
      ∧ n = s.stepCycles + if s.evicts true pa then s.cfg.costs.dcacheWriteback else 0 := by
  unfold writeBackIf
  by_cases hd : ((s.dLine pa).valid && (s.dLine pa).dirty) = true
  · have hreg : (s.region (dWritebackAddress pa (s.dLine pa))).isPlain = true := by
      rcases hv with h | h | h
      · rw [hh] at h; cases h
      · rw [hd] at h; cases h
      · exact h
    have he : s.evicts true pa = true := by
      simp only [State.evicts, hh, Bool.true_and, Bool.not_false, hd]
    obtain ⟨m, hok, hmw, hread⟩ := lineWrite_plain (d := (s.dLine pa).data) hw hreg
    rw [if_pos (by simpa using hd)]
    unfold writeBack
    rw [hok, bind_ok]
    refine ⟨_, _, rfl, hmw, ?_, ?_⟩
    · intro a
      show m.read a = _
      rw [hread]
      simp [State.memAfterEvict, he]
    · simp [he]
  · have he : s.evicts true pa = false := by
      simp only [State.evicts, hh, Bool.true_and, Bool.not_false]
      simpa using hd
    rw [if_neg (by simpa using hd)]
    refine ⟨s.mem, s.stepCycles, rfl, hw, ?_, ?_⟩
    · intro a; simp [State.memAfterEvict, he]
    · simp [he]

theorem isWindow_of_plain {r : Region} (h : r.isPlain = true) : r.isWindow = false := by
  cases r <;> simp_all [Region.isPlain, Region.isWindow]

theorem dEnsure_present {pa : Word} {s : State} (hw : s.mem.wf = true) (hr : (s.region pa).isPlain = true) (hv : s.victimOk pa) :
    ∃ t, dEnsure pa s = .ok () t ∧ LinePresent pa s t := by
  unfold dEnsure
  rw [if_neg (by simp [isWindow_of_plain hr])]
  by_cases hh : (s.dLine pa).hits pa = true
  · rw [if_pos hh]
    have he : s.evicts true pa = false := by simp [State.evicts, hh]
    refine ⟨_, rfl, ⟨rfl, ?_, hh, ?_, ⟨rfl, ?_, ?_, ?_, ?_, ?_⟩, hw⟩⟩
    · simp [State.accessCycles, hh, State.addCycles]
    · intro i hi
      simp only [State.seenInLine, hh]
      rfl
    · intro a; simp [State.memAfterEvict, he]
    · intro h; cases h
    · intro i hi; rfl
    · intro h; rfl
    · intro _ h; rw [hh] at h; cases h
  · rw [if_neg hh]
    have hh' : (s.dLine pa).hits pa = false := by simpa using hh
    obtain ⟨m, n, hok, hmw, hread, hn⟩ := writeBackIf_victim hw hv hh'
    have hbase : ∀ u : State, u.cfg = s.cfg → u.region (dLineBase pa) = s.region pa := by
      intro u hu
      unfold State.region
      rw [hu, route_dLineBase]
    have hle : (dLineBase pa).toNat + 16 ≤ 2 ^ 32 := by
      rw [toNat_dLineBase]; have := pa.isLt; omega
    unfold dFill
    have hlr := lineRead_plain (pa := dLineBase pa) (n := 16) (s := { s with mem := m, stepCycles := n })
      (by rw [hbase]; exact hr; rfl) hle
    rw [hbase { s with mem := m, stepCycles := n } rfl] at hlr
    rw [hok, bind_ok, hlr, bind_ok]
    have hdata : ∀ i : Nat, i < 16 → (lineData 16 ((List.range 16).map fun i =>
          if s.region pa = .openBus then State.openByte { s with mem := m, stepCycles := n } ((dLineBase pa).toNat + i)
          else m.read ((dLineBase pa).toNat + i))).toList.getD i 0#8 = s.seenInLine pa i := by
      intro i hi
      rw [lineData_toList (by simp), getD_map_range hi, hread, State.seenInLine, hh']
      rfl
    refine ⟨_, rfl, ⟨rfl, ?_, ?_, ?_, ⟨rfl, hread, ?_, ?_, ?_, ?_⟩, hmw⟩⟩
    · simp [State.accessCycles, hh', State.addCycles, State.setDLine, hn, Nat.add_assoc]
    · simp [State.addCycles, State.dLine, State.setDLine, DLine.hits]
    · intro i hi
      rw [← hdata i hi]
      simp [State.addCycles, State.dLine, State.setDLine]
    · intro h; cases h
    · intro i hi
      exact setDLine_other pa _ _ i hi
    · intro h; rw [hh'] at h; cases h
    · intro _ _
      refine ⟨?_, ?_, ?_, ?_⟩
      · simp [State.addCycles, State.dLine, State.setDLine]
      · simp [State.addCycles, State.dLine, State.setDLine]
      · simp [State.addCycles, State.dLine, State.setDLine]
      · intro i hi
        rw [← hdata i hi]
        simp [State.addCycles, State.dLine, State.setDLine]

/-! ### Loads -/

/-- The state after an access: memory, the data cache and the cycles may have changed, and nothing else. -/
def SameBut (s t : State) : Prop := t = { s with mem := t.mem, dcache := t.dcache, stepCycles := t.stepCycles }

theorem lineBytes_seen {pa : Word} {n : Nat} {s t : State} (h : LinePresent pa s t) (hn : pa.toNat % 16 + n ≤ 16) :
    lineBytes (t.dLine pa).data (pa.toNat % 16) n = s.seenBytes true pa n := by
  apply List.ext_getElem?
  intro i
  unfold lineBytes State.seenBytes
  show _ = ((List.range n).map (s.seenByte true pa n))[i]?
  by_cases hi : i < n
  · rw [List.getElem?_take_of_lt hi, List.getElem?_drop, List.getElem?_map, List.getElem?_range hi]
    have := h.data (pa.toNat % 16 + i) (by omega)
    have hl : (t.dLine pa).data.toList.length = 16 := by simp
    have hlt : pa.toNat % 16 + i < (t.dLine pa).data.toList.length := by omega
    rw [List.getElem?_eq_getElem hlt]
    simp only [List.getD, List.getElem?_eq_getElem hlt, Option.getD_some] at this
    simp [this, State.seenByte]
  · rw [List.getElem?_eq_none (by simp; omega), List.getElem?_eq_none (by simp; omega)]

theorem region_of_cfg {s t : State} (h : t.cfg = s.cfg) (pa : Word) : t.region pa = s.region pa := by
  unfold State.region; rw [h]

theorem length_bytesOf (v : DWord) (n : Nat) : (bytesOf v n).length = n := by
  induction n with
  | zero => rfl
  | succ n ih => simp [bytesOf, ih]

theorem bytesOf_eq_map (v : DWord) (n : Nat) :
    bytesOf v n = (List.range n).map fun i => BitVec.ofNat 8 (v.toNat / 2 ^ (8 * (n - 1 - i))) := by
  induction n with
  | zero => rfl
  | succ n ih =>
    rw [bytesOf, List.range_succ_eq_map, List.map_cons, ih, List.map_map]
    congr 1
    · apply BitVec.eq_of_toNat_eq
      simp [Nat.shiftRight_eq_div_pow]
    · apply List.map_congr_left
      intro i _
      simp only [Function.comp]
      congr 4
      omega

/-- A byte of a 32-bit word, big-endian. -/
theorem getElem_bytesOf_word (w : Word) (k : Nat) (hk : k < 4) :
    (bytesOf (zext32 w) 4)[k]? = some (bitField w (8 * (3 - k)) 8) := by
  rw [bytesOf_eq_map, List.getElem?_map, List.getElem?_range hk]
  simp only [Option.map_some, Option.some.injEq]
  apply BitVec.eq_of_toNat_eq
  have := w.isLt
  simp only [zext32, bitField, BitVec.toNat_ofNat, BitVec.toNat_setWidth, BitVec.extractLsb'_toNat, Nat.shiftRight_eq_div_pow]
  rw [Nat.mod_eq_of_lt (by omega : w.toNat < 2 ^ 64)]

/-- The slot of an access within a device's block, or mirrored (R911, D64). -/
theorem slotIndex_some {m : Bool} {d : Device} {pa : Word} (h : m = true ∨ pa.toNat % 0x100000 / 4 < d.slots) :
    slotIndex m d pa = some (pa.toNat % 0x100000 / 4 % d.slots) := by
  unfold slotIndex
  by_cases hlt : pa.toNat % 0x100000 / 4 < d.slots
  · simp only [hlt, if_true, Nat.mod_eq_of_lt hlt]
  · rcases h with rfl | h
    · simp [hlt]
    · exact absurd h hlt

/-- A 32-bit read of a device's window within the block, or mirrored (R911). -/
theorem windowRead_device {d : Device} {pa : Word} {s : State}
    (h : s.cfg.deviceMirroring = true ∨ pa.toNat % 0x100000 / 4 < d.slots) :
    s.windowRead (.device d) pa = .ok (s.slotRead s.elapsed d (pa.toNat % 0x100000 / 4 % d.slots)) s := by
  simp only [State.windowRead, State.readReg, slotIndex_some h]

theorem toNat_and_align {pa : Word} (k : Nat) (hk : k = 2 ∨ k = 3) :
    (pa &&& ~~~(BitVec.ofNat 32 (2 ^ k - 1))).toNat = pa.toNat - pa.toNat % 2 ^ k := by
  have h : pa &&& ~~~(BitVec.ofNat 32 (2 ^ k - 1)) = (pa >>> k) <<< k := by
    apply BitVec.eq_of_getLsbD_eq
    intro i hi
    have h2 : ∀ i : Nat, i < 32 → (~~~(BitVec.ofNat 32 (2 ^ 2 - 1))).getLsbD i = decide (2 ≤ i) := by decide
    have h3 : ∀ i : Nat, i < 32 → (~~~(BitVec.ofNat 32 (2 ^ 3 - 1))).getLsbD i = decide (3 ≤ i) := by decide
    rcases hk with rfl | rfl
    · rw [BitVec.getLsbD_and, h2 i hi]
      by_cases h4 : 2 ≤ i
      · have : 2 + (i - 2) = i := by omega
        simp only [BitVec.getLsbD_shiftLeft, BitVec.getLsbD_ushiftRight, this, hi, h4, decide_true, Nat.not_lt.mpr h4, decide_false,
          Bool.not_false, Bool.and_true, Bool.true_and]
      · simp only [BitVec.getLsbD_shiftLeft, h4, decide_false, Bool.and_false, Nat.lt_of_not_le h4, decide_true, Bool.not_true,
          Bool.false_and]
    · rw [BitVec.getLsbD_and, h3 i hi]
      by_cases h4 : 3 ≤ i
      · have : 3 + (i - 3) = i := by omega
        simp only [BitVec.getLsbD_shiftLeft, BitVec.getLsbD_ushiftRight, this, hi, h4, decide_true, Nat.not_lt.mpr h4, decide_false,
          Bool.not_false, Bool.and_true, Bool.true_and]
      · simp only [BitVec.getLsbD_shiftLeft, h4, decide_false, Bool.and_false, Nat.lt_of_not_le h4, decide_true, Bool.not_true,
          Bool.false_and]
  rw [h]
  simp only [BitVec.toNat_shiftLeft, BitVec.toNat_ushiftRight, Nat.shiftLeft_eq, Nat.shiftRight_eq_div_pow]
  have := pa.isLt
  rcases hk with rfl | rfl <;> omega

/-- The addressed bytes of a device's registers (D9). -/
theorem windowReadBytes_device {d : Device} {pa : Word} {n : Nat} {s : State} (hn : n = 1 ∨ n = 2 ∨ n = 4 ∨ n = 8)
    (ha : pa.toNat % n = 0) (h : s.cfg.deviceMirroring = true ∨ pa.toNat % 0x100000 + n ≤ 4 * d.slots) :
    s.windowReadBytes (.device d) pa n = .ok ((List.range n).map fun k => s.deviceByte d (pa.toNat + k)) s := by
  have h4 : (pa &&& 0xFFFFFFFC#32).toNat = pa.toNat - pa.toNat % 4 := toNat_and_align 2 (.inl rfl)
  have h8 : (pa &&& 0xFFFFFFF8#32).toNat = pa.toNat - pa.toNat % 8 := toNat_and_align 3 (.inr rfl)
  unfold State.windowReadBytes
  by_cases hd : n = 8
  · subst hd
    rw [if_pos rfl]
    have hlt := pa.isLt
    have h84 : ((pa &&& 0xFFFFFFF8#32) + 4#32).toNat = pa.toNat + 4 := by
      rw [BitVec.toNat_add, h8]; simp; omega
    rw [windowRead_device (by rcases h with h | h; exact .inl h; right; omega), bind_ok,
      windowRead_device (by rcases h with h | h; exact .inl h; right; omega), bind_ok, h8, h84]
    congr 1
    apply List.ext_getElem?
    intro k
    by_cases hk : k < 4
    · rw [List.getElem?_append_left (by rw [length_bytesOf]; exact hk), getElem_bytesOf_word _ _ hk, List.getElem?_map,
        List.getElem?_range (by omega)]
      simp only [Option.map_some, State.deviceByte]
      have hk4 : (pa.toNat + k) % 4 = k := by omega
      have hs4 : (pa.toNat + k) % 0x100000 / 4 = (pa.toNat - pa.toNat % 8) % 0x100000 / 4 := by omega
      rw [hk4, hs4]
    · rw [List.getElem?_append_right (by rw [length_bytesOf]; omega), length_bytesOf]
      by_cases hk8 : k < 8
      · rw [getElem_bytesOf_word _ _ (by omega), List.getElem?_map, List.getElem?_range hk8]
        simp only [Option.map_some, State.deviceByte]
        rw [show (pa.toNat + k) % 4 = k - 4 by omega,
          show (pa.toNat + k) % 0x100000 / 4 = (pa.toNat + 4) % 0x100000 / 4 by omega]
      · rw [List.getElem?_eq_none (by rw [length_bytesOf]; omega), List.getElem?_eq_none (by simp; omega)]
  · have hin : pa.toNat % 4 + n ≤ 4 := by
      rcases hn with rfl | rfl | rfl | rfl <;> omega
    have h4' : (pa.toNat - pa.toNat % 4) % 0x100000 / 4 = pa.toNat % 0x100000 / 4 := by omega
    rw [if_neg hd, windowRead_device (by rcases h with h | h; exact .inl h; right; omega), bind_ok, h4]
    congr 1
    unfold selectBytes
    apply List.ext_getElem?
    intro k
    by_cases hk : k < n
    · rw [List.getElem?_take_of_lt hk, List.getElem?_drop, getElem_bytesOf_word _ _ (by omega), List.getElem?_map,
        List.getElem?_range hk]
      simp only [Option.map_some, State.deviceByte]
      have hk4 : (pa.toNat + k) % 4 = pa.toNat % 4 + k := by omega
      have hs4 : (pa.toNat + k) % 0x100000 / 4 = pa.toNat % 0x100000 / 4 := by omega
      rw [hk4, hs4, h4']
    · rw [List.getElem?_eq_none (by simp; omega), List.getElem?_eq_none (by simp; omega)]

/-- An uncached read that reaches an answer changes nothing and answers the bytes seen (R230, R246, D9). -/
theorem physRead_reaches {kind : AccessKind} {pa : Word} {n : Nat} {s : State} (hn : n = 1 ∨ n = 2 ∨ n = 4 ∨ n = 8)
    (ha : pa.toNat % n = 0) (h : s.reaches kind pa n false) : physRead pa n s = .ok (s.seenBytes false pa n) s := by
  unfold physRead State.seenBytes State.seenByte
  rcases h with h | ⟨d, hr, -, -, hi⟩
  · cases hr : s.region pa with
    | rdram => simp [readBytes_eq_map]
    | pifRam => simp [readBytes_eq_map]
    | pifRom => simp [readBytes_eq_map]
    | openBus => simp [openBusBytes, bytesOf_eq_map]
    | collab c => simp [hr, Region.isPlain] at h
    | device d => simp [hr, Region.isPlain] at h
    | cart => simp [hr, Region.isPlain] at h
  · rw [hr]
    simp only [windowReadBytes_device hn ha hi, Bool.false_eq_true, if_false]

/-- The access of a ready load (R244, R246). -/
theorem loadAt_ready {pa : Word} {cacheable : Bool} {n : Nat} {ea : DWord} {s : State} (h : Ready .load ea n pa cacheable s)
    (hn : n = 1 ∨ n = 2 ∨ n = 4 ∨ n = 8) (hpa : pa.toNat % 4096 = ea.toNat % 4096) :
    ∃ t, loadAt pa cacheable n s = .ok (s.seenBytes cacheable pa n) t ∧ SameBut s t ∧ t.mem.wf = true
      ∧ LoadMemory cacheable pa s t ∧ t.stepCycles = s.stepCycles + s.accessCycles cacheable pa n := by
  have ha : pa.toNat % n = 0 := by
    have := h.aligned
    rcases hn with rfl | rfl | rfl | rfl <;> omega
  unfold loadAt dataChecks
  rw [h.unwatched, h.noBusError]
  simp only [Bool.false_eq_true, if_false, bind_ok]
  cases cacheable with
  | true =>
    have hp : (s.region pa).isPlain = true := by
      rcases h.reached with h | ⟨_, _, _, hc, _⟩
      · exact h
      · cases hc
    obtain ⟨t, ht, hp⟩ := dEnsure_present h.memory hp (h.victim rfl)
    refine ⟨t, ?_, hp.frame, hp.wf, hp.memory, hp.cycles⟩
    simp only [if_true, cachedLoad, ht, bind_ok, lineBytes_seen hp (n := n) (by rcases hn with rfl | rfl | rfl | rfl <;> omega)]
  | false =>
    have hc : s.uncachedCost pa n = s.accessCycles false pa n := by
      unfold State.uncachedCost State.accessCycles
      cases hr : s.region pa <;> simp
    have he : s.evicts false pa = false := by simp [State.evicts]
    refine ⟨s.addCycles (s.uncachedCost pa n), ?_, rfl, h.memory, ⟨rfl, ?_, fun _ => rfl, fun _ _ => rfl, fun _ => rfl, nofun⟩, ?_⟩
    · simp only [Bool.false_eq_true, if_false, uncachedLoad]
      exact physRead_reaches (kind := .load) (s := s.addCycles (s.uncachedCost pa n)) hn ha h.reached
    · intro a; simp [State.memAfterEvict, he, State.addCycles]
    · simp [State.addCycles, hc]

theorem accessAllowed_ok {s : State} (h : s.accessible) : accessAllowed s = .ok () s := by
  obtain ⟨h1, h2⟩ := h
  unfold accessAllowed
  cases hm : s.mode with
  | kernel => rfl
  | supervisor => rfl
  | user => simp only [hm, true_and] at h2; exact if_neg h2
  | reserved => exact absurd hm h1

theorem locate_ready {kind : AccessKind} {pa : Word} {cacheable : Bool} {n : Nat} {ea : DWord} {s : State}
    (h : Ready kind ea n pa cacheable s) : locate kind ea n s = .ok (pa, cacheable) s := by
  unfold locate checkAligned
  rw [accessAllowed_ok h.accessible, bind_ok, if_pos h.aligned, bind_ok, h.placed]

theorem locate_raises {kind : AccessKind} {n : Nat} {ea : DWord} {e : Exc} {s : State} (ha : s.accessible) (hz : ea.toNat % n = 0)
    (ht : translate ea kind s = .raise e s) : locate kind ea n s = .raise e s := by
  unfold locate checkAligned
  rw [accessAllowed_ok ha, bind_ok, if_pos hz, bind_ok, ht]

/-- A partial load whose translation raises (R811, log entry 32). -/
theorem loadMerge_raises {merge : Nat → DWord → DWord → DWord} {n : Nat} {rt base : RegIdx} {offset : Half} {e : Exc} {s : State}
    (ha : s.accessible) (hz : (alignDown (effectiveAddress base offset s) n).toNat % n = 0)
    (ht : translate (alignDown (effectiveAddress base offset s) n) .load s = .raise e s) :
    loadMerge merge n rt base offset s
      = .next (takeException (e.withAddress (s.adjusted (effectiveAddress base offset s))) s) := by
  simp [loadMerge, memRead, memReadPa, locate_raises ha hz ht, Res.bind, Res.finish]

/-- A partial store whose translation raises (R811, log entry 32). -/
theorem storeMasked_raises {place : Nat → DWord → DWord × DWord} {n : Nat} {rt base : RegIdx} {offset : Half} {e : Exc} {s : State}
    (ha : s.accessible) (hz : (alignDown (effectiveAddress base offset s) n).toNat % n = 0)
    (ht : translate (alignDown (effectiveAddress base offset s) n) .store s = .raise e s) :
    storeMasked place n rt base offset s
      = .next (takeException (e.withAddress (s.adjusted (effectiveAddress base offset s))) s) := by
  simp [storeMasked, memWriteMasked, locate_raises ha hz ht, Res.bind, Res.finish]

/-- A ready access of 1, 2, 4 or 8 bytes stays within a data line. -/
theorem Ready.inLine {kind : AccessKind} {pa : Word} {cacheable : Bool} {n : Nat} {ea : DWord} {s : State}
    (h : Ready kind ea n pa cacheable s) (hn : n = 1 ∨ n = 2 ∨ n = 4 ∨ n = 8) : pa.toNat % 16 + n ≤ 16 := by
  have h1 := translate_mod h.placed
  have h2 := h.aligned
  rcases hn with rfl | rfl | rfl | rfl <;> omega

theorem memReadPa_ready {pa : Word} {cacheable : Bool} {n : Nat} {ea : DWord} {s : State} (h : Ready .load ea n pa cacheable s)
    (hn : n = 1 ∨ n = 2 ∨ n = 4 ∨ n = 8) :
    ∃ t, memReadPa ea n s = .ok (pa, s.seenValue cacheable pa n) t ∧ SameBut s t ∧ t.mem.wf = true
      ∧ LoadMemory cacheable pa s t ∧ t.stepCycles = s.stepCycles + s.accessCycles cacheable pa n := by
  obtain ⟨t, ht, hrest⟩ := loadAt_ready h hn (translate_mod h.placed)
  refine ⟨t, ?_, hrest⟩
  simp only [memReadPa, locate_ready h, bind_ok, ht, State.seenValue]

theorem memRead_ready {pa : Word} {cacheable : Bool} {n : Nat} {ea : DWord} {s : State} (h : Ready .load ea n pa cacheable s)
    (hn : n = 1 ∨ n = 2 ∨ n = 4 ∨ n = 8) :
    ∃ t, memRead ea n s = .ok (s.seenValue cacheable pa n) t ∧ SameBut s t ∧ t.mem.wf = true
      ∧ LoadMemory cacheable pa s t ∧ t.stepCycles = s.stepCycles + s.accessCycles cacheable pa n := by
  obtain ⟨t, ht, hrest⟩ := memReadPa_ready h hn
  refine ⟨t, ?_, hrest⟩
  simp only [memRead, ht, bind_ok]

/-! ### Stores -/

theorem length_overlay (bs : List (Option Byte)) (ds : List Byte) : (overlay bs ds).length = ds.length := by
  induction ds generalizing bs with
  | nil => cases bs with
    | nil => rfl
    | cons b bs => cases b <;> rfl
  | cons d ds ih => cases bs with
    | nil => rfl
    | cons b bs => cases b <;> simp [overlay, ih]

theorem getD_overlay (bs : List (Option Byte)) (ds : List Byte) (i : Nat) (h : i < ds.length) :
    (overlay bs ds).getD i 0#8 = ((bs[i]?).getD none).getD (ds.getD i 0#8) := by
  induction ds generalizing bs i with
  | nil => simp at h
  | cons d ds ih => cases bs with
    | nil => simp [overlay]
    | cons b bs =>
      cases i with
      | zero => cases b <;> simp [overlay]
      | succ i =>
        have := ih bs i (by simpa using h)
        cases b <;> simpa [overlay] using this

theorem getD_lineStore (d : Vector Byte 16) (off : Nat) (bs : List (Option Byte)) (i : Nat) (hi : i < 16) (ho : off ≤ 16) :
    (lineStore d off bs).toList.getD i 0#8 = (storedByte off bs i).getD (d.toList.getD i 0#8) := by
  have hl : d.toList.length = 16 := by simp
  unfold lineStore
  rw [lineData_toList (by simp only [List.length_append, List.length_take, length_overlay, List.length_drop, hl]; omega)]
  by_cases h : off ≤ i
  · unfold storedByte
    rw [if_pos h, List.getD_append_right _ _ _ _ (by simp [hl]; omega)]
    have e : i - (d.toList.take off).length = i - off := by simp [hl]; omega
    have hd : (d.toList.drop off).getD (i - off) 0#8 = d.toList.getD i 0#8 := by
      simp [List.getD, show off + (i - off) = i by omega]
    rw [e, getD_overlay _ _ _ (by simp [hl]; omega), hd]
  · unfold storedByte
    rw [if_neg h, List.getD_append _ _ _ _ (by simp [hl]; omega)]
    simp [List.getD, show i < off by omega]

/-- A store reaches plain regions only. -/
theorem Ready.stored {pa : Word} {cacheable : Bool} {n : Nat} {ea : DWord} {s : State} (h : Ready .store ea n pa cacheable s) :
    (s.region pa).isPlain = true := by
  rcases h.reached with h | ⟨_, _, hk, _⟩
  · exact h
  · exact absurd rfl hk

/-- An uncached write to a plain region (R230, R246). -/
theorem physWrite_plain {pa : Word} {s : State} (hw : s.mem.wf = true) (hp : (s.region pa).isPlain = true) (whole : Bool)
    (bs : List (Option Byte)) :
    ∃ m, physWrite whole pa bs s = .ok () { s with mem := m } ∧ m.wf = true
      ∧ ((s.region pa).keepsWrites = true → ∀ q, m.read q = (storedByte pa.toNat bs q).getD (s.mem.read q))
      ∧ ((s.region pa).keepsWrites = false → ∀ q, m.read q = s.mem.read q) := by
  unfold physWrite
  cases hr : s.region pa with
  | rdram => exact ⟨_, rfl, Memory.wf_writeSome _ _ hw, fun _ q => Memory.read_writeSome hw bs pa.toNat q, nofun⟩
  | pifRam => exact ⟨_, rfl, Memory.wf_writeSome _ _ hw, fun _ q => Memory.read_writeSome hw bs pa.toNat q, nofun⟩
  | pifRom => exact ⟨_, rfl, hw, nofun, fun _ _ => rfl⟩
  | openBus => exact ⟨_, rfl, hw, nofun, fun _ _ => rfl⟩
  | collab c => simp [hr, Region.isPlain] at hp
  | device d => simp [hr, Region.isPlain] at hp
  | cart => simp [hr, Region.isPlain] at hp

/-- The access of a ready store (R245, R246, R551). -/
theorem storeAt_ready {pa : Word} {cacheable : Bool} {n : Nat} {ea : DWord} {s : State} (h : Ready .store ea n pa cacheable s)
    (whole : Bool) (bs : List (Option Byte)) (hl : bs.length = n) :
    ∃ t, storeAt whole pa cacheable bs s = .ok () t ∧ SameBut s t ∧ t.mem.wf = true
      ∧ StoreMemory cacheable pa bs s t ∧ t.stepCycles = s.stepCycles + s.accessCycles cacheable pa n := by
  unfold storeAt dataChecks
  rw [h.unwatched, h.noBusError]
  simp only [Bool.false_eq_true, if_false, bind_ok]
  cases cacheable with
  | true =>
    obtain ⟨t, ht, hp⟩ := dEnsure_present h.memory h.stored (h.victim rfl)
    have hhit := hits_tag hp.hit
    refine ⟨t.setDLine pa ((t.dLine pa).stored pa bs), ?_, ?_, hp.wf, ⟨?_, nofun, nofun, ?_, nofun, ?_, ?_⟩, ?_⟩
    · simp only [if_true, cachedStore, ht, bind_ok]
    · unfold SameBut
      rw [hp.frame]
      rfl
    · exact hp.memory.icache
    · intro _ q; exact hp.memory.memory q
    · intro i hi
      rw [setDLine_other pa _ _ i hi]
      exact hp.memory.otherLines i hi
    · intro _
      rw [setDLine_dLine]
      refine ⟨hhit.1, rfl, hhit.2, ?_⟩
      intro i hi
      rw [← hp.data i hi]
      exact getD_lineStore _ _ _ _ hi (by omega)
    · exact hp.cycles
  | false =>
    obtain ⟨m, hm, hmw, hkeep, hign⟩ := physWrite_plain (s := s.addCycles (s.uncachedCost pa n)) h.memory h.stored whole bs
    have hc : s.uncachedCost pa n = s.accessCycles false pa n := by
      have := h.stored
      unfold State.uncachedCost State.accessCycles
      cases hr : s.region pa <;> simp_all [Region.isPlain]
    refine ⟨{ s.addCycles (s.uncachedCost pa n) with mem := m }, ?_, rfl, hmw,
      ⟨rfl, fun _ => hkeep, fun _ => hign, nofun, fun _ => rfl, fun _ _ => rfl, nofun⟩, ?_⟩
    · simp only [Bool.false_eq_true, if_false, uncachedStore, hl]
      exact hm
    · simp [State.addCycles, hc]

theorem memWrite_ready {pa : Word} {cacheable : Bool} {n : Nat} {ea : DWord} {s : State} (h : Ready .store ea n pa cacheable s)
    (v : DWord) :
    ∃ t, memWrite ea n v s = .ok () t ∧ SameBut s t ∧ t.mem.wf = true
      ∧ StoreMemory cacheable pa (wholeBytes n v) s t ∧ t.stepCycles = s.stepCycles + s.accessCycles cacheable pa n := by
  obtain ⟨t, ht, hrest⟩ := storeAt_ready h true (wholeBytes n v) (by simp [wholeBytes, length_bytesOf])
  refine ⟨t, ?_, hrest⟩
  simp only [memWrite, locate_ready h, bind_ok, ht]

theorem wholeBytes_eq (n : Nat) (v : DWord) : wholeBytes n v = storeBytes n v := by
  unfold wholeBytes storeBytes
  rw [bytesOf_eq_map, List.map_map]
  rfl

/-! ### Ends of memory instructions -/

theorem SameBut.platform {s t : State} (h : SameBut s t) : SamePlatform s t := by
  rw [h]; constructor <;> rfl

/-- A load that ends by writing a general register. -/
theorem finishDouble_loaded {rt : RegIdx} {v : DWord} {cacheable : Bool} {pa : Word} {n : Nat} {s m : State} (hb : SameBut s m)
    (hm : LoadMemory cacheable pa s m) (hc : m.stepCycles = s.stepCycles + s.accessCycles cacheable pa n) :
    ∃ t, finishDouble rt v m = .next t ∧ Loaded rt v cacheable pa n s t := by
  obtain ⟨t, ht, hw⟩ := finishDouble_answers rt v m
  have hx : ∀ q, m.x q = s.x q := by intro q; rw [hb]; rfl
  refine ⟨t, ht, ⟨?_, ?_, ?_, ?_, ?_, ?_, ?_⟩⟩
  · intro q; rw [hw.gpr q, hx]
  · exact ⟨by rw [hw.hiLo.1, hb], by rw [hw.hiLo.2, hb]⟩
  · exact ⟨by rw [hw.system.1, hb], by rw [hw.system.2.1, hb], by rw [hw.system.2.2, hb]⟩
  · exact ⟨by rw [hw.rest.fpu.1, hb], by rw [hw.rest.fpu.2, hb]⟩
  · have hd : t.dcache = m.dcache := hw.rest.memory.2.1
    have hl : t.dLine pa = m.dLine pa := by unfold State.dLine; rw [hd]
    exact
      { icache := hw.rest.memory.2.2.trans hm.icache
        memory := fun a => (hw.rest.memory.1 a).trans (hm.memory a)
        uncachedLines := fun h => hd.trans (hm.uncachedLines h)
        otherLines := fun i hi => by rw [hd]; exact hm.otherLines i hi
        lineHit := fun h => hd.trans (hm.lineHit h)
        lineFilled := fun h1 h2 => by rw [hl]; exact hm.lineFilled h1 h2 }
  · exact hw.rest.platform.trans hb.platform
  · have hk := hw.rest.completed
    exact
      { latch := by rw [hk.latch, hb]
        cycles := by rw [hk.cycles, hc, Nat.add_zero]
        target := by rw [hk.target, hb]
        outside := fun h => by
          have := hk.outside (by rw [hb]; exact h)
          rw [hb] at this; exact this
        takenSlot := fun h => by
          have := hk.takenSlot (by rw [hb]; exact h)
          rw [hb] at this; exact this
        notTakenSlot := fun h => by
          have := hk.notTakenSlot (by rw [hb]; exact h)
          rw [hb] at this; exact this }

end Sys2Proof.Machine
end

