-- ==== Sys2Proof/Laws/Dma.lean ====
section
/-! SUPPORT. What the shared operations of the DMAs do: adding an event, copying bytes, starting a transfer; and that no device
or collaborator depends on the cycles of the step so far. -/

namespace Sys2Proof.Machine

/-! ### Adding an event (R901) -/

/-- Looking up a kind after an insertion. -/
theorem find_insertEvent (e : Event) (l : List Event) (k : EventKind) :
   (e.kind = k → (∀ g ∈ l, g.kind ≠ k) → (insertEvent e l).find? (fun x => decide (x.kind = k)) = some e) ∧
   (e.kind ≠ k → (insertEvent e l).find? (fun x => decide (x.kind = k)) = l.find? (fun x => decide (x.kind = k))) := by
  induction l with
  | nil => simp [insertEvent]
  | cons f fs ih =>
    unfold insertEvent
    constructor
    · intro h hl
      split
      · rw [List.find?_cons_of_neg (by simpa using hl f (by simp))]
        exact ih.1 h (fun g hg => hl g (by simp [hg]))
      · rw [List.find?_cons_of_pos (by simpa using h)]
    · intro h
      split
      · rw [List.find?_cons, List.find?_cons, ih.2 h]
      · rw [List.find?_cons_of_neg (by simpa using h)]

/-- An event added is due after its cycles and those elapsed, and every other event stays. -/
theorem addEvent_added (k : EventKind) (c : Nat) (el : Int) (s : State) : EventAdded k c el s (s.addEvent k c el) := by
  constructor
  · intro h1 h2
    simp only [State.addEvent, Scheduler.add, Scheduler.find]
    rw [(find_insertEvent ⟨k, BitVec.ofInt 64 (c + el), s.sched.nextSeq⟩ (s.sched.remove k).events k).1 rfl (by
      intro g hg
      have : g ∈ s.sched.events ∧ ¬g.kind = k := by simpa [Scheduler.remove] using hg
      exact this.2)]
    simp only [Option.map_some, Event.remaining, Option.some.injEq]
    rw [BitVec.toInt_ofInt]
    apply Int.bmod_eq_of_le <;> simp <;> omega
  · intro j hj
    simp only [State.addEvent, Scheduler.add, Scheduler.find]
    rw [(find_insertEvent _ _ _).2 (by simpa using fun h => hj h.symm)]
    simp only [Scheduler.remove]
    rw [List.find?_filter]
    congr 1
    funext x
    by_cases h : x.kind = j <;> simp_all

/-! ### The bytes of a DMA (R912) -/

/-- The bytes a DMA reads, each as it sees it. -/
theorem dmaReadBytes_map (s : State) (a n : Nat) : s.dmaReadBytes a n = (List.range n).map fun i => s.dmaSees (a + i) := by
  induction n generalizing a with
  | zero => rfl
  | succ n ih =>
    rw [State.dmaReadBytes, List.range_succ_eq_map, List.map_cons, List.map_map, ih]
    congr 1
    apply List.map_congr_left
    intro i _
    simp only [Function.comp]
    congr 1
    omega

/-! ### AI (R941, R942) -/

theorem aiCopy_eq (q : AiRequest) (s : State) : s.aiCopy q = { s with outputs := s.audioOut q :: s.outputs } := by
  unfold State.aiCopy State.audioOut State.output
  rw [dmaReadBytes_map]

theorem audioOut_congr (q : AiRequest) {s t : State} (h1 : t.mem = s.mem) (h2 : t.cfg = s.cfg)
    (h3 : t.ai.dacrate = s.ai.dacrate) : t.audioOut q = s.audioOut q := by
  unfold State.audioOut State.dmaSees State.openByte
  rw [h1, h2, h3]

/-- Starting an audio transfer. -/
theorem aiStart_started (el : Int) (q : AiRequest) (s : State) : AiStarted el q s (s.aiStart el q) := by
  unfold State.aiStart
  have hev : EventAdded .aiDma q.duration el s (State.addEvent .aiDma q.duration el s) := addEvent_added _ _ _ _
  cases hc : s.cfg.dmaCopyAt <;> cases hi : s.cfg.aiIrqAtStart <;>
    simp only [State.addEvent, State.setMi, hc, hi, if_true, if_false, Bool.false_eq_true, aiCopy_eq] <;>
    constructor <;> first
      | rfl
      | (constructor; exact hev.time; exact hev.others)
      | (simp [hc, hi, MiSource.index]; try exact audioOut_congr q rfl rfl rfl)

/-! ### PI (R951, R952) -/

/-- The actions of a collaborator commute with a change of a field that none of them reads or writes. -/
theorem foldl_applyAction_comm (f : State → State) (el : Int) (as : List CollabAction) (s : State)
    (hf : ∀ s a, State.applyAction el (f s) a = f (State.applyAction el s a)) :
    as.foldl (State.applyAction el) (f s) = f (as.foldl (State.applyAction el) s) := by
  induction as generalizing s with
  | nil => rfl
  | cons a as ih => simp only [List.foldl_cons, hf, ih]

theorem applyAction_withPi (el : Int) (s : State) (a : CollabAction) (p : Pi) :
    State.applyAction el { s with pi := p } a = { State.applyAction el s a with pi := p } := by
  cases a <;> simp [State.applyAction, State.setMi, State.clearMi, State.dmaWrite, State.addEvent]
  split <;> rfl

theorem collabCall_withPi (el : Int) (c : CollabCall) (s : State) (p : Pi) :
    State.collabCall el c { s with pi := p } = ((s.collabCall el c).1, { (s.collabCall el c).2 with pi := p }) := by
  unfold State.collabCall
  have := foldl_applyAction_comm (fun s => { s with pi := p }) el (Config.collab s.collabState s.rdram c).actions
    { s with collabState := (Config.collab s.collabState s.rdram c).state } (fun s a => applyAction_withPi el s a p)
  simp only
  refine Prod.ext rfl ?_
  exact this

theorem cartRead_withPi (el : Int) (a : Word) (s : State) (p : Pi) :
    State.cartRead el a { s with pi := p } = ((s.cartRead el a).1, { (s.cartRead el a).2 with pi := p }) := by
  unfold State.cartRead; rw [collabCall_withPi]

theorem dmaWrite_withPi (a : Nat) (b : Byte) (s : State) (p : Pi) :
    State.dmaWrite a b { s with pi := p } = { s.dmaWrite a b with pi := p } := by
  unfold State.dmaWrite; split <;> rfl

theorem dmaRead_eq (a : Nat) (s : State) : s.dmaRead a = s.dmaSees a := rfl

theorem piCopied_withPi (el : Int) (q : PiRequest) (s : State) (p : Pi) :
   State.piCopied el q { s with pi := p } = { s.piCopied el q with pi := p } := by
  unfold State.piCopied
  generalize List.range q.len = l
  induction l generalizing s with
  | nil => rfl
  | cons i l ih =>
    simp only [List.foldl_cons]
    rw [← ih]
    congr 1
    unfold State.piCopiedByte
    cases q.dir
    case toRdram => simp only [cartRead_withPi, dmaWrite_withPi]
    case toCart =>
      have hs : ({ s with pi := p } : State).dmaSees (q.dram.toNat + i) = s.dmaSees (q.dram.toNat + i) := rfl
      simp only [hs]
      unfold State.cartWrite
      rw [collabCall_withPi]

/-- Copying byte by byte, as a fold. -/
theorem piCopy_eq_piCopied (el : Int) (q : PiRequest) (s : State) : s.piCopy el q = s.piCopied el q := by
  have key : ∀ (n j : Nat) (s : State), State.piCopyBytes el q.dir n (q.dram.toNat + j) (q.cart + BitVec.ofNat 32 j) s =
     ((List.range n).map (· + j)).foldl (State.piCopiedByte el q) s := by
    intro n
    induction n with
    | zero => intros; rfl
    | succ n ih =>
      intro j s
      rw [List.range_succ_eq_map, List.map_cons, List.foldl_cons, List.map_map]
      have e : ((fun x => x + j) ∘ Nat.succ) = (fun x => x + (j+1)) := by funext x; simp; omega
      have hc : q.cart + BitVec.ofNat 32 j + 1#32 = q.cart + BitVec.ofNat 32 (j+1) := by
        rw [BitVec.ofNat_add, ← BitVec.add_assoc]
      rw [e, Nat.zero_add, ← ih (j+1)]
      conv_lhs => unfold State.piCopyBytes
      unfold State.piCopiedByte
      rw [show q.dram.toNat + (j + 1) = q.dram.toNat + j + 1 by omega, ← hc]
      cases q.dir <;> rfl
  have := key q.len 0 s
  simpa [State.piCopy, State.piCopied] using this

/-- A copy changes neither the parameters nor the registers of PI. -/
theorem piCopied_cfg (el : Int) (q : PiRequest) (s : State) : (s.piCopied el q).cfg = s.cfg ∧ (s.piCopied el q).pi = s.pi := by
  unfold State.piCopied
  generalize List.range q.len = l
  induction l generalizing s with
  | nil => exact ⟨rfl, rfl⟩
  | cons i l ih =>
    simp only [List.foldl_cons]
    have hc : ∀ (c : CollabCall) (s : State), (s.collabCall el c).2.cfg = s.cfg ∧ (s.collabCall el c).2.pi = s.pi := by
      intro c s
      unfold State.collabCall
      have : ∀ (as : List CollabAction) (s : State),
          (as.foldl (State.applyAction el) s).cfg = s.cfg ∧ (as.foldl (State.applyAction el) s).pi = s.pi := by
        intro as
        induction as with
        | nil => intro s; exact ⟨rfl, rfl⟩
        | cons a as ih =>
          intro s
          rw [List.foldl_cons, (ih _).1, (ih _).2]
          cases a <;> simp [State.applyAction, State.setMi, State.clearMi, State.dmaWrite, State.addEvent]
          split <;> exact ⟨rfl, rfl⟩
      exact this _ _
    rw [(ih _).1, (ih _).2]
    unfold State.piCopiedByte
    cases q.dir
    case toRdram =>
      simp only [State.dmaWrite]
      unfold State.cartRead
      split <;> exact hc _ _
    case toCart => exact hc _ _

/-- Starting a parallel transfer. -/
theorem piStart_started (el : Int) (q : PiRequest) (s : State) : PiStarted el q s (s.piStart el q) := by
  have hpi := piCopied_cfg el q s
  unfold State.piStart
  cases hc : s.cfg.dmaCopyAt
  · have h : State.piCopy el q { s with pi := { s.pi with cur := some q } } = { s.piCopied el q with pi := { s.pi with cur := some q } } := by
      rw [piCopy_eq_piCopied, piCopied_withPi]
    have hev := addEvent_added .piDma (piDmaCycles q.len) el (s.piCopied el q)
    simp only [hc, h]
    constructor
    · rfl
    · simp only [hc, if_true]
      exact ⟨hev.time, hev.others⟩
    · simp only [hc, if_true]; rfl
  · have hev := addEvent_added .piDma (piDmaCycles q.len) el s
    simp only [hc]
    constructor
    · rfl
    · rw [hc, if_neg (by decide)]
      exact ⟨hev.time, hev.others⟩
    · rw [hc, if_neg (by decide)]; rfl

/-! ### SI (R966, R967) -/

/-- Reading a byte after a block is written. -/
theorem read_writeBytes {m : Memory} (h : m.wf = true) (a : Nat) (bs : List Byte) (q : Nat) :
   (m.writeBytes a bs).read q = if a ≤ q ∧ q < a + bs.length then bs.getD (q - a) 0#8 else m.read q := by
  rw [Memory.writeBytes_eq, Memory.read_writeSome h]
  by_cases hq : a ≤ q ∧ q < a + bs.length
  · rw [if_pos hq]
    unfold storedByte
    have : q - a < bs.length := by omega
    rw [if_pos hq.1, List.getElem?_map]
    simp [List.getElem?_eq_getElem this, List.getD]
  · rw [if_neg hq, storedByte_outside _ _ _ (by simpa using hq)]; rfl

/-- The bytes a DMA writes change memory only, and only in RDRAM (R912). -/
theorem dmaWriteBytes_spec (bs : List Byte) (a : Nat) (s : State) :
    (∃ m, State.dmaWriteBytes a bs s = { s with mem := m })
      ∧ (s.mem.wf = true → (State.dmaWriteBytes a bs s).mem.wf = true ∧ ∀ q, (State.dmaWriteBytes a bs s).mem.read q =
      if a ≤ q ∧ q < a + bs.length ∧ q < rdramBytes s.cfg.rdramSize then bs.getD (q - a) 0#8 else s.mem.read q) := by
  induction bs generalizing a s with
  | nil => exact ⟨⟨s.mem, rfl⟩, fun h => ⟨h, fun q => by rw [if_neg (by simp; omega)]; rfl⟩⟩
  | cons b bs ih =>
    obtain ⟨⟨m, hm⟩, hr⟩ := ih (a+1) (s.dmaWrite a b)
    have hd : ∃ m, s.dmaWrite a b = { s with mem := m } := by
      unfold State.dmaWrite; split
      · exact ⟨_, rfl⟩
      · exact ⟨s.mem, rfl⟩
    obtain ⟨m0, h0⟩ := hd
    refine ⟨⟨m, ?_⟩, fun hw => ?_⟩
    · rw [State.dmaWriteBytes, hm, h0]
    · have hw' : (s.dmaWrite a b).mem.wf = true := by
        unfold State.dmaWrite; split
        · exact Memory.wf_write _ _ hw
        · exact hw
      obtain ⟨hwf, hrd⟩ := hr hw'
      refine ⟨hwf, fun q => ?_⟩
      rw [State.dmaWriteBytes, hrd]
      have hcfg : (s.dmaWrite a b).cfg = s.cfg := by rw [h0]
      rw [hcfg]
      have hb : (s.dmaWrite a b).mem.read q = if q = a ∧ a < rdramBytes s.cfg.rdramSize then b else s.mem.read q := by
        unfold State.dmaWrite
        split
        · rw [Memory.read_write hw]; simp [*]
        · simp [*]
      rw [hb]
      by_cases hqa : q = a
      · subst hqa
        simp
      · by_cases h2 : a + 1 ≤ q ∧ q < a + 1 + bs.length ∧ q < rdramBytes s.cfg.rdramSize
        · rw [if_pos h2, if_pos (by simp; omega)]
          rw [show q - a = (q - (a+1)) + 1 by omega]; rfl
        · rw [if_neg h2, if_neg (by simp [hqa]), if_neg (by simp at h2 ⊢; omega)]

theorem getD_ofFn {n : Nat} (f : Fin n → Byte) (i : Fin n) : (List.ofFn f).getD i.val 0#8 = f i := by
  simp [List.getD]

/-- RDRAM ends below PIF RAM (R230). -/
theorem rdramBytes_le_pifRamBase (z : RdramSize) : rdramBytes z ≤ pifRamBase := by cases z <;> decide


/-- A block written over a memory is read there, and nowhere else. -/
theorem read_writeBytes_ofFn {m : Memory} (h : m.wf = true) (B : Nat) {n : Nat} (f : Fin n → Byte) :
    (∀ i : Fin n, (m.writeBytes B (List.ofFn f)).read (B + i.val) = f i)
      ∧ ∀ x, x < B ∨ B + n ≤ x → (m.writeBytes B (List.ofFn f)).read x = m.read x := by
  have hl : (List.ofFn f).length = n := List.length_ofFn
  refine ⟨fun i => ?_, fun x hx => ?_⟩
  · rw [read_writeBytes h, if_pos (by rw [hl]; omega), Nat.add_sub_cancel_left, getD_ofFn]
  · rw [read_writeBytes h, if_neg (by rw [hl]; omega)]

/-- A block that a DMA writes to RDRAM from elsewhere in memory (R912). -/
theorem read_dmaWriteBytes (s : State) (h : s.mem.wf = true) (d B n x : Nat) :
    (State.dmaWriteBytes d (s.mem.readBytes B n) s).mem.read x =
      if d ≤ x ∧ x < d + n ∧ x < rdramBytes s.cfg.rdramSize then s.mem.read (B + (x - d)) else s.mem.read x := by
  have hr := ((dmaWriteBytes_spec (s.mem.readBytes B n) d s).2 h).2 x
  rw [Memory.length_readBytes] at hr
  rw [hr]
  by_cases hx : d ≤ x ∧ x < d + n ∧ x < rdramBytes s.cfg.rdramSize
  · rw [if_pos hx, if_pos hx, List.getD, Memory.getElem?_readBytes, if_pos (by omega)]; rfl
  · rw [if_neg hx, if_neg hx]

/-- A block that a DMA reads from RDRAM, written over memory (R912). -/
theorem read_writeBytes_dmaRead (s : State) (h : s.mem.wf = true) (d B n x : Nat) :
    (s.mem.writeBytes B (s.dmaReadBytes d n)).read x =
      if B ≤ x ∧ x < B + n then s.dmaSees (d + (x - B)) else s.mem.read x := by
  rw [dmaReadBytes_map, read_writeBytes h]
  by_cases hx : B ≤ x ∧ x < B + n
  · rw [if_pos (by simpa using hx), if_pos hx]
    simp [List.getD, show x - B < n by omega]
  · rw [if_neg (by simpa using hx), if_neg hx]

/-- `SiCopied` with the base of PIF RAM as a variable, so that no proof evaluates the number. -/
theorem siCopied_of {B : Nat} (hB : pifRamBase = B) (q : SiRequest) {s p t : State} (hrd : rdramBytes s.cfg.rdramSize ≤ B)
    (hp : p = { s with
      mem := s.mem.writeBytes B (List.ofFn (Config.pifProcess s.collabState (s.mem.readBytes B 64) s.padState))
      collabState := Config.pifState s.collabState (s.mem.readBytes B 64) s.padState })
    (hout : q.dir = .pifToRdram → t = State.dmaWriteBytes q.dram.toNat (p.mem.readBytes B 64) p)
    (hin : q.dir = .rdramToPif → t = { s with mem := s.mem.writeBytes B (s.dmaReadBytes q.dram.toNat 64) }) :
    SiCopied q s t := by
  have hpm : p.mem = s.mem.writeBytes B (List.ofFn (Config.pifProcess s.collabState (s.mem.readBytes B 64) s.padState)) := by rw [hp]
  have hpc : p.cfg = s.cfg := by rw [hp]
  have hps : p.collabState = Config.pifState s.collabState (s.mem.readBytes B 64) s.padState := by rw [hp]
  have hpf : p = { s with mem := p.mem, collabState := p.collabState } := by rw [hp]
  have hread : s.mem.wf = true → _ := fun h => read_writeBytes_ofFn h B (Config.pifProcess s.collabState (s.mem.readBytes B 64) s.padState)
  have hwf : s.mem.wf = true → p.mem.wf = true := fun h => by rw [hpm]; exact Memory.wf_writeBytes _ _ h
  rw [← hpm] at hread
  cases hd : q.dir
  case pifToRdram =>
    have ht := hout hd
    have hr : s.mem.wf = true → ∀ x, t.mem.read x = if q.dram.toNat ≤ x ∧ x < q.dram.toNat + 64 ∧ x < rdramBytes s.cfg.rdramSize
        then p.mem.read (B + (x - q.dram.toNat)) else p.mem.read x := fun h x => by
      rw [ht, read_dmaWriteBytes p (hwf h), hpc]
    obtain ⟨⟨m, hm⟩, -⟩ := dmaWriteBytes_spec (p.mem.readBytes B 64) q.dram.toNat p
    rw [hm] at ht
    have htc : t.collabState = p.collabState := by rw [ht]
    have htf : t = { s with mem := t.mem, collabState := t.collabState } := by rw [ht, hpf]
    refine ⟨fun _ h i => ?_, fun _ => by rw [htc, hps, hB], fun h => absurd (hd ▸ h) (by decide), fun h => absurd (hd ▸ h) (by decide),
      fun h a ha hb => ?_, htf⟩
    · rw [hB]
      refine ⟨by rw [hr h, if_neg (by omega), (hread h).1], fun hlt => ?_⟩
      rw [hr h, if_pos (by omega), Nat.add_sub_cancel_left, (hread h).1]
    · rw [hB] at ha
      have hb' : a < q.dram.toNat ∨ q.dram.toNat + 64 ≤ a ∨ rdramBytes s.cfg.rdramSize ≤ a := by
        rcases hb with hb | hb
        · exact absurd (hd ▸ hb) (by decide)
        · exact hb
      rw [hr h, if_neg (by omega), (hread h).2 _ ha]
  case rdramToPif =>
    have ht := hin hd
    have htm : t.mem = s.mem.writeBytes B (s.dmaReadBytes q.dram.toNat 64) := by rw [ht]
    have hr : s.mem.wf = true → ∀ x, t.mem.read x = if B ≤ x ∧ x < B + 64 then s.dmaSees (q.dram.toNat + (x - B)) else s.mem.read x :=
      fun h x => by rw [htm, read_writeBytes_dmaRead s h]
    have htc : t.collabState = s.collabState := by rw [ht]
    have htf : t = { s with mem := t.mem, collabState := t.collabState } := by rw [ht]
    clear hin hout ht hp hpf
    refine ⟨fun h => absurd (hd ▸ h) (by decide), fun h => absurd (hd ▸ h) (by decide), fun _ h i => ?_, fun _ => htc,
      fun h a ha _ => ?_, htf⟩
    · rw [hB, hr h, if_pos (by omega), Nat.add_sub_cancel_left]
    · rw [hB] at ha
      rw [hr h, if_neg (by omega)]

/-- The copy of a serial transfer. -/
theorem siCopy_copied (q : SiRequest) (s : State) : SiCopied q s (s.siCopy q) := by
  have hrd := rdramBytes_le_pifRamBase s.cfg.rdramSize
  refine siCopied_of rfl q hrd (p := s.pifProcess) (by unfold State.pifProcess; rfl) (fun hd => ?_) (fun hd => ?_)
  · unfold State.siCopy; rw [hd]
  · unfold State.siCopy; rw [hd]

theorem siCopied_si {q : SiRequest} {s u : State} {x : Si} (h : SiCopied q { s with si := x } u) : SiCopied q s { u with si := s.si } := by
  have := h.frame
  constructor
  · exact h.processed
  · exact h.called
  · exact h.toPif
  · exact h.notCalled
  · exact h.others
  · rw [this]

/-- Starting a serial transfer. -/
theorem siStart_started (el : Int) (q : SiRequest) (s : State) : SiStarted el q s (s.siStart el q) := by
  unfold State.siStart
  cases hc : s.cfg.dmaCopyAt
  · have hcp := siCopy_copied q { s with si := { s.si with cur := some q } }
    have hf := hcp.frame
    have hev := addEvent_added .siDma siDmaCycles el (State.siCopy q { s with si := { s.si with cur := some q } })
    simp only [hc]
    have hs : (State.siCopy q { s with si := { s.si with cur := some q } }).sched = s.sched := by rw [hf]
    have hsi : (State.siCopy q { s with si := { s.si with cur := some q } }).si = { s.si with cur := some q } := by rw [hf]
    refine ⟨?_, ⟨hev.time, fun j hj => ?_⟩, ?_⟩
    · exact hsi
    · rw [hev.others j hj, hs]
    · refine ⟨{ State.siCopy q { s with si := { s.si with cur := some q } } with si := s.si },
        ⟨fun _ => siCopied_si hcp, fun h => absurd hc h⟩, ?_⟩
      rfl
  · have hev := addEvent_added .siDma siDmaCycles el s
    simp only [hc]
    exact ⟨rfl, ⟨hev.time, hev.others⟩, s, ⟨fun h => by rw [hc] at h; exact absurd h (by decide), fun _ => rfl⟩, rfl⟩

/-- A request leaves what the stored slots of SI read (R965, R966). -/
theorem siRequest_stored {el : Int} {d : SiDirection} {s u : State} (h : s.siRequest el d = .ok () u) :
    u.si.raw = s.si.raw ∧ u.si.dram = s.si.dram := by
  unfold State.siRequest at h
  split at h
  · cases h
    rw [(siStart_started _ _ _).si]
    exact ⟨rfl, rfl⟩
  · cases h
    exact ⟨rfl, rfl⟩
  · cases h

/-! ### The cycles of the step so far play no part (R901) -/

theorem dmaWrite_addCycles (a : Nat) (b : Byte) (n : Nat) (s : State) :
    State.dmaWrite a b (s.addCycles n) = (s.dmaWrite a b).addCycles n := by
  unfold State.dmaWrite State.addCycles; split <;> rfl

theorem applyAction_addCycles (el : Int) (n : Nat) (s : State) (a : CollabAction) :
    State.applyAction el (s.addCycles n) a = (State.applyAction el s a).addCycles n := by
  cases a with
  | writeRdram a b => exact dmaWrite_addCycles a b n s
  | _ => rfl

theorem collabCall_addCycles (el : Int) (c : CollabCall) (n : Nat) (s : State) :
    State.collabCall el c (s.addCycles n) = ((s.collabCall el c).1, (s.collabCall el c).2.addCycles n) := by
  have := foldl_applyAction_comm (State.addCycles n) el (Config.collab s.collabState s.rdram c).actions
    { s with collabState := (Config.collab s.collabState s.rdram c).state } (applyAction_addCycles el n)
  exact Prod.ext rfl this

theorem cartRead_addCycles (el : Int) (a : Word) (n : Nat) (s : State) :
    State.cartRead el a (s.addCycles n) = ((s.cartRead el a).1, (s.cartRead el a).2.addCycles n) := by
  unfold State.cartRead; rw [collabCall_addCycles]

theorem cartWrite_addCycles (el : Int) (a : Word) (b : Byte) (n : Nat) (s : State) :
    State.cartWrite el a b (s.addCycles n) = (s.cartWrite el a b).addCycles n := by
  unfold State.cartWrite; rw [collabCall_addCycles]

theorem collabRead_addCycles (k : Collaborator) (a : Word) (n : Nat) (s : State) :
    State.collabRead k a (s.addCycles n) = ((s.collabRead k a).1, (s.collabRead k a).2.addCycles n) := by
  unfold State.collabRead; rw [show (s.addCycles n).elapsed = s.elapsed from rfl, collabCall_addCycles]

theorem collabWrite_addCycles (k : Collaborator) (a v : Word) (n : Nat) (s : State) :
    State.collabWrite k a v (s.addCycles n) = (s.collabWrite k a v).addCycles n := by
  unfold State.collabWrite; rw [show (s.addCycles n).elapsed = s.elapsed from rfl, collabCall_addCycles]

theorem dmaWriteBytes_addCycles (bs : List Byte) (a : Nat) (n : Nat) (s : State) :
    State.dmaWriteBytes a bs (s.addCycles n) = (State.dmaWriteBytes a bs s).addCycles n := by
  induction bs generalizing a s with
  | nil => rfl
  | cons b bs ih => rw [State.dmaWriteBytes, State.dmaWriteBytes, dmaWrite_addCycles, ih]

theorem piCopy_addCycles (el : Int) (q : PiRequest) (n : Nat) (s : State) :
    State.piCopy el q (s.addCycles n) = (s.piCopy el q).addCycles n := by
  unfold State.piCopy
  generalize q.dir = dir
  generalize q.len = k
  generalize q.dram.toNat = d
  generalize q.cart = c
  induction k generalizing d c s with
  | zero => rfl
  | succ k ih =>
    unfold State.piCopyBytes
    cases dir
    case toRdram => simp only [cartRead_addCycles, dmaWrite_addCycles, ih]
    case toCart =>
      have hs : (s.addCycles n).dmaRead d = s.dmaRead d := rfl
      simp only [hs, cartWrite_addCycles, ih]

theorem siCopy_addCycles (q : SiRequest) (n : Nat) (s : State) :
    State.siCopy q (s.addCycles n) = (s.siCopy q).addCycles n := by
  have hp : (s.addCycles n).pifProcess = s.pifProcess.addCycles n := by
    unfold State.pifProcess State.addCycles; simp only
  have hr : ∀ k, (s.addCycles n).dmaReadBytes q.dram.toNat k = s.dmaReadBytes q.dram.toNat k := fun k => by
    rw [dmaReadBytes_map, dmaReadBytes_map]; rfl
  obtain ⟨dir, dram⟩ := q
  cases dir
  case pifToRdram =>
    unfold State.siCopy
    simp only
    rw [hp, addCycles_mem]
    exact dmaWriteBytes_addCycles _ _ _ _
  case rdramToPif =>
    unfold State.siCopy
    simp only
    rw [hr, addCycles_mem]
    unfold State.addCycles
    simp only

theorem aiStart_addCycles (el : Int) (q : AiRequest) (n : Nat) (s : State) :
    State.aiStart el q (s.addCycles n) = (s.aiStart el q).addCycles n := by
  unfold State.aiStart
  cases hc : s.cfg.dmaCopyAt <;> cases hi : s.cfg.aiIrqAtStart <;>
    simp only [addCycles_cfg, State.addEvent, State.setMi, aiCopy_eq, hc, hi, if_true, if_false, Bool.false_eq_true] <;> rfl

theorem piStart_addCycles (el : Int) (q : PiRequest) (n : Nat) (s : State) :
    State.piStart el q (s.addCycles n) = (s.piStart el q).addCycles n := by
  unfold State.piStart
  have := piCopy_addCycles el q n { s with pi := { s.pi with cur := some q } }
  cases hc : s.cfg.dmaCopyAt
  · simp only [show (s.addCycles n).cfg = s.cfg from rfl, hc]; exact congrArg (State.addEvent .piDma _ el) this
  · simp only [show (s.addCycles n).cfg = s.cfg from rfl, hc]; rfl
theorem siStart_addCycles (el : Int) (q : SiRequest) (n : Nat) (s : State) :
    State.siStart el q (s.addCycles n) = (s.siStart el q).addCycles n := by
  unfold State.siStart
  have := siCopy_addCycles q n { s with si := { s.si with cur := some q } }
  cases hc : s.cfg.dmaCopyAt
  · simp only [show (s.addCycles n).cfg = s.cfg from rfl, hc]; exact congrArg (State.addEvent .siDma _ el) this
  · simp only [show (s.addCycles n).cfg = s.cfg from rfl, hc]; rfl

theorem aiRequest_addCycles (el : Int) (len : Word) (n : Nat) (s : State) :
    State.aiRequest el len (s.addCycles n) = (s.aiRequest el len).bind fun _ u => .ok () (u.addCycles n) := by
  unfold State.aiRequest
  simp only [show (s.addCycles n).ai = s.ai from rfl]
  split
  · rfl
  · split
    · rw [aiStart_addCycles, bind_ok]
    · rfl
    · rfl

theorem piRequest_addCycles (el : Int) (dir : PiDirection) (len : Nat) (n : Nat) (s : State) :
    State.piRequest el dir len (s.addCycles n) = (s.piRequest el dir len).bind fun _ u => .ok () (u.addCycles n) := by
  unfold State.piRequest
  simp only [show (s.addCycles n).pi = s.pi from rfl]
  split
  · rw [piStart_addCycles, bind_ok]
  · rfl
  · rfl

theorem siRequest_addCycles (el : Int) (dir : SiDirection) (n : Nat) (s : State) :
    State.siRequest el dir (s.addCycles n) = (s.siRequest el dir).bind fun _ u => .ok () (u.addCycles n) := by
  unfold State.siRequest
  simp only [show (s.addCycles n).si = s.si from rfl]
  split
  · rw [siStart_addCycles, bind_ok]
  · rfl
  · rfl

/-- A register write does not depend on the cycles of the step so far. -/
theorem slotWrite_addCycles (el : Int) (d : Device) (i : Nat) (v : Word) (n : Nat) (s : State) :
    State.slotWrite el d i v (s.addCycles n) = (s.slotWrite el d i v).bind fun _ u => .ok () (u.addCycles n) := by
  cases d with
  | mi =>
    unfold State.slotWrite State.miWrite
    simp only [Res.bind]
    split
    · unfold State.miModeWrite; split <;> rfl
    · rfl
    · rfl
  | vi =>
    unfold State.slotWrite State.viWrite
    simp only [Res.bind]
    split <;> rfl
  | ri => rfl
  | ai =>
    unfold State.slotWrite State.aiWrite
    simp only
    split
    case h_2 => exact aiRequest_addCycles _ _ n { s with ai := { s.ai with raw := s.ai.raw.setIfInBounds 1 v } }
    all_goals rfl
  | pi =>
    unfold State.slotWrite State.piWrite
    simp only
    split
    case h_3 => exact piRequest_addCycles _ _ _ n { s with pi := { s.pi with raw := s.pi.raw.setIfInBounds 2 v } }
    case h_4 => exact piRequest_addCycles _ _ _ n { s with pi := { s.pi with raw := s.pi.raw.setIfInBounds 3 v } }
    case h_5 => split <;> rfl
    all_goals rfl
  | si =>
    unfold State.slotWrite State.siWrite
    simp only
    split
    case h_2 => exact siRequest_addCycles _ _ n { s with si := { s.si with raw := s.si.raw.setIfInBounds 1 v } }
    case h_3 => exact siRequest_addCycles _ _ n { s with si := { s.si with raw := s.si.raw.setIfInBounds 4 v } }
    all_goals rfl

end Sys2Proof.Machine
end

