-- ==== Sys2Proof/Laws/Encoding.lean ====
section
/-! SUPPORT. The fields of the words that the encoder builds. -/

namespace Sys2Proof

theorem toNat_rWord {op rs rt rd sa funct : Nat} (h1 : op < 64) (h2 : rs < 32) (h3 : rt < 32) (h4 : rd < 32) (h5 : sa < 32)
    (h6 : funct < 64) :
    (rWord op rs rt rd sa funct).toNat = op * 2 ^ 26 + rs * 2 ^ 21 + rt * 2 ^ 16 + rd * 2 ^ 11 + sa * 2 ^ 6 + funct := by
  simp only [rWord, BitVec.toNat_ofNat]; omega

theorem toNat_iWord {op rs rt imm : Nat} (h1 : op < 64) (h2 : rs < 32) (h3 : rt < 32) (h4 : imm < 65536) :
    (iWord op rs rt imm).toNat = op * 2 ^ 26 + rs * 2 ^ 21 + rt * 2 ^ 16 + imm := by
  simp only [iWord, BitVec.toNat_ofNat]; omega

theorem toNat_jWord {op target : Nat} (h1 : op < 64) (h2 : target < 67108864) :
    (jWord op target).toNat = op * 2 ^ 26 + target := by
  simp only [jWord, BitVec.toNat_ofNat]; omega

theorem toNat_codeWord {code funct : Nat} (h1 : code < 1048576) (h2 : funct < 64) :
    (codeWord code funct).toNat = code * 2 ^ 6 + funct := by
  simp only [codeWord, BitVec.toNat_ofNat]; omega

theorem toNat_trapWord {rs rt code funct : Nat} (h1 : rs < 32) (h2 : rt < 32) (h3 : code < 1024) (h4 : funct < 64) :
    (trapWord rs rt code funct).toNat = rs * 2 ^ 21 + rt * 2 ^ 16 + code * 2 ^ 6 + funct := by
  simp only [trapWord, BitVec.toNat_ofNat]; omega

/-- The fields of an R word (R301). -/
theorem fields_rWord {op rs rt rd sa funct : Nat} (h1 : op < 64) (h2 : rs < 32) (h3 : rt < 32) (h4 : rd < 32) (h5 : sa < 32)
    (h6 : funct < 64) :
    field (rWord op rs rt rd sa funct) 26 6 = op ∧ field (rWord op rs rt rd sa funct) 21 5 = rs
      ∧ field (rWord op rs rt rd sa funct) 16 5 = rt ∧ field (rWord op rs rt rd sa funct) 11 5 = rd
      ∧ field (rWord op rs rt rd sa funct) 6 5 = sa ∧ field (rWord op rs rt rd sa funct) 0 6 = funct
      ∧ field (rWord op rs rt rd sa funct) 25 1 = rs / 16 := by
  simp only [field, toNat_rWord h1 h2 h3 h4 h5 h6]; omega

/-- The fields of an I word (R302). -/
theorem fields_iWord {op rs rt imm : Nat} (h1 : op < 64) (h2 : rs < 32) (h3 : rt < 32) (h4 : imm < 65536) :
    field (iWord op rs rt imm) 26 6 = op ∧ field (iWord op rs rt imm) 21 5 = rs
      ∧ field (iWord op rs rt imm) 16 5 = rt ∧ field (iWord op rs rt imm) 16 2 = rt % 4
      ∧ (iWord op rs rt imm).toNat % 65536 = imm := by
  simp only [field, toNat_iWord h1 h2 h3 h4]; omega

/-- The fields of a J word (R303). -/
theorem fields_jWord {op target : Nat} (h1 : op < 64) (h2 : target < 67108864) :
    field (jWord op target) 26 6 = op ∧ (jWord op target).toNat % 67108864 = target := by
  simp only [field, toNat_jWord h1 h2]; omega

/-- The fields of a word with a 20-bit code (R307). -/
theorem fields_codeWord {code funct : Nat} (h1 : code < 1048576) (h2 : funct < 64) :
    field (codeWord code funct) 26 6 = 0 ∧ field (codeWord code funct) 0 6 = funct ∧ field (codeWord code funct) 6 20 = code := by
  simp only [field, toNat_codeWord h1 h2]; omega

/-- The fields of a register trap's word (R307). -/
theorem fields_trapWord {rs rt code funct : Nat} (h1 : rs < 32) (h2 : rt < 32) (h3 : code < 1024) (h4 : funct < 64) :
    field (trapWord rs rt code funct) 26 6 = 0 ∧ field (trapWord rs rt code funct) 21 5 = rs
      ∧ field (trapWord rs rt code funct) 16 5 = rt ∧ field (trapWord rs rt code funct) 6 10 = code
      ∧ field (trapWord rs rt code funct) 0 6 = funct := by
  simp only [field, toNat_trapWord h1 h2 h3 h4]; omega

/-- A register field is the register whose number it holds. -/
theorem reg_eq {w : Word} {lo : Nat} (r : RegIdx) (h : field w lo 5 = r.val) : reg w lo = r := Fin.ext h

/-- The low 16 bits are the immediate they hold. -/
theorem imm16_eq {w : Word} (v : Half) (h : w.toNat % 65536 = v.toNat) : imm16 w = v := by
  apply BitVec.eq_of_toNat_eq
  simpa [imm16, BitVec.toNat_setWidth] using h

/-- The low 26 bits are the target they hold. -/
theorem target_eq {w : Word} (v : BitVec 26) (h : w.toNat % 67108864 = v.toNat) : w.setWidth 26 = v := by
  apply BitVec.eq_of_toNat_eq
  simpa [BitVec.toNat_setWidth] using h

/-- A code field is the code it holds. -/
theorem code_eq {n m : Nat} (v : BitVec n) (h : m = v.toNat) : BitVec.ofNat n m = v := by
  subst h; simp

end Sys2Proof
end

