-- ==== Sys2Proof/Laws/Gates.lean ====
section
/-! SUPPORT. What the gates, the exception-raising paths and the shared finishes of instructions do: one lemma for each, which the
proofs cite instead of unfolding them. -/

namespace Sys2Proof.Machine

theorem with64_open {s : State} (k : State → Result) (h : s.ops64) : with64 k s = k s := by
  unfold with64 require64
  rcases h with h | ⟨h, h2⟩ | ⟨h, h2⟩
  · simp [h]
  · simp only [h]; rw [if_pos h2]; rfl
  · simp only [h]; rw [if_pos h2]; rfl

theorem with64_denied {s : State} (k : State → Result) (h : s.ops64Denied) : with64 k s = .next (takeException .ri s) := by
  unfold with64 require64
  rcases h with ⟨h, h2⟩ | ⟨h, h2⟩
  · simp only [h]; rw [if_neg (by rw [h2]; simp)]; rfl
  · simp only [h]; rw [if_neg (by rw [h2]; simp)]; rfl

theorem withCop_open {n : BitVec 2} {s : State} {k : State → Result} (hn : n ≠ 0#2) (h : s.cu n.toNat = true) :
    withCop n k s = k s := by
  unfold withCop checkCop; rw [if_neg hn, if_pos h]; rfl

theorem withCop_denied {n : BitVec 2} {s : State} {k : State → Result} (hn : n ≠ 0#2) (h : s.cu n.toNat = false) :
    withCop n k s = .next (takeException (.cpu n) s) := by
  unfold withCop checkCop; rw [if_neg hn, if_neg (by rw [h]; simp)]; rfl

theorem withCop0_open {s : State} {k : State → Result} (h : s.cop0Usable) : withCop 0#2 k s = k s := by
  unfold withCop checkCop; rw [if_pos rfl]
  rcases h with h | ⟨h, h2⟩
  · simp [h]
  · cases hm : s.mode <;> simp only [] <;> first | exact absurd hm h | rfl | (rw [if_pos h2]; rfl)

theorem withCop0_denied {s : State} {k : State → Result} (h : s.cop0Denied) : withCop 0#2 k s = .next (takeException (.cpu 0#2) s) := by
  unfold withCop checkCop; rw [if_pos rfl]
  obtain ⟨h | h, h2⟩ := h <;> simp only [h] <;> (rw [if_neg (by rw [h2]; simp)]; rfl)

/-- An instruction that answers `takeException` raises. -/
theorem Raises.of_exec {i : Instr} {s : State} {e : Exc} (hl : s.excLatch = false) (h : exec i s = .next (takeException e s)) :
    Raises i e s := ⟨_, h, takeException_taken e s hl⟩

theorem Gated64.of_exec {i : Instr} {s : State} {k : State → Result} {P : State → Prop} (hl : s.excLatch = false)
    (h : exec i s = with64 k s) (h2 : s.ops64 → exec i s = k s → Answers i s P) : Gated64 i s P :=
  ⟨fun hd => Raises.of_exec hl (by rw [h, with64_denied k hd]), fun ho => h2 ho (by rw [h, with64_open k ho])⟩

theorem Answers.of_double {i : Instr} {s : State} {rd : RegIdx} {v w : DWord} (he : exec i s = finishDouble rd v s) (hv : v = w) :
    Answers i s (WroteGpr rd w s) := by
  subst hv; unfold Answers; rw [he]; exact finishDouble_answers rd v s

theorem Answers.of_word {i : Instr} {s : State} {rd : RegIdx} {v : Word} {w : DWord} (he : exec i s = finishWord rd v s)
    (hv : sext32 v = w) : Answers i s (WroteGpr rd w s) := by
  subst hv; unfold Answers; rw [he]; exact finishWord_answers rd v s

theorem Answers.of_hiLo {i : Instr} {s : State} {h l h' l' : DWord} (he : exec i s = finishHiLo h l s) (hv : h = h')
    (hl : l = l') : Answers i s (WroteHiLo h' l' s) := by
  subst hv; subst hl; unfold Answers; rw [he]; exact finishHiLo_answers _ _ s

theorem Answers.of_branch {i : Instr} {s : State} {rd : RegIdx} {v : DWord} {c c' : Bool} {t t' : DWord}
    (he : exec i s = (s.setX rd v).branch c t) (hc : c = c') (ht : t = t') :
    Answers i s (fun u => BranchFrame rd v s u ∧ (s.branchState = .noBranch → BranchRegistered c' t' s u)
      ∧ (s.branchState ≠ .noBranch → SlotKept s u)) := by
  subst hc; subst ht; unfold Answers; rw [he]
  by_cases h : s.branchState = .noBranch
  · obtain ⟨u, h1, h2, h3⟩ := branch_outside h rd v c t
    exact ⟨u, h1, h2, fun _ => h3, fun hn => absurd h hn⟩
  · obtain ⟨u, h1, h2, h3⟩ := (branch_slot h rd v c t).1
    exact ⟨u, h1, h2, fun hn => absurd hn h, fun _ => h3⟩

theorem Answers.of_branchLikely {i : Instr} {s : State} {rd : RegIdx} {v : DWord} {c c' : Bool} {t t' : DWord}
    (he : exec i s = (s.setX rd v).branchLikely c t) (hc : c = c') (ht : t = t') :
    Answers i s (fun u => BranchFrame rd v s u ∧ (s.branchState = .noBranch → LikelyRegistered c' t' s u)
      ∧ (s.branchState ≠ .noBranch → SlotKept s u)) := by
  subst hc; subst ht; unfold Answers; rw [he]
  by_cases h : s.branchState = .noBranch
  · obtain ⟨u, h1, h2, h3⟩ := branchLikely_outside h rd v c t
    exact ⟨u, h1, h2, fun _ => h3, fun hn => absurd h hn⟩
  · obtain ⟨u, h1, h2, h3⟩ := (branch_slot h rd v c t).2
    exact ⟨u, h1, h2, fun hn => absurd hn h, fun _ => h3⟩

/-! ### Floating-point registers -/

theorem setFgr32_fprSet (n : RegIdx) (w : Word) (s : State) : FprSet32 n w s (s.setFgr32 n w) := by
  intro k
  unfold State.setFgr32
  by_cases h : s.fr = true ∨ n.val % 2 = 0
  · rw [if_pos h, if_pos (by simpa using h)]
    by_cases hk : k = n
    · subst hk; simp
    · rw [if_neg hk]; simp only; rw [Vector.getElem_set_ne]; exact fun e => hk (Fin.ext e.symm)
  · rw [if_neg h, if_neg (by simpa using h)]
    have hn : (evenReg n).val = n.val - 1 := by unfold evenReg; simp at h ⊢; omega
    by_cases hk : k.val + 1 = n.val
    · rw [if_pos hk]; have : k = evenReg n := Fin.ext (by omega)
      subst this; simp
    · rw [if_neg hk]; simp only; rw [Vector.getElem_set_ne]; simp at h; omega

theorem setFgr64_fprSet (n : RegIdx) (v : DWord) (s : State) : FprSet64 n v s (s.setFgr64 n v) := by
  intro k
  unfold State.setFgr64
  by_cases h : s.fr = true
  · rw [if_pos h, if_pos h]
    by_cases hk : k = n
    · subst hk; simp
    · rw [if_neg hk]; simp only; rw [Vector.getElem_set_ne]; exact fun e => hk (Fin.ext e.symm)
  · rw [if_neg h, if_neg h]
    by_cases hk : k.val = n.val - n.val % 2
    · rw [if_pos hk]; have : k = evenReg n := Fin.ext (by rw [hk]; rfl)
      subst this; simp
    · rw [if_neg hk]; simp only; rw [Vector.getElem_set_ne]; unfold evenReg; simp; omega

theorem fpWrite_fprSet (f : FpFmt) (n : RegIdx) (v : DWord) (s : State) : FprSet f n v s (s.fpWrite f n v) := by
  cases f
  · exact setFgr32_fprSet _ _ _
  · exact setFgr64_fprSet _ _ _
  · exact setFgr32_fprSet _ _ _
  · exact setFgr64_fprSet _ _ _

/-- A write through the view changes only the floating-point registers. -/
theorem fpWrite_only (f : FpFmt) (n : RegIdx) (v : DWord) (s : State) : s.fpWrite f n v = { s with fpr := (s.fpWrite f n v).fpr } := by
  cases f <;> simp only [State.fpWrite, State.setFgr32, State.setFgr64] <;> split <;> rfl

theorem fcsr_accrued (fl : FpFlags) (w : Word) : FcsrAccrued fl w (accrueFpFlags fl (setFpCause fl w)) := by
  unfold accrueFpFlags setFpCause clearFpCause
  constructor
  all_goals
    generalize fl.bits = b
    apply BitVec.eq_of_getLsbD_eq; intro i hi; interval_cases i <;> simp

theorem fcsr_trapped (fl : FpFlags) (w : Word) : FcsrTrapped (fl.bits.setWidth 6) w (setFpCause fl w) := by
  unfold setFpCause clearFpCause
  constructor
  all_goals
    generalize fl.bits = b
    apply BitVec.eq_of_getLsbD_eq; intro i hi; interval_cases i <;> simp

theorem fcsr_unimplemented (w : Word) : FcsrTrapped 0x20#6 w (setFpUnimplemented w) := by
  unfold setFpUnimplemented clearFpCause
  constructor
  all_goals
    apply BitVec.eq_of_getLsbD_eq; intro i hi; interval_cases i <;> simp

/-- The end of an instruction that changed only floating-point registers and FCSR. -/
theorem retire_wroteFpu {s m : State} (h : m = { s with fpr := m.fpr, fcsr := m.fcsr }) : WroteFpu s m.retire := by
  constructor
  · intro r; simp [State.x]; rw [h]
  · constructor <;> (simp; rw [h])
  · refine ⟨?_, ?_, ?_⟩ <;> (simp; rw [h])
  · refine ⟨?_, ?_, ?_⟩ <;> (simp; rw [h])
    intro; rfl
  · constructor <;> (simp; rw [h])
  · exact (retire_completed m).of_eq (by rw [h]) (by rw [h]) (by rw [h]) (by rw [h]) (by rw [h])

/-- A register write is about the two register files and Status.FR only. -/
theorem FprSet.congr {f : FpFmt} {n : RegIdx} {v : DWord} {s m a t : State} (h : FprSet f n v a m) (ha : a.fpr = s.fpr)
    (hf : a.fr = s.fr) (ht : t.fpr = m.fpr) : FprSet f n v s t := by
  cases f <;> (intro k; have := h k; simpa only [ha, hf, ht] using this)

/-- What `fpArith` does with an operation's answer (R703). -/
theorem fpArith_does {i : Instr} {o : FpOutcome} {dst : FpFmt} {fd : RegIdx} {s : State} (hl : s.excLatch = false)
    (he : exec i s = fpArith o dst fd s) : FpDoes i o dst fd s := by
  unfold FpDoes
  refine ⟨fun v fl ho h => ?_, fun v fl ho h => ?_, fun ho => ?_⟩
  · subst ho
    have ht : fpTraps fl s.fcsr = false := by unfold fpTraps fcsrEnable; simpa using h
    refine ⟨_, by rw [he]; unfold fpArith; simp only; rw [ht]; rfl, ?_⟩
    set m := (s.setFcsr (accrueFpFlags fl (setFpCause fl s.fcsr))).fpWrite dst fd v with hm
    have hm2 : m = { s with fpr := m.fpr, fcsr := m.fcsr } := by
      rw [hm, fpWrite_only]; rfl
    constructor
    · exact FprSet.congr (fpWrite_fprSet dst fd v (s.setFcsr (accrueFpFlags fl (setFpCause fl s.fcsr)))) rfl rfl
        (retire_fpr m)
    · have : m.fcsr = accrueFpFlags fl (setFpCause fl s.fcsr) := by rw [hm, fpWrite_only]; rfl
      rw [retire_fcsr, this]; exact fcsr_accrued _ _
    · exact retire_wroteFpu hm2
  · subst ho
    have ht : fpTraps fl s.fcsr = true := by unfold fpTraps fcsrEnable; simpa using h
    refine ⟨_, by rw [he]; unfold fpArith; simp only; rw [ht]; rfl, _, fcsr_trapped fl _, takeException_taken _ _ hl⟩
  · subst ho
    exact ⟨_, by rw [he]; rfl, _, fcsr_unimplemented _, takeException_taken _ _ hl⟩

end Sys2Proof.Machine
end

