-- ==== Sys2Proof/Laws/PerInstr.lean ====
section
/-! SUPPORT. One law of each instruction: the word the encoder builds holds, at every field the opcode table gives its row (fixed or
operand), the value the table gives. -/

namespace Sys2Proof.Laws.FixedBits

/-- The fields of a row of the opcode table as (low bit, width, value), the operands in their fields. -/
def tableFields (i : Instr) : List (Nat × Nat × Nat) :=
  match i with
  | .add rd rs rt => [(26, 6, 0), (21, 5, rs.val), (16, 5, rt.val), (11, 5, rd.val), (0, 6, 32)]
  | .addu rd rs rt => [(26, 6, 0), (21, 5, rs.val), (16, 5, rt.val), (11, 5, rd.val), (0, 6, 33)]
  | .sub rd rs rt => [(26, 6, 0), (21, 5, rs.val), (16, 5, rt.val), (11, 5, rd.val), (0, 6, 34)]
  | .subu rd rs rt => [(26, 6, 0), (21, 5, rs.val), (16, 5, rt.val), (11, 5, rd.val), (0, 6, 35)]
  | .addi rt rs imm => [(26, 6, 8), (21, 5, rs.val), (16, 5, rt.val), (0, 16, imm.toNat)]
  | .addiu rt rs imm => [(26, 6, 9), (21, 5, rs.val), (16, 5, rt.val), (0, 16, imm.toNat)]
  | .dadd rd rs rt => [(26, 6, 0), (21, 5, rs.val), (16, 5, rt.val), (11, 5, rd.val), (0, 6, 44)]
  | .daddu rd rs rt => [(26, 6, 0), (21, 5, rs.val), (16, 5, rt.val), (11, 5, rd.val), (0, 6, 45)]
  | .dsub rd rs rt => [(26, 6, 0), (21, 5, rs.val), (16, 5, rt.val), (11, 5, rd.val), (0, 6, 46)]
  | .dsubu rd rs rt => [(26, 6, 0), (21, 5, rs.val), (16, 5, rt.val), (11, 5, rd.val), (0, 6, 47)]
  | .daddi rt rs imm => [(26, 6, 24), (21, 5, rs.val), (16, 5, rt.val), (0, 16, imm.toNat)]
  | .daddiu rt rs imm => [(26, 6, 25), (21, 5, rs.val), (16, 5, rt.val), (0, 16, imm.toNat)]
  | .and rd rs rt => [(26, 6, 0), (21, 5, rs.val), (16, 5, rt.val), (11, 5, rd.val), (0, 6, 36)]
  | .or rd rs rt => [(26, 6, 0), (21, 5, rs.val), (16, 5, rt.val), (11, 5, rd.val), (0, 6, 37)]
  | .xor rd rs rt => [(26, 6, 0), (21, 5, rs.val), (16, 5, rt.val), (11, 5, rd.val), (0, 6, 38)]
  | .nor rd rs rt => [(26, 6, 0), (21, 5, rs.val), (16, 5, rt.val), (11, 5, rd.val), (0, 6, 39)]
  | .andi rt rs imm => [(26, 6, 12), (21, 5, rs.val), (16, 5, rt.val), (0, 16, imm.toNat)]
  | .ori rt rs imm => [(26, 6, 13), (21, 5, rs.val), (16, 5, rt.val), (0, 16, imm.toNat)]
  | .xori rt rs imm => [(26, 6, 14), (21, 5, rs.val), (16, 5, rt.val), (0, 16, imm.toNat)]
  | .lui rt imm => [(26, 6, 15), (16, 5, rt.val), (0, 16, imm.toNat)]
  | .slt rd rs rt => [(26, 6, 0), (21, 5, rs.val), (16, 5, rt.val), (11, 5, rd.val), (0, 6, 42)]
  | .sltu rd rs rt => [(26, 6, 0), (21, 5, rs.val), (16, 5, rt.val), (11, 5, rd.val), (0, 6, 43)]
  | .slti rt rs imm => [(26, 6, 10), (21, 5, rs.val), (16, 5, rt.val), (0, 16, imm.toNat)]
  | .sltiu rt rs imm => [(26, 6, 11), (21, 5, rs.val), (16, 5, rt.val), (0, 16, imm.toNat)]
  | .sll rd rt sa => [(26, 6, 0), (16, 5, rt.val), (11, 5, rd.val), (6, 5, sa), (0, 6, 0)]
  | .srl rd rt sa => [(26, 6, 0), (16, 5, rt.val), (11, 5, rd.val), (6, 5, sa), (0, 6, 2)]
  | .sra rd rt sa => [(26, 6, 0), (16, 5, rt.val), (11, 5, rd.val), (6, 5, sa), (0, 6, 3)]
  | .sllv rd rt rs => [(26, 6, 0), (21, 5, rs.val), (16, 5, rt.val), (11, 5, rd.val), (0, 6, 4)]
  | .srlv rd rt rs => [(26, 6, 0), (21, 5, rs.val), (16, 5, rt.val), (11, 5, rd.val), (0, 6, 6)]
  | .srav rd rt rs => [(26, 6, 0), (21, 5, rs.val), (16, 5, rt.val), (11, 5, rd.val), (0, 6, 7)]
  | .dsll rd rt sa => [(26, 6, 0), (16, 5, rt.val), (11, 5, rd.val), (6, 5, sa), (0, 6, 56)]
  | .dsrl rd rt sa => [(26, 6, 0), (16, 5, rt.val), (11, 5, rd.val), (6, 5, sa), (0, 6, 58)]
  | .dsra rd rt sa => [(26, 6, 0), (16, 5, rt.val), (11, 5, rd.val), (6, 5, sa), (0, 6, 59)]
  | .dsll32 rd rt sa => [(26, 6, 0), (16, 5, rt.val), (11, 5, rd.val), (6, 5, sa), (0, 6, 60)]
  | .dsrl32 rd rt sa => [(26, 6, 0), (16, 5, rt.val), (11, 5, rd.val), (6, 5, sa), (0, 6, 62)]
  | .dsra32 rd rt sa => [(26, 6, 0), (16, 5, rt.val), (11, 5, rd.val), (6, 5, sa), (0, 6, 63)]
  | .dsllv rd rt rs => [(26, 6, 0), (21, 5, rs.val), (16, 5, rt.val), (11, 5, rd.val), (0, 6, 20)]
  | .dsrlv rd rt rs => [(26, 6, 0), (21, 5, rs.val), (16, 5, rt.val), (11, 5, rd.val), (0, 6, 22)]
  | .dsrav rd rt rs => [(26, 6, 0), (21, 5, rs.val), (16, 5, rt.val), (11, 5, rd.val), (0, 6, 23)]
  | .mult rs rt => [(26, 6, 0), (21, 5, rs.val), (16, 5, rt.val), (0, 6, 24)]
  | .multu rs rt => [(26, 6, 0), (21, 5, rs.val), (16, 5, rt.val), (0, 6, 25)]
  | .div rs rt => [(26, 6, 0), (21, 5, rs.val), (16, 5, rt.val), (0, 6, 26)]
  | .divu rs rt => [(26, 6, 0), (21, 5, rs.val), (16, 5, rt.val), (0, 6, 27)]
  | .dmult rs rt => [(26, 6, 0), (21, 5, rs.val), (16, 5, rt.val), (0, 6, 28)]
  | .dmultu rs rt => [(26, 6, 0), (21, 5, rs.val), (16, 5, rt.val), (0, 6, 29)]
  | .ddiv rs rt => [(26, 6, 0), (21, 5, rs.val), (16, 5, rt.val), (0, 6, 30)]
  | .ddivu rs rt => [(26, 6, 0), (21, 5, rs.val), (16, 5, rt.val), (0, 6, 31)]
  | .mfhi rd => [(26, 6, 0), (11, 5, rd.val), (0, 6, 16)]
  | .mthi rs => [(26, 6, 0), (21, 5, rs.val), (0, 6, 17)]
  | .mflo rd => [(26, 6, 0), (11, 5, rd.val), (0, 6, 18)]
  | .mtlo rs => [(26, 6, 0), (21, 5, rs.val), (0, 6, 19)]
  | .j target => [(26, 6, 2), (0, 26, target.toNat)]
  | .jal target => [(26, 6, 3), (0, 26, target.toNat)]
  | .jr rs => [(26, 6, 0), (21, 5, rs.val), (0, 6, 8)]
  | .jalr rd rs => [(26, 6, 0), (21, 5, rs.val), (11, 5, rd.val), (0, 6, 9)]
  | .beq rs rt offset => [(26, 6, 4), (21, 5, rs.val), (16, 5, rt.val), (0, 16, offset.toNat)]
  | .bne rs rt offset => [(26, 6, 5), (21, 5, rs.val), (16, 5, rt.val), (0, 16, offset.toNat)]
  | .blez rs offset => [(26, 6, 6), (21, 5, rs.val), (0, 16, offset.toNat)]
  | .bgtz rs offset => [(26, 6, 7), (21, 5, rs.val), (0, 16, offset.toNat)]
  | .bltz rs offset => [(26, 6, 1), (21, 5, rs.val), (16, 5, 0), (0, 16, offset.toNat)]
  | .bgez rs offset => [(26, 6, 1), (21, 5, rs.val), (16, 5, 1), (0, 16, offset.toNat)]
  | .bltzal rs offset => [(26, 6, 1), (21, 5, rs.val), (16, 5, 16), (0, 16, offset.toNat)]
  | .bgezal rs offset => [(26, 6, 1), (21, 5, rs.val), (16, 5, 17), (0, 16, offset.toNat)]
  | .beql rs rt offset => [(26, 6, 20), (21, 5, rs.val), (16, 5, rt.val), (0, 16, offset.toNat)]
  | .bnel rs rt offset => [(26, 6, 21), (21, 5, rs.val), (16, 5, rt.val), (0, 16, offset.toNat)]
  | .blezl rs offset => [(26, 6, 22), (21, 5, rs.val), (0, 16, offset.toNat)]
  | .bgtzl rs offset => [(26, 6, 23), (21, 5, rs.val), (0, 16, offset.toNat)]
  | .bltzl rs offset => [(26, 6, 1), (21, 5, rs.val), (16, 5, 2), (0, 16, offset.toNat)]
  | .bgezl rs offset => [(26, 6, 1), (21, 5, rs.val), (16, 5, 3), (0, 16, offset.toNat)]
  | .bltzall rs offset => [(26, 6, 1), (21, 5, rs.val), (16, 5, 18), (0, 16, offset.toNat)]
  | .bgezall rs offset => [(26, 6, 1), (21, 5, rs.val), (16, 5, 19), (0, 16, offset.toNat)]
  | .lb rt base offset => [(26, 6, 32), (21, 5, base.val), (16, 5, rt.val), (0, 16, offset.toNat)]
  | .lbu rt base offset => [(26, 6, 36), (21, 5, base.val), (16, 5, rt.val), (0, 16, offset.toNat)]
  | .lh rt base offset => [(26, 6, 33), (21, 5, base.val), (16, 5, rt.val), (0, 16, offset.toNat)]
  | .lhu rt base offset => [(26, 6, 37), (21, 5, base.val), (16, 5, rt.val), (0, 16, offset.toNat)]
  | .lw rt base offset => [(26, 6, 35), (21, 5, base.val), (16, 5, rt.val), (0, 16, offset.toNat)]
  | .lwu rt base offset => [(26, 6, 39), (21, 5, base.val), (16, 5, rt.val), (0, 16, offset.toNat)]
  | .ld rt base offset => [(26, 6, 55), (21, 5, base.val), (16, 5, rt.val), (0, 16, offset.toNat)]
  | .sb rt base offset => [(26, 6, 40), (21, 5, base.val), (16, 5, rt.val), (0, 16, offset.toNat)]
  | .sh rt base offset => [(26, 6, 41), (21, 5, base.val), (16, 5, rt.val), (0, 16, offset.toNat)]
  | .sw rt base offset => [(26, 6, 43), (21, 5, base.val), (16, 5, rt.val), (0, 16, offset.toNat)]
  | .sd rt base offset => [(26, 6, 63), (21, 5, base.val), (16, 5, rt.val), (0, 16, offset.toNat)]
  | .lwl rt base offset => [(26, 6, 34), (21, 5, base.val), (16, 5, rt.val), (0, 16, offset.toNat)]
  | .lwr rt base offset => [(26, 6, 38), (21, 5, base.val), (16, 5, rt.val), (0, 16, offset.toNat)]
  | .ldl rt base offset => [(26, 6, 26), (21, 5, base.val), (16, 5, rt.val), (0, 16, offset.toNat)]
  | .ldr rt base offset => [(26, 6, 27), (21, 5, base.val), (16, 5, rt.val), (0, 16, offset.toNat)]
  | .swl rt base offset => [(26, 6, 42), (21, 5, base.val), (16, 5, rt.val), (0, 16, offset.toNat)]
  | .swr rt base offset => [(26, 6, 46), (21, 5, base.val), (16, 5, rt.val), (0, 16, offset.toNat)]
  | .sdl rt base offset => [(26, 6, 44), (21, 5, base.val), (16, 5, rt.val), (0, 16, offset.toNat)]
  | .sdr rt base offset => [(26, 6, 45), (21, 5, base.val), (16, 5, rt.val), (0, 16, offset.toNat)]
  | .ll rt base offset => [(26, 6, 48), (21, 5, base.val), (16, 5, rt.val), (0, 16, offset.toNat)]
  | .lld rt base offset => [(26, 6, 52), (21, 5, base.val), (16, 5, rt.val), (0, 16, offset.toNat)]
  | .sc rt base offset => [(26, 6, 56), (21, 5, base.val), (16, 5, rt.val), (0, 16, offset.toNat)]
  | .scd rt base offset => [(26, 6, 60), (21, 5, base.val), (16, 5, rt.val), (0, 16, offset.toNat)]
  | .sync stype => [(26, 6, 0), (6, 5, stype.toNat), (0, 6, 15)]
  | .cache op base offset => [(26, 6, 47), (21, 5, base.val), (16, 5, op.toNat), (0, 16, offset.toNat)]
  | .syscall code => [(26, 6, 0), (6, 20, code.toNat), (0, 6, 12)]
  | .brk code => [(26, 6, 0), (6, 20, code.toNat), (0, 6, 13)]
  | .tge rs rt code => [(26, 6, 0), (21, 5, rs.val), (16, 5, rt.val), (6, 10, code.toNat), (0, 6, 48)]
  | .tgeu rs rt code => [(26, 6, 0), (21, 5, rs.val), (16, 5, rt.val), (6, 10, code.toNat), (0, 6, 49)]
  | .tlt rs rt code => [(26, 6, 0), (21, 5, rs.val), (16, 5, rt.val), (6, 10, code.toNat), (0, 6, 50)]
  | .tltu rs rt code => [(26, 6, 0), (21, 5, rs.val), (16, 5, rt.val), (6, 10, code.toNat), (0, 6, 51)]
  | .teq rs rt code => [(26, 6, 0), (21, 5, rs.val), (16, 5, rt.val), (6, 10, code.toNat), (0, 6, 52)]
  | .tne rs rt code => [(26, 6, 0), (21, 5, rs.val), (16, 5, rt.val), (6, 10, code.toNat), (0, 6, 54)]
  | .tgei rs imm => [(26, 6, 1), (21, 5, rs.val), (16, 5, 8), (0, 16, imm.toNat)]
  | .tgeiu rs imm => [(26, 6, 1), (21, 5, rs.val), (16, 5, 9), (0, 16, imm.toNat)]
  | .tlti rs imm => [(26, 6, 1), (21, 5, rs.val), (16, 5, 10), (0, 16, imm.toNat)]
  | .tltiu rs imm => [(26, 6, 1), (21, 5, rs.val), (16, 5, 11), (0, 16, imm.toNat)]
  | .teqi rs imm => [(26, 6, 1), (21, 5, rs.val), (16, 5, 12), (0, 16, imm.toNat)]
  | .tnei rs imm => [(26, 6, 1), (21, 5, rs.val), (16, 5, 14), (0, 16, imm.toNat)]
  | .mfc0 rt rd => [(26, 6, 16), (21, 5, 0), (16, 5, rt.val), (11, 5, rd.val)]
  | .dmfc0 rt rd => [(26, 6, 16), (21, 5, 1), (16, 5, rt.val), (11, 5, rd.val)]
  | .mtc0 rt rd => [(26, 6, 16), (21, 5, 4), (16, 5, rt.val), (11, 5, rd.val)]
  | .dmtc0 rt rd => [(26, 6, 16), (21, 5, 5), (16, 5, rt.val), (11, 5, rd.val)]
  | .tlbr => [(26, 6, 16), (25, 1, 1), (0, 6, 1)]
  | .tlbwi => [(26, 6, 16), (25, 1, 1), (0, 6, 2)]
  | .tlbwr => [(26, 6, 16), (25, 1, 1), (0, 6, 6)]
  | .tlbp => [(26, 6, 16), (25, 1, 1), (0, 6, 8)]
  | .eret => [(26, 6, 16), (25, 1, 1), (0, 6, 24)]
  | .lwc1 ft base offset => [(26, 6, 49), (21, 5, base.val), (16, 5, ft.val), (0, 16, offset.toNat)]
  | .ldc1 ft base offset => [(26, 6, 53), (21, 5, base.val), (16, 5, ft.val), (0, 16, offset.toNat)]
  | .swc1 ft base offset => [(26, 6, 57), (21, 5, base.val), (16, 5, ft.val), (0, 16, offset.toNat)]
  | .sdc1 ft base offset => [(26, 6, 61), (21, 5, base.val), (16, 5, ft.val), (0, 16, offset.toNat)]
  | .mfc1 rt fs => [(26, 6, 17), (21, 5, 0), (16, 5, rt.val), (11, 5, fs.val)]
  | .dmfc1 rt fs => [(26, 6, 17), (21, 5, 1), (16, 5, rt.val), (11, 5, fs.val)]
  | .cfc1 rt fs => [(26, 6, 17), (21, 5, 2), (16, 5, rt.val), (11, 5, fs.val)]
  | .mtc1 rt fs => [(26, 6, 17), (21, 5, 4), (16, 5, rt.val), (11, 5, fs.val)]
  | .dmtc1 rt fs => [(26, 6, 17), (21, 5, 5), (16, 5, rt.val), (11, 5, fs.val)]
  | .ctc1 rt fs => [(26, 6, 17), (21, 5, 6), (16, 5, rt.val), (11, 5, fs.val)]
  | .bc1f offset => [(26, 6, 17), (21, 5, 8), (16, 2, 0), (0, 16, offset.toNat)]
  | .bc1t offset => [(26, 6, 17), (21, 5, 8), (16, 2, 1), (0, 16, offset.toNat)]
  | .bc1fl offset => [(26, 6, 17), (21, 5, 8), (16, 2, 2), (0, 16, offset.toNat)]
  | .bc1tl offset => [(26, 6, 17), (21, 5, 8), (16, 2, 3), (0, 16, offset.toNat)]
  | .addS fd fs ft => [(26, 6, 17), (21, 5, 16), (16, 5, ft.val), (11, 5, fs.val), (6, 5, fd.val), (0, 6, 0)]
  | .addD fd fs ft => [(26, 6, 17), (21, 5, 17), (16, 5, ft.val), (11, 5, fs.val), (6, 5, fd.val), (0, 6, 0)]
  | .subS fd fs ft => [(26, 6, 17), (21, 5, 16), (16, 5, ft.val), (11, 5, fs.val), (6, 5, fd.val), (0, 6, 1)]
  | .subD fd fs ft => [(26, 6, 17), (21, 5, 17), (16, 5, ft.val), (11, 5, fs.val), (6, 5, fd.val), (0, 6, 1)]
  | .mulS fd fs ft => [(26, 6, 17), (21, 5, 16), (16, 5, ft.val), (11, 5, fs.val), (6, 5, fd.val), (0, 6, 2)]
  | .mulD fd fs ft => [(26, 6, 17), (21, 5, 17), (16, 5, ft.val), (11, 5, fs.val), (6, 5, fd.val), (0, 6, 2)]
  | .divS fd fs ft => [(26, 6, 17), (21, 5, 16), (16, 5, ft.val), (11, 5, fs.val), (6, 5, fd.val), (0, 6, 3)]
  | .divD fd fs ft => [(26, 6, 17), (21, 5, 17), (16, 5, ft.val), (11, 5, fs.val), (6, 5, fd.val), (0, 6, 3)]
  | .sqrtS fd fs => [(26, 6, 17), (21, 5, 16), (11, 5, fs.val), (6, 5, fd.val), (0, 6, 4)]
  | .sqrtD fd fs => [(26, 6, 17), (21, 5, 17), (11, 5, fs.val), (6, 5, fd.val), (0, 6, 4)]
  | .absS fd fs => [(26, 6, 17), (21, 5, 16), (11, 5, fs.val), (6, 5, fd.val), (0, 6, 5)]
  | .absD fd fs => [(26, 6, 17), (21, 5, 17), (11, 5, fs.val), (6, 5, fd.val), (0, 6, 5)]
  | .movS fd fs => [(26, 6, 17), (21, 5, 16), (11, 5, fs.val), (6, 5, fd.val), (0, 6, 6)]
  | .movD fd fs => [(26, 6, 17), (21, 5, 17), (11, 5, fs.val), (6, 5, fd.val), (0, 6, 6)]
  | .negS fd fs => [(26, 6, 17), (21, 5, 16), (11, 5, fs.val), (6, 5, fd.val), (0, 6, 7)]
  | .negD fd fs => [(26, 6, 17), (21, 5, 17), (11, 5, fs.val), (6, 5, fd.val), (0, 6, 7)]
  | .roundLS fd fs => [(26, 6, 17), (21, 5, 16), (11, 5, fs.val), (6, 5, fd.val), (0, 6, 8)]
  | .roundLD fd fs => [(26, 6, 17), (21, 5, 17), (11, 5, fs.val), (6, 5, fd.val), (0, 6, 8)]
  | .truncLS fd fs => [(26, 6, 17), (21, 5, 16), (11, 5, fs.val), (6, 5, fd.val), (0, 6, 9)]
  | .truncLD fd fs => [(26, 6, 17), (21, 5, 17), (11, 5, fs.val), (6, 5, fd.val), (0, 6, 9)]
  | .ceilLS fd fs => [(26, 6, 17), (21, 5, 16), (11, 5, fs.val), (6, 5, fd.val), (0, 6, 10)]
  | .ceilLD fd fs => [(26, 6, 17), (21, 5, 17), (11, 5, fs.val), (6, 5, fd.val), (0, 6, 10)]
  | .floorLS fd fs => [(26, 6, 17), (21, 5, 16), (11, 5, fs.val), (6, 5, fd.val), (0, 6, 11)]
  | .floorLD fd fs => [(26, 6, 17), (21, 5, 17), (11, 5, fs.val), (6, 5, fd.val), (0, 6, 11)]
  | .roundWS fd fs => [(26, 6, 17), (21, 5, 16), (11, 5, fs.val), (6, 5, fd.val), (0, 6, 12)]
  | .roundWD fd fs => [(26, 6, 17), (21, 5, 17), (11, 5, fs.val), (6, 5, fd.val), (0, 6, 12)]
  | .truncWS fd fs => [(26, 6, 17), (21, 5, 16), (11, 5, fs.val), (6, 5, fd.val), (0, 6, 13)]
  | .truncWD fd fs => [(26, 6, 17), (21, 5, 17), (11, 5, fs.val), (6, 5, fd.val), (0, 6, 13)]
  | .ceilWS fd fs => [(26, 6, 17), (21, 5, 16), (11, 5, fs.val), (6, 5, fd.val), (0, 6, 14)]
  | .ceilWD fd fs => [(26, 6, 17), (21, 5, 17), (11, 5, fs.val), (6, 5, fd.val), (0, 6, 14)]
  | .floorWS fd fs => [(26, 6, 17), (21, 5, 16), (11, 5, fs.val), (6, 5, fd.val), (0, 6, 15)]
  | .floorWD fd fs => [(26, 6, 17), (21, 5, 17), (11, 5, fs.val), (6, 5, fd.val), (0, 6, 15)]
  | .cvtSD fd fs => [(26, 6, 17), (21, 5, 17), (11, 5, fs.val), (6, 5, fd.val), (0, 6, 32)]
  | .cvtSW fd fs => [(26, 6, 17), (21, 5, 20), (11, 5, fs.val), (6, 5, fd.val), (0, 6, 32)]
  | .cvtSL fd fs => [(26, 6, 17), (21, 5, 21), (11, 5, fs.val), (6, 5, fd.val), (0, 6, 32)]
  | .cvtDS fd fs => [(26, 6, 17), (21, 5, 16), (11, 5, fs.val), (6, 5, fd.val), (0, 6, 33)]
  | .cvtDW fd fs => [(26, 6, 17), (21, 5, 20), (11, 5, fs.val), (6, 5, fd.val), (0, 6, 33)]
  | .cvtDL fd fs => [(26, 6, 17), (21, 5, 21), (11, 5, fs.val), (6, 5, fd.val), (0, 6, 33)]
  | .cvtWS fd fs => [(26, 6, 17), (21, 5, 16), (11, 5, fs.val), (6, 5, fd.val), (0, 6, 36)]
  | .cvtWD fd fs => [(26, 6, 17), (21, 5, 17), (11, 5, fs.val), (6, 5, fd.val), (0, 6, 36)]
  | .cvtLS fd fs => [(26, 6, 17), (21, 5, 16), (11, 5, fs.val), (6, 5, fd.val), (0, 6, 37)]
  | .cvtLD fd fs => [(26, 6, 17), (21, 5, 17), (11, 5, fs.val), (6, 5, fd.val), (0, 6, 37)]
  | .cFS fs ft => [(26, 6, 17), (21, 5, 16), (16, 5, ft.val), (11, 5, fs.val), (0, 6, 48)]
  | .cFD fs ft => [(26, 6, 17), (21, 5, 17), (16, 5, ft.val), (11, 5, fs.val), (0, 6, 48)]
  | .cUnS fs ft => [(26, 6, 17), (21, 5, 16), (16, 5, ft.val), (11, 5, fs.val), (0, 6, 49)]
  | .cUnD fs ft => [(26, 6, 17), (21, 5, 17), (16, 5, ft.val), (11, 5, fs.val), (0, 6, 49)]
  | .cEqS fs ft => [(26, 6, 17), (21, 5, 16), (16, 5, ft.val), (11, 5, fs.val), (0, 6, 50)]
  | .cEqD fs ft => [(26, 6, 17), (21, 5, 17), (16, 5, ft.val), (11, 5, fs.val), (0, 6, 50)]
  | .cUeqS fs ft => [(26, 6, 17), (21, 5, 16), (16, 5, ft.val), (11, 5, fs.val), (0, 6, 51)]
  | .cUeqD fs ft => [(26, 6, 17), (21, 5, 17), (16, 5, ft.val), (11, 5, fs.val), (0, 6, 51)]
  | .cOltS fs ft => [(26, 6, 17), (21, 5, 16), (16, 5, ft.val), (11, 5, fs.val), (0, 6, 52)]
  | .cOltD fs ft => [(26, 6, 17), (21, 5, 17), (16, 5, ft.val), (11, 5, fs.val), (0, 6, 52)]
  | .cUltS fs ft => [(26, 6, 17), (21, 5, 16), (16, 5, ft.val), (11, 5, fs.val), (0, 6, 53)]
  | .cUltD fs ft => [(26, 6, 17), (21, 5, 17), (16, 5, ft.val), (11, 5, fs.val), (0, 6, 53)]
  | .cOleS fs ft => [(26, 6, 17), (21, 5, 16), (16, 5, ft.val), (11, 5, fs.val), (0, 6, 54)]
  | .cOleD fs ft => [(26, 6, 17), (21, 5, 17), (16, 5, ft.val), (11, 5, fs.val), (0, 6, 54)]
  | .cUleS fs ft => [(26, 6, 17), (21, 5, 16), (16, 5, ft.val), (11, 5, fs.val), (0, 6, 55)]
  | .cUleD fs ft => [(26, 6, 17), (21, 5, 17), (16, 5, ft.val), (11, 5, fs.val), (0, 6, 55)]
  | .cSfS fs ft => [(26, 6, 17), (21, 5, 16), (16, 5, ft.val), (11, 5, fs.val), (0, 6, 56)]
  | .cSfD fs ft => [(26, 6, 17), (21, 5, 17), (16, 5, ft.val), (11, 5, fs.val), (0, 6, 56)]
  | .cNgleS fs ft => [(26, 6, 17), (21, 5, 16), (16, 5, ft.val), (11, 5, fs.val), (0, 6, 57)]
  | .cNgleD fs ft => [(26, 6, 17), (21, 5, 17), (16, 5, ft.val), (11, 5, fs.val), (0, 6, 57)]
  | .cSeqS fs ft => [(26, 6, 17), (21, 5, 16), (16, 5, ft.val), (11, 5, fs.val), (0, 6, 58)]
  | .cSeqD fs ft => [(26, 6, 17), (21, 5, 17), (16, 5, ft.val), (11, 5, fs.val), (0, 6, 58)]
  | .cNglS fs ft => [(26, 6, 17), (21, 5, 16), (16, 5, ft.val), (11, 5, fs.val), (0, 6, 59)]
  | .cNglD fs ft => [(26, 6, 17), (21, 5, 17), (16, 5, ft.val), (11, 5, fs.val), (0, 6, 59)]
  | .cLtS fs ft => [(26, 6, 17), (21, 5, 16), (16, 5, ft.val), (11, 5, fs.val), (0, 6, 60)]
  | .cLtD fs ft => [(26, 6, 17), (21, 5, 17), (16, 5, ft.val), (11, 5, fs.val), (0, 6, 60)]
  | .cNgeS fs ft => [(26, 6, 17), (21, 5, 16), (16, 5, ft.val), (11, 5, fs.val), (0, 6, 61)]
  | .cNgeD fs ft => [(26, 6, 17), (21, 5, 17), (16, 5, ft.val), (11, 5, fs.val), (0, 6, 61)]
  | .cLeS fs ft => [(26, 6, 17), (21, 5, 16), (16, 5, ft.val), (11, 5, fs.val), (0, 6, 62)]
  | .cLeD fs ft => [(26, 6, 17), (21, 5, 17), (16, 5, ft.val), (11, 5, fs.val), (0, 6, 62)]
  | .cNgtS fs ft => [(26, 6, 17), (21, 5, 16), (16, 5, ft.val), (11, 5, fs.val), (0, 6, 63)]
  | .cNgtD fs ft => [(26, 6, 17), (21, 5, 17), (16, 5, ft.val), (11, 5, fs.val), (0, 6, 63)]
  | .cop2 => [(26, 6, 18)]
  | .lwc2 rt base offset => [(26, 6, 50), (21, 5, base.val), (16, 5, rt.val), (0, 16, offset.toNat)]
  | .ldc2 rt base offset => [(26, 6, 54), (21, 5, base.val), (16, 5, rt.val), (0, 16, offset.toNat)]
  | .swc2 rt base offset => [(26, 6, 58), (21, 5, base.val), (16, 5, rt.val), (0, 16, offset.toNat)]
  | .sdc2 rt base offset => [(26, 6, 62), (21, 5, base.val), (16, 5, rt.val), (0, 16, offset.toNat)]

/-- The word holds every field of its row. -/
def Statement (i : Instr) : Prop :=
  i.wf = true → ∀ f ∈ tableFields i, field (encode i) f.1 f.2.1 = f.2.2

/-- The low 16 bits as a field. -/
theorem low16 {w : Word} {v : Nat} (h : w.toNat % 65536 = v) : field w 0 16 = v := by simpa [field] using h

/-- The low 26 bits as a field. -/
theorem low26 {w : Word} {v : Nat} (h : w.toNat % 67108864 = v) : field w 0 26 = v := by simpa [field] using h

theorem all1 {P : Nat × Nat × Nat → Prop} {a1 : Nat × Nat × Nat}
    (h1 : P a1) : ∀ f ∈ [a1], P f := by
  simp [h1]

theorem all2 {P : Nat × Nat × Nat → Prop} {a1 a2 : Nat × Nat × Nat}
    (h1 : P a1) (h2 : P a2) : ∀ f ∈ [a1, a2], P f := by
  simp [h1, h2]

theorem all3 {P : Nat × Nat × Nat → Prop} {a1 a2 a3 : Nat × Nat × Nat}
    (h1 : P a1) (h2 : P a2) (h3 : P a3) : ∀ f ∈ [a1, a2, a3], P f := by
  simp [h1, h2, h3]

theorem all4 {P : Nat × Nat × Nat → Prop} {a1 a2 a3 a4 : Nat × Nat × Nat}
    (h1 : P a1) (h2 : P a2) (h3 : P a3) (h4 : P a4) : ∀ f ∈ [a1, a2, a3, a4], P f := by
  simp [h1, h2, h3, h4]

theorem all5 {P : Nat × Nat × Nat → Prop} {a1 a2 a3 a4 a5 : Nat × Nat × Nat}
    (h1 : P a1) (h2 : P a2) (h3 : P a3) (h4 : P a4) (h5 : P a5) : ∀ f ∈ [a1, a2, a3, a4, a5], P f := by
  simp [h1, h2, h3, h4, h5]

theorem all6 {P : Nat × Nat × Nat → Prop} {a1 a2 a3 a4 a5 a6 : Nat × Nat × Nat}
    (h1 : P a1) (h2 : P a2) (h3 : P a3) (h4 : P a4) (h5 : P a5) (h6 : P a6) : ∀ f ∈ [a1, a2, a3, a4, a5, a6], P f := by
  simp [h1, h2, h3, h4, h5, h6]

theorem add (rd : RegIdx) (rs : RegIdx) (rt : RegIdx) : Statement (.add rd rs rt) := by
  intro _
  have h := fields_rWord (op := 0) (rs := rs.val) (rt := rt.val) (rd := rd.val) (sa := 0) (funct := 32) (by decide) rs.isLt rt.isLt rd.isLt (by decide) (by decide)
  exact all5 (h.1) (h.2.1) (h.2.2.1) (h.2.2.2.1) (h.2.2.2.2.2.1)
theorem addu (rd : RegIdx) (rs : RegIdx) (rt : RegIdx) : Statement (.addu rd rs rt) := by
  intro _
  have h := fields_rWord (op := 0) (rs := rs.val) (rt := rt.val) (rd := rd.val) (sa := 0) (funct := 33) (by decide) rs.isLt rt.isLt rd.isLt (by decide) (by decide)
  exact all5 (h.1) (h.2.1) (h.2.2.1) (h.2.2.2.1) (h.2.2.2.2.2.1)
theorem sub (rd : RegIdx) (rs : RegIdx) (rt : RegIdx) : Statement (.sub rd rs rt) := by
  intro _
  have h := fields_rWord (op := 0) (rs := rs.val) (rt := rt.val) (rd := rd.val) (sa := 0) (funct := 34) (by decide) rs.isLt rt.isLt rd.isLt (by decide) (by decide)
  exact all5 (h.1) (h.2.1) (h.2.2.1) (h.2.2.2.1) (h.2.2.2.2.2.1)
theorem subu (rd : RegIdx) (rs : RegIdx) (rt : RegIdx) : Statement (.subu rd rs rt) := by
  intro _
  have h := fields_rWord (op := 0) (rs := rs.val) (rt := rt.val) (rd := rd.val) (sa := 0) (funct := 35) (by decide) rs.isLt rt.isLt rd.isLt (by decide) (by decide)
  exact all5 (h.1) (h.2.1) (h.2.2.1) (h.2.2.2.1) (h.2.2.2.2.2.1)
theorem addi (rt : RegIdx) (rs : RegIdx) (imm : Half) : Statement (.addi rt rs imm) := by
  intro _
  have h := fields_iWord (op := 8) (rs := rs.val) (rt := rt.val) (imm := imm.toNat) (by decide) rs.isLt rt.isLt imm.isLt
  exact all4 (h.1) (h.2.1) (h.2.2.1) (low16 h.2.2.2.2)
theorem addiu (rt : RegIdx) (rs : RegIdx) (imm : Half) : Statement (.addiu rt rs imm) := by
  intro _
  have h := fields_iWord (op := 9) (rs := rs.val) (rt := rt.val) (imm := imm.toNat) (by decide) rs.isLt rt.isLt imm.isLt
  exact all4 (h.1) (h.2.1) (h.2.2.1) (low16 h.2.2.2.2)
theorem dadd (rd : RegIdx) (rs : RegIdx) (rt : RegIdx) : Statement (.dadd rd rs rt) := by
  intro _
  have h := fields_rWord (op := 0) (rs := rs.val) (rt := rt.val) (rd := rd.val) (sa := 0) (funct := 44) (by decide) rs.isLt rt.isLt rd.isLt (by decide) (by decide)
  exact all5 (h.1) (h.2.1) (h.2.2.1) (h.2.2.2.1) (h.2.2.2.2.2.1)
theorem daddu (rd : RegIdx) (rs : RegIdx) (rt : RegIdx) : Statement (.daddu rd rs rt) := by
  intro _
  have h := fields_rWord (op := 0) (rs := rs.val) (rt := rt.val) (rd := rd.val) (sa := 0) (funct := 45) (by decide) rs.isLt rt.isLt rd.isLt (by decide) (by decide)
  exact all5 (h.1) (h.2.1) (h.2.2.1) (h.2.2.2.1) (h.2.2.2.2.2.1)
theorem dsub (rd : RegIdx) (rs : RegIdx) (rt : RegIdx) : Statement (.dsub rd rs rt) := by
  intro _
  have h := fields_rWord (op := 0) (rs := rs.val) (rt := rt.val) (rd := rd.val) (sa := 0) (funct := 46) (by decide) rs.isLt rt.isLt rd.isLt (by decide) (by decide)
  exact all5 (h.1) (h.2.1) (h.2.2.1) (h.2.2.2.1) (h.2.2.2.2.2.1)
theorem dsubu (rd : RegIdx) (rs : RegIdx) (rt : RegIdx) : Statement (.dsubu rd rs rt) := by
  intro _
  have h := fields_rWord (op := 0) (rs := rs.val) (rt := rt.val) (rd := rd.val) (sa := 0) (funct := 47) (by decide) rs.isLt rt.isLt rd.isLt (by decide) (by decide)
  exact all5 (h.1) (h.2.1) (h.2.2.1) (h.2.2.2.1) (h.2.2.2.2.2.1)
theorem daddi (rt : RegIdx) (rs : RegIdx) (imm : Half) : Statement (.daddi rt rs imm) := by
  intro _
  have h := fields_iWord (op := 24) (rs := rs.val) (rt := rt.val) (imm := imm.toNat) (by decide) rs.isLt rt.isLt imm.isLt
  exact all4 (h.1) (h.2.1) (h.2.2.1) (low16 h.2.2.2.2)
theorem daddiu (rt : RegIdx) (rs : RegIdx) (imm : Half) : Statement (.daddiu rt rs imm) := by
  intro _
  have h := fields_iWord (op := 25) (rs := rs.val) (rt := rt.val) (imm := imm.toNat) (by decide) rs.isLt rt.isLt imm.isLt
  exact all4 (h.1) (h.2.1) (h.2.2.1) (low16 h.2.2.2.2)
theorem and (rd : RegIdx) (rs : RegIdx) (rt : RegIdx) : Statement (.and rd rs rt) := by
  intro _
  have h := fields_rWord (op := 0) (rs := rs.val) (rt := rt.val) (rd := rd.val) (sa := 0) (funct := 36) (by decide) rs.isLt rt.isLt rd.isLt (by decide) (by decide)
  exact all5 (h.1) (h.2.1) (h.2.2.1) (h.2.2.2.1) (h.2.2.2.2.2.1)
theorem or (rd : RegIdx) (rs : RegIdx) (rt : RegIdx) : Statement (.or rd rs rt) := by
  intro _
  have h := fields_rWord (op := 0) (rs := rs.val) (rt := rt.val) (rd := rd.val) (sa := 0) (funct := 37) (by decide) rs.isLt rt.isLt rd.isLt (by decide) (by decide)
  exact all5 (h.1) (h.2.1) (h.2.2.1) (h.2.2.2.1) (h.2.2.2.2.2.1)
theorem xor (rd : RegIdx) (rs : RegIdx) (rt : RegIdx) : Statement (.xor rd rs rt) := by
  intro _
  have h := fields_rWord (op := 0) (rs := rs.val) (rt := rt.val) (rd := rd.val) (sa := 0) (funct := 38) (by decide) rs.isLt rt.isLt rd.isLt (by decide) (by decide)
  exact all5 (h.1) (h.2.1) (h.2.2.1) (h.2.2.2.1) (h.2.2.2.2.2.1)
theorem nor (rd : RegIdx) (rs : RegIdx) (rt : RegIdx) : Statement (.nor rd rs rt) := by
  intro _
  have h := fields_rWord (op := 0) (rs := rs.val) (rt := rt.val) (rd := rd.val) (sa := 0) (funct := 39) (by decide) rs.isLt rt.isLt rd.isLt (by decide) (by decide)
  exact all5 (h.1) (h.2.1) (h.2.2.1) (h.2.2.2.1) (h.2.2.2.2.2.1)
theorem andi (rt : RegIdx) (rs : RegIdx) (imm : Half) : Statement (.andi rt rs imm) := by
  intro _
  have h := fields_iWord (op := 12) (rs := rs.val) (rt := rt.val) (imm := imm.toNat) (by decide) rs.isLt rt.isLt imm.isLt
  exact all4 (h.1) (h.2.1) (h.2.2.1) (low16 h.2.2.2.2)
theorem ori (rt : RegIdx) (rs : RegIdx) (imm : Half) : Statement (.ori rt rs imm) := by
  intro _
  have h := fields_iWord (op := 13) (rs := rs.val) (rt := rt.val) (imm := imm.toNat) (by decide) rs.isLt rt.isLt imm.isLt
  exact all4 (h.1) (h.2.1) (h.2.2.1) (low16 h.2.2.2.2)
theorem xori (rt : RegIdx) (rs : RegIdx) (imm : Half) : Statement (.xori rt rs imm) := by
  intro _
  have h := fields_iWord (op := 14) (rs := rs.val) (rt := rt.val) (imm := imm.toNat) (by decide) rs.isLt rt.isLt imm.isLt
  exact all4 (h.1) (h.2.1) (h.2.2.1) (low16 h.2.2.2.2)
theorem lui (rt : RegIdx) (imm : Half) : Statement (.lui rt imm) := by
  intro _
  have h := fields_iWord (op := 15) (rs := 0) (rt := rt.val) (imm := imm.toNat) (by decide) (by decide) rt.isLt imm.isLt
  exact all3 (h.1) (h.2.2.1) (low16 h.2.2.2.2)
theorem slt (rd : RegIdx) (rs : RegIdx) (rt : RegIdx) : Statement (.slt rd rs rt) := by
  intro _
  have h := fields_rWord (op := 0) (rs := rs.val) (rt := rt.val) (rd := rd.val) (sa := 0) (funct := 42) (by decide) rs.isLt rt.isLt rd.isLt (by decide) (by decide)
  exact all5 (h.1) (h.2.1) (h.2.2.1) (h.2.2.2.1) (h.2.2.2.2.2.1)
theorem sltu (rd : RegIdx) (rs : RegIdx) (rt : RegIdx) : Statement (.sltu rd rs rt) := by
  intro _
  have h := fields_rWord (op := 0) (rs := rs.val) (rt := rt.val) (rd := rd.val) (sa := 0) (funct := 43) (by decide) rs.isLt rt.isLt rd.isLt (by decide) (by decide)
  exact all5 (h.1) (h.2.1) (h.2.2.1) (h.2.2.2.1) (h.2.2.2.2.2.1)
theorem slti (rt : RegIdx) (rs : RegIdx) (imm : Half) : Statement (.slti rt rs imm) := by
  intro _
  have h := fields_iWord (op := 10) (rs := rs.val) (rt := rt.val) (imm := imm.toNat) (by decide) rs.isLt rt.isLt imm.isLt
  exact all4 (h.1) (h.2.1) (h.2.2.1) (low16 h.2.2.2.2)
theorem sltiu (rt : RegIdx) (rs : RegIdx) (imm : Half) : Statement (.sltiu rt rs imm) := by
  intro _
  have h := fields_iWord (op := 11) (rs := rs.val) (rt := rt.val) (imm := imm.toNat) (by decide) rs.isLt rt.isLt imm.isLt
  exact all4 (h.1) (h.2.1) (h.2.2.1) (low16 h.2.2.2.2)
theorem sll (rd : RegIdx) (rt : RegIdx) (sa : Nat) : Statement (.sll rd rt sa) := by
  intro hw
  have hs : sa < 32 := of_decide_eq_true hw
  have h := fields_rWord (op := 0) (rs := 0) (rt := rt.val) (rd := rd.val) (sa := sa) (funct := 0) (by decide) (by decide) rt.isLt rd.isLt hs (by decide)
  exact all5 (h.1) (h.2.2.1) (h.2.2.2.1) (h.2.2.2.2.1) (h.2.2.2.2.2.1)
theorem srl (rd : RegIdx) (rt : RegIdx) (sa : Nat) : Statement (.srl rd rt sa) := by
  intro hw
  have hs : sa < 32 := of_decide_eq_true hw
  have h := fields_rWord (op := 0) (rs := 0) (rt := rt.val) (rd := rd.val) (sa := sa) (funct := 2) (by decide) (by decide) rt.isLt rd.isLt hs (by decide)
  exact all5 (h.1) (h.2.2.1) (h.2.2.2.1) (h.2.2.2.2.1) (h.2.2.2.2.2.1)
theorem sra (rd : RegIdx) (rt : RegIdx) (sa : Nat) : Statement (.sra rd rt sa) := by
  intro hw
  have hs : sa < 32 := of_decide_eq_true hw
  have h := fields_rWord (op := 0) (rs := 0) (rt := rt.val) (rd := rd.val) (sa := sa) (funct := 3) (by decide) (by decide) rt.isLt rd.isLt hs (by decide)
  exact all5 (h.1) (h.2.2.1) (h.2.2.2.1) (h.2.2.2.2.1) (h.2.2.2.2.2.1)
theorem sllv (rd : RegIdx) (rt : RegIdx) (rs : RegIdx) : Statement (.sllv rd rt rs) := by
  intro _
  have h := fields_rWord (op := 0) (rs := rs.val) (rt := rt.val) (rd := rd.val) (sa := 0) (funct := 4) (by decide) rs.isLt rt.isLt rd.isLt (by decide) (by decide)
  exact all5 (h.1) (h.2.1) (h.2.2.1) (h.2.2.2.1) (h.2.2.2.2.2.1)
theorem srlv (rd : RegIdx) (rt : RegIdx) (rs : RegIdx) : Statement (.srlv rd rt rs) := by
  intro _
  have h := fields_rWord (op := 0) (rs := rs.val) (rt := rt.val) (rd := rd.val) (sa := 0) (funct := 6) (by decide) rs.isLt rt.isLt rd.isLt (by decide) (by decide)
  exact all5 (h.1) (h.2.1) (h.2.2.1) (h.2.2.2.1) (h.2.2.2.2.2.1)
theorem srav (rd : RegIdx) (rt : RegIdx) (rs : RegIdx) : Statement (.srav rd rt rs) := by
  intro _
  have h := fields_rWord (op := 0) (rs := rs.val) (rt := rt.val) (rd := rd.val) (sa := 0) (funct := 7) (by decide) rs.isLt rt.isLt rd.isLt (by decide) (by decide)
  exact all5 (h.1) (h.2.1) (h.2.2.1) (h.2.2.2.1) (h.2.2.2.2.2.1)
theorem dsll (rd : RegIdx) (rt : RegIdx) (sa : Nat) : Statement (.dsll rd rt sa) := by
  intro hw
  have hs : sa < 32 := of_decide_eq_true hw
  have h := fields_rWord (op := 0) (rs := 0) (rt := rt.val) (rd := rd.val) (sa := sa) (funct := 56) (by decide) (by decide) rt.isLt rd.isLt hs (by decide)
  exact all5 (h.1) (h.2.2.1) (h.2.2.2.1) (h.2.2.2.2.1) (h.2.2.2.2.2.1)
theorem dsrl (rd : RegIdx) (rt : RegIdx) (sa : Nat) : Statement (.dsrl rd rt sa) := by
  intro hw
  have hs : sa < 32 := of_decide_eq_true hw
  have h := fields_rWord (op := 0) (rs := 0) (rt := rt.val) (rd := rd.val) (sa := sa) (funct := 58) (by decide) (by decide) rt.isLt rd.isLt hs (by decide)
  exact all5 (h.1) (h.2.2.1) (h.2.2.2.1) (h.2.2.2.2.1) (h.2.2.2.2.2.1)
theorem dsra (rd : RegIdx) (rt : RegIdx) (sa : Nat) : Statement (.dsra rd rt sa) := by
  intro hw
  have hs : sa < 32 := of_decide_eq_true hw
  have h := fields_rWord (op := 0) (rs := 0) (rt := rt.val) (rd := rd.val) (sa := sa) (funct := 59) (by decide) (by decide) rt.isLt rd.isLt hs (by decide)
  exact all5 (h.1) (h.2.2.1) (h.2.2.2.1) (h.2.2.2.2.1) (h.2.2.2.2.2.1)
theorem dsll32 (rd : RegIdx) (rt : RegIdx) (sa : Nat) : Statement (.dsll32 rd rt sa) := by
  intro hw
  have hs : sa < 32 := of_decide_eq_true hw
  have h := fields_rWord (op := 0) (rs := 0) (rt := rt.val) (rd := rd.val) (sa := sa) (funct := 60) (by decide) (by decide) rt.isLt rd.isLt hs (by decide)
  exact all5 (h.1) (h.2.2.1) (h.2.2.2.1) (h.2.2.2.2.1) (h.2.2.2.2.2.1)
theorem dsrl32 (rd : RegIdx) (rt : RegIdx) (sa : Nat) : Statement (.dsrl32 rd rt sa) := by
  intro hw
  have hs : sa < 32 := of_decide_eq_true hw
  have h := fields_rWord (op := 0) (rs := 0) (rt := rt.val) (rd := rd.val) (sa := sa) (funct := 62) (by decide) (by decide) rt.isLt rd.isLt hs (by decide)
  exact all5 (h.1) (h.2.2.1) (h.2.2.2.1) (h.2.2.2.2.1) (h.2.2.2.2.2.1)
theorem dsra32 (rd : RegIdx) (rt : RegIdx) (sa : Nat) : Statement (.dsra32 rd rt sa) := by
  intro hw
  have hs : sa < 32 := of_decide_eq_true hw
  have h := fields_rWord (op := 0) (rs := 0) (rt := rt.val) (rd := rd.val) (sa := sa) (funct := 63) (by decide) (by decide) rt.isLt rd.isLt hs (by decide)
  exact all5 (h.1) (h.2.2.1) (h.2.2.2.1) (h.2.2.2.2.1) (h.2.2.2.2.2.1)
theorem dsllv (rd : RegIdx) (rt : RegIdx) (rs : RegIdx) : Statement (.dsllv rd rt rs) := by
  intro _
  have h := fields_rWord (op := 0) (rs := rs.val) (rt := rt.val) (rd := rd.val) (sa := 0) (funct := 20) (by decide) rs.isLt rt.isLt rd.isLt (by decide) (by decide)
  exact all5 (h.1) (h.2.1) (h.2.2.1) (h.2.2.2.1) (h.2.2.2.2.2.1)
theorem dsrlv (rd : RegIdx) (rt : RegIdx) (rs : RegIdx) : Statement (.dsrlv rd rt rs) := by
  intro _
  have h := fields_rWord (op := 0) (rs := rs.val) (rt := rt.val) (rd := rd.val) (sa := 0) (funct := 22) (by decide) rs.isLt rt.isLt rd.isLt (by decide) (by decide)
  exact all5 (h.1) (h.2.1) (h.2.2.1) (h.2.2.2.1) (h.2.2.2.2.2.1)
theorem dsrav (rd : RegIdx) (rt : RegIdx) (rs : RegIdx) : Statement (.dsrav rd rt rs) := by
  intro _
  have h := fields_rWord (op := 0) (rs := rs.val) (rt := rt.val) (rd := rd.val) (sa := 0) (funct := 23) (by decide) rs.isLt rt.isLt rd.isLt (by decide) (by decide)
  exact all5 (h.1) (h.2.1) (h.2.2.1) (h.2.2.2.1) (h.2.2.2.2.2.1)
theorem mult (rs : RegIdx) (rt : RegIdx) : Statement (.mult rs rt) := by
  intro _
  have h := fields_rWord (op := 0) (rs := rs.val) (rt := rt.val) (rd := 0) (sa := 0) (funct := 24) (by decide) rs.isLt rt.isLt (by decide) (by decide) (by decide)
  exact all4 (h.1) (h.2.1) (h.2.2.1) (h.2.2.2.2.2.1)
theorem multu (rs : RegIdx) (rt : RegIdx) : Statement (.multu rs rt) := by
  intro _
  have h := fields_rWord (op := 0) (rs := rs.val) (rt := rt.val) (rd := 0) (sa := 0) (funct := 25) (by decide) rs.isLt rt.isLt (by decide) (by decide) (by decide)
  exact all4 (h.1) (h.2.1) (h.2.2.1) (h.2.2.2.2.2.1)
theorem div (rs : RegIdx) (rt : RegIdx) : Statement (.div rs rt) := by
  intro _
  have h := fields_rWord (op := 0) (rs := rs.val) (rt := rt.val) (rd := 0) (sa := 0) (funct := 26) (by decide) rs.isLt rt.isLt (by decide) (by decide) (by decide)
  exact all4 (h.1) (h.2.1) (h.2.2.1) (h.2.2.2.2.2.1)
theorem divu (rs : RegIdx) (rt : RegIdx) : Statement (.divu rs rt) := by
  intro _
  have h := fields_rWord (op := 0) (rs := rs.val) (rt := rt.val) (rd := 0) (sa := 0) (funct := 27) (by decide) rs.isLt rt.isLt (by decide) (by decide) (by decide)
  exact all4 (h.1) (h.2.1) (h.2.2.1) (h.2.2.2.2.2.1)
theorem dmult (rs : RegIdx) (rt : RegIdx) : Statement (.dmult rs rt) := by
  intro _
  have h := fields_rWord (op := 0) (rs := rs.val) (rt := rt.val) (rd := 0) (sa := 0) (funct := 28) (by decide) rs.isLt rt.isLt (by decide) (by decide) (by decide)
  exact all4 (h.1) (h.2.1) (h.2.2.1) (h.2.2.2.2.2.1)
theorem dmultu (rs : RegIdx) (rt : RegIdx) : Statement (.dmultu rs rt) := by
  intro _
  have h := fields_rWord (op := 0) (rs := rs.val) (rt := rt.val) (rd := 0) (sa := 0) (funct := 29) (by decide) rs.isLt rt.isLt (by decide) (by decide) (by decide)
  exact all4 (h.1) (h.2.1) (h.2.2.1) (h.2.2.2.2.2.1)
theorem ddiv (rs : RegIdx) (rt : RegIdx) : Statement (.ddiv rs rt) := by
  intro _
  have h := fields_rWord (op := 0) (rs := rs.val) (rt := rt.val) (rd := 0) (sa := 0) (funct := 30) (by decide) rs.isLt rt.isLt (by decide) (by decide) (by decide)
  exact all4 (h.1) (h.2.1) (h.2.2.1) (h.2.2.2.2.2.1)
theorem ddivu (rs : RegIdx) (rt : RegIdx) : Statement (.ddivu rs rt) := by
  intro _
  have h := fields_rWord (op := 0) (rs := rs.val) (rt := rt.val) (rd := 0) (sa := 0) (funct := 31) (by decide) rs.isLt rt.isLt (by decide) (by decide) (by decide)
  exact all4 (h.1) (h.2.1) (h.2.2.1) (h.2.2.2.2.2.1)
theorem mfhi (rd : RegIdx) : Statement (.mfhi rd) := by
  intro _
  have h := fields_rWord (op := 0) (rs := 0) (rt := 0) (rd := rd.val) (sa := 0) (funct := 16) (by decide) (by decide) (by decide) rd.isLt (by decide) (by decide)
  exact all3 (h.1) (h.2.2.2.1) (h.2.2.2.2.2.1)
theorem mthi (rs : RegIdx) : Statement (.mthi rs) := by
  intro _
  have h := fields_rWord (op := 0) (rs := rs.val) (rt := 0) (rd := 0) (sa := 0) (funct := 17) (by decide) rs.isLt (by decide) (by decide) (by decide) (by decide)
  exact all3 (h.1) (h.2.1) (h.2.2.2.2.2.1)
theorem mflo (rd : RegIdx) : Statement (.mflo rd) := by
  intro _
  have h := fields_rWord (op := 0) (rs := 0) (rt := 0) (rd := rd.val) (sa := 0) (funct := 18) (by decide) (by decide) (by decide) rd.isLt (by decide) (by decide)
  exact all3 (h.1) (h.2.2.2.1) (h.2.2.2.2.2.1)
theorem mtlo (rs : RegIdx) : Statement (.mtlo rs) := by
  intro _
  have h := fields_rWord (op := 0) (rs := rs.val) (rt := 0) (rd := 0) (sa := 0) (funct := 19) (by decide) rs.isLt (by decide) (by decide) (by decide) (by decide)
  exact all3 (h.1) (h.2.1) (h.2.2.2.2.2.1)
theorem j (target : BitVec 26) : Statement (.j target) := by
  intro _
  have h := fields_jWord (op := 2) (target := target.toNat) (by decide) target.isLt
  exact all2 (h.1) (low26 h.2)
theorem jal (target : BitVec 26) : Statement (.jal target) := by
  intro _
  have h := fields_jWord (op := 3) (target := target.toNat) (by decide) target.isLt
  exact all2 (h.1) (low26 h.2)
theorem jr (rs : RegIdx) : Statement (.jr rs) := by
  intro _
  have h := fields_rWord (op := 0) (rs := rs.val) (rt := 0) (rd := 0) (sa := 0) (funct := 8) (by decide) rs.isLt (by decide) (by decide) (by decide) (by decide)
  exact all3 (h.1) (h.2.1) (h.2.2.2.2.2.1)
theorem jalr (rd : RegIdx) (rs : RegIdx) : Statement (.jalr rd rs) := by
  intro _
  have h := fields_rWord (op := 0) (rs := rs.val) (rt := 0) (rd := rd.val) (sa := 0) (funct := 9) (by decide) rs.isLt (by decide) rd.isLt (by decide) (by decide)
  exact all4 (h.1) (h.2.1) (h.2.2.2.1) (h.2.2.2.2.2.1)
theorem beq (rs : RegIdx) (rt : RegIdx) (offset : Half) : Statement (.beq rs rt offset) := by
  intro _
  have h := fields_iWord (op := 4) (rs := rs.val) (rt := rt.val) (imm := offset.toNat) (by decide) rs.isLt rt.isLt offset.isLt
  exact all4 (h.1) (h.2.1) (h.2.2.1) (low16 h.2.2.2.2)
theorem bne (rs : RegIdx) (rt : RegIdx) (offset : Half) : Statement (.bne rs rt offset) := by
  intro _
  have h := fields_iWord (op := 5) (rs := rs.val) (rt := rt.val) (imm := offset.toNat) (by decide) rs.isLt rt.isLt offset.isLt
  exact all4 (h.1) (h.2.1) (h.2.2.1) (low16 h.2.2.2.2)
theorem blez (rs : RegIdx) (offset : Half) : Statement (.blez rs offset) := by
  intro _
  have h := fields_iWord (op := 6) (rs := rs.val) (rt := 0) (imm := offset.toNat) (by decide) rs.isLt (by decide) offset.isLt
  exact all3 (h.1) (h.2.1) (low16 h.2.2.2.2)
theorem bgtz (rs : RegIdx) (offset : Half) : Statement (.bgtz rs offset) := by
  intro _
  have h := fields_iWord (op := 7) (rs := rs.val) (rt := 0) (imm := offset.toNat) (by decide) rs.isLt (by decide) offset.isLt
  exact all3 (h.1) (h.2.1) (low16 h.2.2.2.2)
theorem bltz (rs : RegIdx) (offset : Half) : Statement (.bltz rs offset) := by
  intro _
  have h := fields_iWord (op := 1) (rs := rs.val) (rt := 0) (imm := offset.toNat) (by decide) rs.isLt (by decide) offset.isLt
  exact all4 (h.1) (h.2.1) (h.2.2.1) (low16 h.2.2.2.2)
theorem bgez (rs : RegIdx) (offset : Half) : Statement (.bgez rs offset) := by
  intro _
  have h := fields_iWord (op := 1) (rs := rs.val) (rt := 1) (imm := offset.toNat) (by decide) rs.isLt (by decide) offset.isLt
  exact all4 (h.1) (h.2.1) (h.2.2.1) (low16 h.2.2.2.2)
theorem bltzal (rs : RegIdx) (offset : Half) : Statement (.bltzal rs offset) := by
  intro _
  have h := fields_iWord (op := 1) (rs := rs.val) (rt := 16) (imm := offset.toNat) (by decide) rs.isLt (by decide) offset.isLt
  exact all4 (h.1) (h.2.1) (h.2.2.1) (low16 h.2.2.2.2)
theorem bgezal (rs : RegIdx) (offset : Half) : Statement (.bgezal rs offset) := by
  intro _
  have h := fields_iWord (op := 1) (rs := rs.val) (rt := 17) (imm := offset.toNat) (by decide) rs.isLt (by decide) offset.isLt
  exact all4 (h.1) (h.2.1) (h.2.2.1) (low16 h.2.2.2.2)
theorem beql (rs : RegIdx) (rt : RegIdx) (offset : Half) : Statement (.beql rs rt offset) := by
  intro _
  have h := fields_iWord (op := 20) (rs := rs.val) (rt := rt.val) (imm := offset.toNat) (by decide) rs.isLt rt.isLt offset.isLt
  exact all4 (h.1) (h.2.1) (h.2.2.1) (low16 h.2.2.2.2)
theorem bnel (rs : RegIdx) (rt : RegIdx) (offset : Half) : Statement (.bnel rs rt offset) := by
  intro _
  have h := fields_iWord (op := 21) (rs := rs.val) (rt := rt.val) (imm := offset.toNat) (by decide) rs.isLt rt.isLt offset.isLt
  exact all4 (h.1) (h.2.1) (h.2.2.1) (low16 h.2.2.2.2)
theorem blezl (rs : RegIdx) (offset : Half) : Statement (.blezl rs offset) := by
  intro _
  have h := fields_iWord (op := 22) (rs := rs.val) (rt := 0) (imm := offset.toNat) (by decide) rs.isLt (by decide) offset.isLt
  exact all3 (h.1) (h.2.1) (low16 h.2.2.2.2)
theorem bgtzl (rs : RegIdx) (offset : Half) : Statement (.bgtzl rs offset) := by
  intro _
  have h := fields_iWord (op := 23) (rs := rs.val) (rt := 0) (imm := offset.toNat) (by decide) rs.isLt (by decide) offset.isLt
  exact all3 (h.1) (h.2.1) (low16 h.2.2.2.2)
theorem bltzl (rs : RegIdx) (offset : Half) : Statement (.bltzl rs offset) := by
  intro _
  have h := fields_iWord (op := 1) (rs := rs.val) (rt := 2) (imm := offset.toNat) (by decide) rs.isLt (by decide) offset.isLt
  exact all4 (h.1) (h.2.1) (h.2.2.1) (low16 h.2.2.2.2)
theorem bgezl (rs : RegIdx) (offset : Half) : Statement (.bgezl rs offset) := by
  intro _
  have h := fields_iWord (op := 1) (rs := rs.val) (rt := 3) (imm := offset.toNat) (by decide) rs.isLt (by decide) offset.isLt
  exact all4 (h.1) (h.2.1) (h.2.2.1) (low16 h.2.2.2.2)
theorem bltzall (rs : RegIdx) (offset : Half) : Statement (.bltzall rs offset) := by
  intro _
  have h := fields_iWord (op := 1) (rs := rs.val) (rt := 18) (imm := offset.toNat) (by decide) rs.isLt (by decide) offset.isLt
  exact all4 (h.1) (h.2.1) (h.2.2.1) (low16 h.2.2.2.2)
theorem bgezall (rs : RegIdx) (offset : Half) : Statement (.bgezall rs offset) := by
  intro _
  have h := fields_iWord (op := 1) (rs := rs.val) (rt := 19) (imm := offset.toNat) (by decide) rs.isLt (by decide) offset.isLt
  exact all4 (h.1) (h.2.1) (h.2.2.1) (low16 h.2.2.2.2)
theorem lb (rt : RegIdx) (base : RegIdx) (offset : Half) : Statement (.lb rt base offset) := by
  intro _
  have h := fields_iWord (op := 32) (rs := base.val) (rt := rt.val) (imm := offset.toNat) (by decide) base.isLt rt.isLt offset.isLt
  exact all4 (h.1) (h.2.1) (h.2.2.1) (low16 h.2.2.2.2)
theorem lbu (rt : RegIdx) (base : RegIdx) (offset : Half) : Statement (.lbu rt base offset) := by
  intro _
  have h := fields_iWord (op := 36) (rs := base.val) (rt := rt.val) (imm := offset.toNat) (by decide) base.isLt rt.isLt offset.isLt
  exact all4 (h.1) (h.2.1) (h.2.2.1) (low16 h.2.2.2.2)
theorem lh (rt : RegIdx) (base : RegIdx) (offset : Half) : Statement (.lh rt base offset) := by
  intro _
  have h := fields_iWord (op := 33) (rs := base.val) (rt := rt.val) (imm := offset.toNat) (by decide) base.isLt rt.isLt offset.isLt
  exact all4 (h.1) (h.2.1) (h.2.2.1) (low16 h.2.2.2.2)
theorem lhu (rt : RegIdx) (base : RegIdx) (offset : Half) : Statement (.lhu rt base offset) := by
  intro _
  have h := fields_iWord (op := 37) (rs := base.val) (rt := rt.val) (imm := offset.toNat) (by decide) base.isLt rt.isLt offset.isLt
  exact all4 (h.1) (h.2.1) (h.2.2.1) (low16 h.2.2.2.2)
theorem lw (rt : RegIdx) (base : RegIdx) (offset : Half) : Statement (.lw rt base offset) := by
  intro _
  have h := fields_iWord (op := 35) (rs := base.val) (rt := rt.val) (imm := offset.toNat) (by decide) base.isLt rt.isLt offset.isLt
  exact all4 (h.1) (h.2.1) (h.2.2.1) (low16 h.2.2.2.2)
theorem lwu (rt : RegIdx) (base : RegIdx) (offset : Half) : Statement (.lwu rt base offset) := by
  intro _
  have h := fields_iWord (op := 39) (rs := base.val) (rt := rt.val) (imm := offset.toNat) (by decide) base.isLt rt.isLt offset.isLt
  exact all4 (h.1) (h.2.1) (h.2.2.1) (low16 h.2.2.2.2)
theorem ld (rt : RegIdx) (base : RegIdx) (offset : Half) : Statement (.ld rt base offset) := by
  intro _
  have h := fields_iWord (op := 55) (rs := base.val) (rt := rt.val) (imm := offset.toNat) (by decide) base.isLt rt.isLt offset.isLt
  exact all4 (h.1) (h.2.1) (h.2.2.1) (low16 h.2.2.2.2)
theorem sb (rt : RegIdx) (base : RegIdx) (offset : Half) : Statement (.sb rt base offset) := by
  intro _
  have h := fields_iWord (op := 40) (rs := base.val) (rt := rt.val) (imm := offset.toNat) (by decide) base.isLt rt.isLt offset.isLt
  exact all4 (h.1) (h.2.1) (h.2.2.1) (low16 h.2.2.2.2)
theorem sh (rt : RegIdx) (base : RegIdx) (offset : Half) : Statement (.sh rt base offset) := by
  intro _
  have h := fields_iWord (op := 41) (rs := base.val) (rt := rt.val) (imm := offset.toNat) (by decide) base.isLt rt.isLt offset.isLt
  exact all4 (h.1) (h.2.1) (h.2.2.1) (low16 h.2.2.2.2)
theorem sw (rt : RegIdx) (base : RegIdx) (offset : Half) : Statement (.sw rt base offset) := by
  intro _
  have h := fields_iWord (op := 43) (rs := base.val) (rt := rt.val) (imm := offset.toNat) (by decide) base.isLt rt.isLt offset.isLt
  exact all4 (h.1) (h.2.1) (h.2.2.1) (low16 h.2.2.2.2)
theorem sd (rt : RegIdx) (base : RegIdx) (offset : Half) : Statement (.sd rt base offset) := by
  intro _
  have h := fields_iWord (op := 63) (rs := base.val) (rt := rt.val) (imm := offset.toNat) (by decide) base.isLt rt.isLt offset.isLt
  exact all4 (h.1) (h.2.1) (h.2.2.1) (low16 h.2.2.2.2)
theorem lwl (rt : RegIdx) (base : RegIdx) (offset : Half) : Statement (.lwl rt base offset) := by
  intro _
  have h := fields_iWord (op := 34) (rs := base.val) (rt := rt.val) (imm := offset.toNat) (by decide) base.isLt rt.isLt offset.isLt
  exact all4 (h.1) (h.2.1) (h.2.2.1) (low16 h.2.2.2.2)
theorem lwr (rt : RegIdx) (base : RegIdx) (offset : Half) : Statement (.lwr rt base offset) := by
  intro _
  have h := fields_iWord (op := 38) (rs := base.val) (rt := rt.val) (imm := offset.toNat) (by decide) base.isLt rt.isLt offset.isLt
  exact all4 (h.1) (h.2.1) (h.2.2.1) (low16 h.2.2.2.2)
theorem ldl (rt : RegIdx) (base : RegIdx) (offset : Half) : Statement (.ldl rt base offset) := by
  intro _
  have h := fields_iWord (op := 26) (rs := base.val) (rt := rt.val) (imm := offset.toNat) (by decide) base.isLt rt.isLt offset.isLt
  exact all4 (h.1) (h.2.1) (h.2.2.1) (low16 h.2.2.2.2)
theorem ldr (rt : RegIdx) (base : RegIdx) (offset : Half) : Statement (.ldr rt base offset) := by
  intro _
  have h := fields_iWord (op := 27) (rs := base.val) (rt := rt.val) (imm := offset.toNat) (by decide) base.isLt rt.isLt offset.isLt
  exact all4 (h.1) (h.2.1) (h.2.2.1) (low16 h.2.2.2.2)
theorem swl (rt : RegIdx) (base : RegIdx) (offset : Half) : Statement (.swl rt base offset) := by
  intro _
  have h := fields_iWord (op := 42) (rs := base.val) (rt := rt.val) (imm := offset.toNat) (by decide) base.isLt rt.isLt offset.isLt
  exact all4 (h.1) (h.2.1) (h.2.2.1) (low16 h.2.2.2.2)
theorem swr (rt : RegIdx) (base : RegIdx) (offset : Half) : Statement (.swr rt base offset) := by
  intro _
  have h := fields_iWord (op := 46) (rs := base.val) (rt := rt.val) (imm := offset.toNat) (by decide) base.isLt rt.isLt offset.isLt
  exact all4 (h.1) (h.2.1) (h.2.2.1) (low16 h.2.2.2.2)
theorem sdl (rt : RegIdx) (base : RegIdx) (offset : Half) : Statement (.sdl rt base offset) := by
  intro _
  have h := fields_iWord (op := 44) (rs := base.val) (rt := rt.val) (imm := offset.toNat) (by decide) base.isLt rt.isLt offset.isLt
  exact all4 (h.1) (h.2.1) (h.2.2.1) (low16 h.2.2.2.2)
theorem sdr (rt : RegIdx) (base : RegIdx) (offset : Half) : Statement (.sdr rt base offset) := by
  intro _
  have h := fields_iWord (op := 45) (rs := base.val) (rt := rt.val) (imm := offset.toNat) (by decide) base.isLt rt.isLt offset.isLt
  exact all4 (h.1) (h.2.1) (h.2.2.1) (low16 h.2.2.2.2)
theorem ll (rt : RegIdx) (base : RegIdx) (offset : Half) : Statement (.ll rt base offset) := by
  intro _
  have h := fields_iWord (op := 48) (rs := base.val) (rt := rt.val) (imm := offset.toNat) (by decide) base.isLt rt.isLt offset.isLt
  exact all4 (h.1) (h.2.1) (h.2.2.1) (low16 h.2.2.2.2)
theorem lld (rt : RegIdx) (base : RegIdx) (offset : Half) : Statement (.lld rt base offset) := by
  intro _
  have h := fields_iWord (op := 52) (rs := base.val) (rt := rt.val) (imm := offset.toNat) (by decide) base.isLt rt.isLt offset.isLt
  exact all4 (h.1) (h.2.1) (h.2.2.1) (low16 h.2.2.2.2)
theorem sc (rt : RegIdx) (base : RegIdx) (offset : Half) : Statement (.sc rt base offset) := by
  intro _
  have h := fields_iWord (op := 56) (rs := base.val) (rt := rt.val) (imm := offset.toNat) (by decide) base.isLt rt.isLt offset.isLt
  exact all4 (h.1) (h.2.1) (h.2.2.1) (low16 h.2.2.2.2)
theorem scd (rt : RegIdx) (base : RegIdx) (offset : Half) : Statement (.scd rt base offset) := by
  intro _
  have h := fields_iWord (op := 60) (rs := base.val) (rt := rt.val) (imm := offset.toNat) (by decide) base.isLt rt.isLt offset.isLt
  exact all4 (h.1) (h.2.1) (h.2.2.1) (low16 h.2.2.2.2)
theorem sync (stype : BitVec 5) : Statement (.sync stype) := by
  intro _
  have h := fields_rWord (op := 0) (rs := 0) (rt := 0) (rd := 0) (sa := stype.toNat) (funct := 15) (by decide) (by decide) (by decide) (by decide) stype.isLt (by decide)
  exact all3 (h.1) (h.2.2.2.2.1) (h.2.2.2.2.2.1)
theorem cache (op : BitVec 5) (base : RegIdx) (offset : Half) : Statement (.cache op base offset) := by
  intro _
  have h := fields_iWord (op := 47) (rs := base.val) (rt := op.toNat) (imm := offset.toNat) (by decide) base.isLt op.isLt offset.isLt
  exact all4 (h.1) (h.2.1) (h.2.2.1) (low16 h.2.2.2.2)
theorem syscall (code : BitVec 20) : Statement (.syscall code) := by
  intro _
  have h := fields_codeWord (code := code.toNat) (funct := 12) code.isLt (by decide)
  exact all3 (h.1) (h.2.2) (h.2.1)
theorem brk (code : BitVec 20) : Statement (.brk code) := by
  intro _
  have h := fields_codeWord (code := code.toNat) (funct := 13) code.isLt (by decide)
  exact all3 (h.1) (h.2.2) (h.2.1)
theorem tge (rs : RegIdx) (rt : RegIdx) (code : BitVec 10) : Statement (.tge rs rt code) := by
  intro _
  have h := fields_trapWord (rs := rs.val) (rt := rt.val) (code := code.toNat) (funct := 48) rs.isLt rt.isLt code.isLt (by decide)
  exact all5 (h.1) (h.2.1) (h.2.2.1) (h.2.2.2.1) (h.2.2.2.2)
theorem tgeu (rs : RegIdx) (rt : RegIdx) (code : BitVec 10) : Statement (.tgeu rs rt code) := by
  intro _
  have h := fields_trapWord (rs := rs.val) (rt := rt.val) (code := code.toNat) (funct := 49) rs.isLt rt.isLt code.isLt (by decide)
  exact all5 (h.1) (h.2.1) (h.2.2.1) (h.2.2.2.1) (h.2.2.2.2)
theorem tlt (rs : RegIdx) (rt : RegIdx) (code : BitVec 10) : Statement (.tlt rs rt code) := by
  intro _
  have h := fields_trapWord (rs := rs.val) (rt := rt.val) (code := code.toNat) (funct := 50) rs.isLt rt.isLt code.isLt (by decide)
  exact all5 (h.1) (h.2.1) (h.2.2.1) (h.2.2.2.1) (h.2.2.2.2)
theorem tltu (rs : RegIdx) (rt : RegIdx) (code : BitVec 10) : Statement (.tltu rs rt code) := by
  intro _
  have h := fields_trapWord (rs := rs.val) (rt := rt.val) (code := code.toNat) (funct := 51) rs.isLt rt.isLt code.isLt (by decide)
  exact all5 (h.1) (h.2.1) (h.2.2.1) (h.2.2.2.1) (h.2.2.2.2)
theorem teq (rs : RegIdx) (rt : RegIdx) (code : BitVec 10) : Statement (.teq rs rt code) := by
  intro _
  have h := fields_trapWord (rs := rs.val) (rt := rt.val) (code := code.toNat) (funct := 52) rs.isLt rt.isLt code.isLt (by decide)
  exact all5 (h.1) (h.2.1) (h.2.2.1) (h.2.2.2.1) (h.2.2.2.2)
theorem tne (rs : RegIdx) (rt : RegIdx) (code : BitVec 10) : Statement (.tne rs rt code) := by
  intro _
  have h := fields_trapWord (rs := rs.val) (rt := rt.val) (code := code.toNat) (funct := 54) rs.isLt rt.isLt code.isLt (by decide)
  exact all5 (h.1) (h.2.1) (h.2.2.1) (h.2.2.2.1) (h.2.2.2.2)
theorem tgei (rs : RegIdx) (imm : Half) : Statement (.tgei rs imm) := by
  intro _
  have h := fields_iWord (op := 1) (rs := rs.val) (rt := 8) (imm := imm.toNat) (by decide) rs.isLt (by decide) imm.isLt
  exact all4 (h.1) (h.2.1) (h.2.2.1) (low16 h.2.2.2.2)
theorem tgeiu (rs : RegIdx) (imm : Half) : Statement (.tgeiu rs imm) := by
  intro _
  have h := fields_iWord (op := 1) (rs := rs.val) (rt := 9) (imm := imm.toNat) (by decide) rs.isLt (by decide) imm.isLt
  exact all4 (h.1) (h.2.1) (h.2.2.1) (low16 h.2.2.2.2)
theorem tlti (rs : RegIdx) (imm : Half) : Statement (.tlti rs imm) := by
  intro _
  have h := fields_iWord (op := 1) (rs := rs.val) (rt := 10) (imm := imm.toNat) (by decide) rs.isLt (by decide) imm.isLt
  exact all4 (h.1) (h.2.1) (h.2.2.1) (low16 h.2.2.2.2)
theorem tltiu (rs : RegIdx) (imm : Half) : Statement (.tltiu rs imm) := by
  intro _
  have h := fields_iWord (op := 1) (rs := rs.val) (rt := 11) (imm := imm.toNat) (by decide) rs.isLt (by decide) imm.isLt
  exact all4 (h.1) (h.2.1) (h.2.2.1) (low16 h.2.2.2.2)
theorem teqi (rs : RegIdx) (imm : Half) : Statement (.teqi rs imm) := by
  intro _
  have h := fields_iWord (op := 1) (rs := rs.val) (rt := 12) (imm := imm.toNat) (by decide) rs.isLt (by decide) imm.isLt
  exact all4 (h.1) (h.2.1) (h.2.2.1) (low16 h.2.2.2.2)
theorem tnei (rs : RegIdx) (imm : Half) : Statement (.tnei rs imm) := by
  intro _
  have h := fields_iWord (op := 1) (rs := rs.val) (rt := 14) (imm := imm.toNat) (by decide) rs.isLt (by decide) imm.isLt
  exact all4 (h.1) (h.2.1) (h.2.2.1) (low16 h.2.2.2.2)
theorem mfc0 (rt : RegIdx) (rd : RegIdx) : Statement (.mfc0 rt rd) := by
  intro _
  have h := fields_rWord (op := 16) (rs := 0) (rt := rt.val) (rd := rd.val) (sa := 0) (funct := 0) (by decide) (by decide) rt.isLt rd.isLt (by decide) (by decide)
  exact all4 (h.1) (h.2.1) (h.2.2.1) (h.2.2.2.1)
theorem dmfc0 (rt : RegIdx) (rd : RegIdx) : Statement (.dmfc0 rt rd) := by
  intro _
  have h := fields_rWord (op := 16) (rs := 1) (rt := rt.val) (rd := rd.val) (sa := 0) (funct := 0) (by decide) (by decide) rt.isLt rd.isLt (by decide) (by decide)
  exact all4 (h.1) (h.2.1) (h.2.2.1) (h.2.2.2.1)
theorem mtc0 (rt : RegIdx) (rd : RegIdx) : Statement (.mtc0 rt rd) := by
  intro _
  have h := fields_rWord (op := 16) (rs := 4) (rt := rt.val) (rd := rd.val) (sa := 0) (funct := 0) (by decide) (by decide) rt.isLt rd.isLt (by decide) (by decide)
  exact all4 (h.1) (h.2.1) (h.2.2.1) (h.2.2.2.1)
theorem dmtc0 (rt : RegIdx) (rd : RegIdx) : Statement (.dmtc0 rt rd) := by
  intro _
  have h := fields_rWord (op := 16) (rs := 5) (rt := rt.val) (rd := rd.val) (sa := 0) (funct := 0) (by decide) (by decide) rt.isLt rd.isLt (by decide) (by decide)
  exact all4 (h.1) (h.2.1) (h.2.2.1) (h.2.2.2.1)
theorem tlbr : Statement .tlbr := by
  intro _
  have h := fields_rWord (op := 16) (rs := 16) (rt := 0) (rd := 0) (sa := 0) (funct := 1) (by decide) (by decide) (by decide) (by decide) (by decide) (by decide)
  exact all3 (h.1) (h.2.2.2.2.2.2) (h.2.2.2.2.2.1)
theorem tlbwi : Statement .tlbwi := by
  intro _
  have h := fields_rWord (op := 16) (rs := 16) (rt := 0) (rd := 0) (sa := 0) (funct := 2) (by decide) (by decide) (by decide) (by decide) (by decide) (by decide)
  exact all3 (h.1) (h.2.2.2.2.2.2) (h.2.2.2.2.2.1)
theorem tlbwr : Statement .tlbwr := by
  intro _
  have h := fields_rWord (op := 16) (rs := 16) (rt := 0) (rd := 0) (sa := 0) (funct := 6) (by decide) (by decide) (by decide) (by decide) (by decide) (by decide)
  exact all3 (h.1) (h.2.2.2.2.2.2) (h.2.2.2.2.2.1)
theorem tlbp : Statement .tlbp := by
  intro _
  have h := fields_rWord (op := 16) (rs := 16) (rt := 0) (rd := 0) (sa := 0) (funct := 8) (by decide) (by decide) (by decide) (by decide) (by decide) (by decide)
  exact all3 (h.1) (h.2.2.2.2.2.2) (h.2.2.2.2.2.1)
theorem eret : Statement .eret := by
  intro _
  have h := fields_rWord (op := 16) (rs := 16) (rt := 0) (rd := 0) (sa := 0) (funct := 24) (by decide) (by decide) (by decide) (by decide) (by decide) (by decide)
  exact all3 (h.1) (h.2.2.2.2.2.2) (h.2.2.2.2.2.1)
theorem lwc1 (ft : RegIdx) (base : RegIdx) (offset : Half) : Statement (.lwc1 ft base offset) := by
  intro _
  have h := fields_iWord (op := 49) (rs := base.val) (rt := ft.val) (imm := offset.toNat) (by decide) base.isLt ft.isLt offset.isLt
  exact all4 (h.1) (h.2.1) (h.2.2.1) (low16 h.2.2.2.2)
theorem ldc1 (ft : RegIdx) (base : RegIdx) (offset : Half) : Statement (.ldc1 ft base offset) := by
  intro _
  have h := fields_iWord (op := 53) (rs := base.val) (rt := ft.val) (imm := offset.toNat) (by decide) base.isLt ft.isLt offset.isLt
  exact all4 (h.1) (h.2.1) (h.2.2.1) (low16 h.2.2.2.2)
theorem swc1 (ft : RegIdx) (base : RegIdx) (offset : Half) : Statement (.swc1 ft base offset) := by
  intro _
  have h := fields_iWord (op := 57) (rs := base.val) (rt := ft.val) (imm := offset.toNat) (by decide) base.isLt ft.isLt offset.isLt
  exact all4 (h.1) (h.2.1) (h.2.2.1) (low16 h.2.2.2.2)
theorem sdc1 (ft : RegIdx) (base : RegIdx) (offset : Half) : Statement (.sdc1 ft base offset) := by
  intro _
  have h := fields_iWord (op := 61) (rs := base.val) (rt := ft.val) (imm := offset.toNat) (by decide) base.isLt ft.isLt offset.isLt
  exact all4 (h.1) (h.2.1) (h.2.2.1) (low16 h.2.2.2.2)
theorem mfc1 (rt : RegIdx) (fs : RegIdx) : Statement (.mfc1 rt fs) := by
  intro _
  have h := fields_rWord (op := 17) (rs := 0) (rt := rt.val) (rd := fs.val) (sa := 0) (funct := 0) (by decide) (by decide) rt.isLt fs.isLt (by decide) (by decide)
  exact all4 (h.1) (h.2.1) (h.2.2.1) (h.2.2.2.1)
theorem dmfc1 (rt : RegIdx) (fs : RegIdx) : Statement (.dmfc1 rt fs) := by
  intro _
  have h := fields_rWord (op := 17) (rs := 1) (rt := rt.val) (rd := fs.val) (sa := 0) (funct := 0) (by decide) (by decide) rt.isLt fs.isLt (by decide) (by decide)
  exact all4 (h.1) (h.2.1) (h.2.2.1) (h.2.2.2.1)
theorem cfc1 (rt : RegIdx) (fs : RegIdx) : Statement (.cfc1 rt fs) := by
  intro _
  have h := fields_rWord (op := 17) (rs := 2) (rt := rt.val) (rd := fs.val) (sa := 0) (funct := 0) (by decide) (by decide) rt.isLt fs.isLt (by decide) (by decide)
  exact all4 (h.1) (h.2.1) (h.2.2.1) (h.2.2.2.1)
theorem mtc1 (rt : RegIdx) (fs : RegIdx) : Statement (.mtc1 rt fs) := by
  intro _
  have h := fields_rWord (op := 17) (rs := 4) (rt := rt.val) (rd := fs.val) (sa := 0) (funct := 0) (by decide) (by decide) rt.isLt fs.isLt (by decide) (by decide)
  exact all4 (h.1) (h.2.1) (h.2.2.1) (h.2.2.2.1)
theorem dmtc1 (rt : RegIdx) (fs : RegIdx) : Statement (.dmtc1 rt fs) := by
  intro _
  have h := fields_rWord (op := 17) (rs := 5) (rt := rt.val) (rd := fs.val) (sa := 0) (funct := 0) (by decide) (by decide) rt.isLt fs.isLt (by decide) (by decide)
  exact all4 (h.1) (h.2.1) (h.2.2.1) (h.2.2.2.1)
theorem ctc1 (rt : RegIdx) (fs : RegIdx) : Statement (.ctc1 rt fs) := by
  intro _
  have h := fields_rWord (op := 17) (rs := 6) (rt := rt.val) (rd := fs.val) (sa := 0) (funct := 0) (by decide) (by decide) rt.isLt fs.isLt (by decide) (by decide)
  exact all4 (h.1) (h.2.1) (h.2.2.1) (h.2.2.2.1)
theorem bc1f (offset : Half) : Statement (.bc1f offset) := by
  intro _
  have h := fields_iWord (op := 17) (rs := 8) (rt := 0) (imm := offset.toNat) (by decide) (by decide) (by decide) offset.isLt
  exact all4 (h.1) (h.2.1) (h.2.2.2.1) (low16 h.2.2.2.2)
theorem bc1t (offset : Half) : Statement (.bc1t offset) := by
  intro _
  have h := fields_iWord (op := 17) (rs := 8) (rt := 1) (imm := offset.toNat) (by decide) (by decide) (by decide) offset.isLt
  exact all4 (h.1) (h.2.1) (h.2.2.2.1) (low16 h.2.2.2.2)
theorem bc1fl (offset : Half) : Statement (.bc1fl offset) := by
  intro _
  have h := fields_iWord (op := 17) (rs := 8) (rt := 2) (imm := offset.toNat) (by decide) (by decide) (by decide) offset.isLt
  exact all4 (h.1) (h.2.1) (h.2.2.2.1) (low16 h.2.2.2.2)
theorem bc1tl (offset : Half) : Statement (.bc1tl offset) := by
  intro _
  have h := fields_iWord (op := 17) (rs := 8) (rt := 3) (imm := offset.toNat) (by decide) (by decide) (by decide) offset.isLt
  exact all4 (h.1) (h.2.1) (h.2.2.2.1) (low16 h.2.2.2.2)
theorem addS (fd : RegIdx) (fs : RegIdx) (ft : RegIdx) : Statement (.addS fd fs ft) := by
  intro _
  have h := fields_rWord (op := 17) (rs := 16) (rt := ft.val) (rd := fs.val) (sa := fd.val) (funct := 0) (by decide) (by decide) ft.isLt fs.isLt fd.isLt (by decide)
  exact all6 (h.1) (h.2.1) (h.2.2.1) (h.2.2.2.1) (h.2.2.2.2.1) (h.2.2.2.2.2.1)
theorem addD (fd : RegIdx) (fs : RegIdx) (ft : RegIdx) : Statement (.addD fd fs ft) := by
  intro _
  have h := fields_rWord (op := 17) (rs := 17) (rt := ft.val) (rd := fs.val) (sa := fd.val) (funct := 0) (by decide) (by decide) ft.isLt fs.isLt fd.isLt (by decide)
  exact all6 (h.1) (h.2.1) (h.2.2.1) (h.2.2.2.1) (h.2.2.2.2.1) (h.2.2.2.2.2.1)
theorem subS (fd : RegIdx) (fs : RegIdx) (ft : RegIdx) : Statement (.subS fd fs ft) := by
  intro _
  have h := fields_rWord (op := 17) (rs := 16) (rt := ft.val) (rd := fs.val) (sa := fd.val) (funct := 1) (by decide) (by decide) ft.isLt fs.isLt fd.isLt (by decide)
  exact all6 (h.1) (h.2.1) (h.2.2.1) (h.2.2.2.1) (h.2.2.2.2.1) (h.2.2.2.2.2.1)
theorem subD (fd : RegIdx) (fs : RegIdx) (ft : RegIdx) : Statement (.subD fd fs ft) := by
  intro _
  have h := fields_rWord (op := 17) (rs := 17) (rt := ft.val) (rd := fs.val) (sa := fd.val) (funct := 1) (by decide) (by decide) ft.isLt fs.isLt fd.isLt (by decide)
  exact all6 (h.1) (h.2.1) (h.2.2.1) (h.2.2.2.1) (h.2.2.2.2.1) (h.2.2.2.2.2.1)
theorem mulS (fd : RegIdx) (fs : RegIdx) (ft : RegIdx) : Statement (.mulS fd fs ft) := by
  intro _
  have h := fields_rWord (op := 17) (rs := 16) (rt := ft.val) (rd := fs.val) (sa := fd.val) (funct := 2) (by decide) (by decide) ft.isLt fs.isLt fd.isLt (by decide)
  exact all6 (h.1) (h.2.1) (h.2.2.1) (h.2.2.2.1) (h.2.2.2.2.1) (h.2.2.2.2.2.1)
theorem mulD (fd : RegIdx) (fs : RegIdx) (ft : RegIdx) : Statement (.mulD fd fs ft) := by
  intro _
  have h := fields_rWord (op := 17) (rs := 17) (rt := ft.val) (rd := fs.val) (sa := fd.val) (funct := 2) (by decide) (by decide) ft.isLt fs.isLt fd.isLt (by decide)
  exact all6 (h.1) (h.2.1) (h.2.2.1) (h.2.2.2.1) (h.2.2.2.2.1) (h.2.2.2.2.2.1)
theorem divS (fd : RegIdx) (fs : RegIdx) (ft : RegIdx) : Statement (.divS fd fs ft) := by
  intro _
  have h := fields_rWord (op := 17) (rs := 16) (rt := ft.val) (rd := fs.val) (sa := fd.val) (funct := 3) (by decide) (by decide) ft.isLt fs.isLt fd.isLt (by decide)
  exact all6 (h.1) (h.2.1) (h.2.2.1) (h.2.2.2.1) (h.2.2.2.2.1) (h.2.2.2.2.2.1)
theorem divD (fd : RegIdx) (fs : RegIdx) (ft : RegIdx) : Statement (.divD fd fs ft) := by
  intro _
  have h := fields_rWord (op := 17) (rs := 17) (rt := ft.val) (rd := fs.val) (sa := fd.val) (funct := 3) (by decide) (by decide) ft.isLt fs.isLt fd.isLt (by decide)
  exact all6 (h.1) (h.2.1) (h.2.2.1) (h.2.2.2.1) (h.2.2.2.2.1) (h.2.2.2.2.2.1)
theorem sqrtS (fd : RegIdx) (fs : RegIdx) : Statement (.sqrtS fd fs) := by
  intro _
  have h := fields_rWord (op := 17) (rs := 16) (rt := 0) (rd := fs.val) (sa := fd.val) (funct := 4) (by decide) (by decide) (by decide) fs.isLt fd.isLt (by decide)
  exact all5 (h.1) (h.2.1) (h.2.2.2.1) (h.2.2.2.2.1) (h.2.2.2.2.2.1)
theorem sqrtD (fd : RegIdx) (fs : RegIdx) : Statement (.sqrtD fd fs) := by
  intro _
  have h := fields_rWord (op := 17) (rs := 17) (rt := 0) (rd := fs.val) (sa := fd.val) (funct := 4) (by decide) (by decide) (by decide) fs.isLt fd.isLt (by decide)
  exact all5 (h.1) (h.2.1) (h.2.2.2.1) (h.2.2.2.2.1) (h.2.2.2.2.2.1)
theorem absS (fd : RegIdx) (fs : RegIdx) : Statement (.absS fd fs) := by
  intro _
  have h := fields_rWord (op := 17) (rs := 16) (rt := 0) (rd := fs.val) (sa := fd.val) (funct := 5) (by decide) (by decide) (by decide) fs.isLt fd.isLt (by decide)
  exact all5 (h.1) (h.2.1) (h.2.2.2.1) (h.2.2.2.2.1) (h.2.2.2.2.2.1)
theorem absD (fd : RegIdx) (fs : RegIdx) : Statement (.absD fd fs) := by
  intro _
  have h := fields_rWord (op := 17) (rs := 17) (rt := 0) (rd := fs.val) (sa := fd.val) (funct := 5) (by decide) (by decide) (by decide) fs.isLt fd.isLt (by decide)
  exact all5 (h.1) (h.2.1) (h.2.2.2.1) (h.2.2.2.2.1) (h.2.2.2.2.2.1)
theorem movS (fd : RegIdx) (fs : RegIdx) : Statement (.movS fd fs) := by
  intro _
  have h := fields_rWord (op := 17) (rs := 16) (rt := 0) (rd := fs.val) (sa := fd.val) (funct := 6) (by decide) (by decide) (by decide) fs.isLt fd.isLt (by decide)
  exact all5 (h.1) (h.2.1) (h.2.2.2.1) (h.2.2.2.2.1) (h.2.2.2.2.2.1)
theorem movD (fd : RegIdx) (fs : RegIdx) : Statement (.movD fd fs) := by
  intro _
  have h := fields_rWord (op := 17) (rs := 17) (rt := 0) (rd := fs.val) (sa := fd.val) (funct := 6) (by decide) (by decide) (by decide) fs.isLt fd.isLt (by decide)
  exact all5 (h.1) (h.2.1) (h.2.2.2.1) (h.2.2.2.2.1) (h.2.2.2.2.2.1)
theorem negS (fd : RegIdx) (fs : RegIdx) : Statement (.negS fd fs) := by
  intro _
  have h := fields_rWord (op := 17) (rs := 16) (rt := 0) (rd := fs.val) (sa := fd.val) (funct := 7) (by decide) (by decide) (by decide) fs.isLt fd.isLt (by decide)
  exact all5 (h.1) (h.2.1) (h.2.2.2.1) (h.2.2.2.2.1) (h.2.2.2.2.2.1)
theorem negD (fd : RegIdx) (fs : RegIdx) : Statement (.negD fd fs) := by
  intro _
  have h := fields_rWord (op := 17) (rs := 17) (rt := 0) (rd := fs.val) (sa := fd.val) (funct := 7) (by decide) (by decide) (by decide) fs.isLt fd.isLt (by decide)
  exact all5 (h.1) (h.2.1) (h.2.2.2.1) (h.2.2.2.2.1) (h.2.2.2.2.2.1)
theorem roundLS (fd : RegIdx) (fs : RegIdx) : Statement (.roundLS fd fs) := by
  intro _
  have h := fields_rWord (op := 17) (rs := 16) (rt := 0) (rd := fs.val) (sa := fd.val) (funct := 8) (by decide) (by decide) (by decide) fs.isLt fd.isLt (by decide)
  exact all5 (h.1) (h.2.1) (h.2.2.2.1) (h.2.2.2.2.1) (h.2.2.2.2.2.1)
theorem roundLD (fd : RegIdx) (fs : RegIdx) : Statement (.roundLD fd fs) := by
  intro _
  have h := fields_rWord (op := 17) (rs := 17) (rt := 0) (rd := fs.val) (sa := fd.val) (funct := 8) (by decide) (by decide) (by decide) fs.isLt fd.isLt (by decide)
  exact all5 (h.1) (h.2.1) (h.2.2.2.1) (h.2.2.2.2.1) (h.2.2.2.2.2.1)
theorem truncLS (fd : RegIdx) (fs : RegIdx) : Statement (.truncLS fd fs) := by
  intro _
  have h := fields_rWord (op := 17) (rs := 16) (rt := 0) (rd := fs.val) (sa := fd.val) (funct := 9) (by decide) (by decide) (by decide) fs.isLt fd.isLt (by decide)
  exact all5 (h.1) (h.2.1) (h.2.2.2.1) (h.2.2.2.2.1) (h.2.2.2.2.2.1)
theorem truncLD (fd : RegIdx) (fs : RegIdx) : Statement (.truncLD fd fs) := by
  intro _
  have h := fields_rWord (op := 17) (rs := 17) (rt := 0) (rd := fs.val) (sa := fd.val) (funct := 9) (by decide) (by decide) (by decide) fs.isLt fd.isLt (by decide)
  exact all5 (h.1) (h.2.1) (h.2.2.2.1) (h.2.2.2.2.1) (h.2.2.2.2.2.1)
theorem ceilLS (fd : RegIdx) (fs : RegIdx) : Statement (.ceilLS fd fs) := by
  intro _
  have h := fields_rWord (op := 17) (rs := 16) (rt := 0) (rd := fs.val) (sa := fd.val) (funct := 10) (by decide) (by decide) (by decide) fs.isLt fd.isLt (by decide)
  exact all5 (h.1) (h.2.1) (h.2.2.2.1) (h.2.2.2.2.1) (h.2.2.2.2.2.1)
theorem ceilLD (fd : RegIdx) (fs : RegIdx) : Statement (.ceilLD fd fs) := by
  intro _
  have h := fields_rWord (op := 17) (rs := 17) (rt := 0) (rd := fs.val) (sa := fd.val) (funct := 10) (by decide) (by decide) (by decide) fs.isLt fd.isLt (by decide)
  exact all5 (h.1) (h.2.1) (h.2.2.2.1) (h.2.2.2.2.1) (h.2.2.2.2.2.1)
theorem floorLS (fd : RegIdx) (fs : RegIdx) : Statement (.floorLS fd fs) := by
  intro _
  have h := fields_rWord (op := 17) (rs := 16) (rt := 0) (rd := fs.val) (sa := fd.val) (funct := 11) (by decide) (by decide) (by decide) fs.isLt fd.isLt (by decide)
  exact all5 (h.1) (h.2.1) (h.2.2.2.1) (h.2.2.2.2.1) (h.2.2.2.2.2.1)
theorem floorLD (fd : RegIdx) (fs : RegIdx) : Statement (.floorLD fd fs) := by
  intro _
  have h := fields_rWord (op := 17) (rs := 17) (rt := 0) (rd := fs.val) (sa := fd.val) (funct := 11) (by decide) (by decide) (by decide) fs.isLt fd.isLt (by decide)
  exact all5 (h.1) (h.2.1) (h.2.2.2.1) (h.2.2.2.2.1) (h.2.2.2.2.2.1)
theorem roundWS (fd : RegIdx) (fs : RegIdx) : Statement (.roundWS fd fs) := by
  intro _
  have h := fields_rWord (op := 17) (rs := 16) (rt := 0) (rd := fs.val) (sa := fd.val) (funct := 12) (by decide) (by decide) (by decide) fs.isLt fd.isLt (by decide)
  exact all5 (h.1) (h.2.1) (h.2.2.2.1) (h.2.2.2.2.1) (h.2.2.2.2.2.1)
theorem roundWD (fd : RegIdx) (fs : RegIdx) : Statement (.roundWD fd fs) := by
  intro _
  have h := fields_rWord (op := 17) (rs := 17) (rt := 0) (rd := fs.val) (sa := fd.val) (funct := 12) (by decide) (by decide) (by decide) fs.isLt fd.isLt (by decide)
  exact all5 (h.1) (h.2.1) (h.2.2.2.1) (h.2.2.2.2.1) (h.2.2.2.2.2.1)
theorem truncWS (fd : RegIdx) (fs : RegIdx) : Statement (.truncWS fd fs) := by
  intro _
  have h := fields_rWord (op := 17) (rs := 16) (rt := 0) (rd := fs.val) (sa := fd.val) (funct := 13) (by decide) (by decide) (by decide) fs.isLt fd.isLt (by decide)
  exact all5 (h.1) (h.2.1) (h.2.2.2.1) (h.2.2.2.2.1) (h.2.2.2.2.2.1)
theorem truncWD (fd : RegIdx) (fs : RegIdx) : Statement (.truncWD fd fs) := by
  intro _
  have h := fields_rWord (op := 17) (rs := 17) (rt := 0) (rd := fs.val) (sa := fd.val) (funct := 13) (by decide) (by decide) (by decide) fs.isLt fd.isLt (by decide)
  exact all5 (h.1) (h.2.1) (h.2.2.2.1) (h.2.2.2.2.1) (h.2.2.2.2.2.1)
theorem ceilWS (fd : RegIdx) (fs : RegIdx) : Statement (.ceilWS fd fs) := by
  intro _
  have h := fields_rWord (op := 17) (rs := 16) (rt := 0) (rd := fs.val) (sa := fd.val) (funct := 14) (by decide) (by decide) (by decide) fs.isLt fd.isLt (by decide)
  exact all5 (h.1) (h.2.1) (h.2.2.2.1) (h.2.2.2.2.1) (h.2.2.2.2.2.1)
theorem ceilWD (fd : RegIdx) (fs : RegIdx) : Statement (.ceilWD fd fs) := by
  intro _
  have h := fields_rWord (op := 17) (rs := 17) (rt := 0) (rd := fs.val) (sa := fd.val) (funct := 14) (by decide) (by decide) (by decide) fs.isLt fd.isLt (by decide)
  exact all5 (h.1) (h.2.1) (h.2.2.2.1) (h.2.2.2.2.1) (h.2.2.2.2.2.1)
theorem floorWS (fd : RegIdx) (fs : RegIdx) : Statement (.floorWS fd fs) := by
  intro _
  have h := fields_rWord (op := 17) (rs := 16) (rt := 0) (rd := fs.val) (sa := fd.val) (funct := 15) (by decide) (by decide) (by decide) fs.isLt fd.isLt (by decide)
  exact all5 (h.1) (h.2.1) (h.2.2.2.1) (h.2.2.2.2.1) (h.2.2.2.2.2.1)
theorem floorWD (fd : RegIdx) (fs : RegIdx) : Statement (.floorWD fd fs) := by
  intro _
  have h := fields_rWord (op := 17) (rs := 17) (rt := 0) (rd := fs.val) (sa := fd.val) (funct := 15) (by decide) (by decide) (by decide) fs.isLt fd.isLt (by decide)
  exact all5 (h.1) (h.2.1) (h.2.2.2.1) (h.2.2.2.2.1) (h.2.2.2.2.2.1)
theorem cvtSD (fd : RegIdx) (fs : RegIdx) : Statement (.cvtSD fd fs) := by
  intro _
  have h := fields_rWord (op := 17) (rs := 17) (rt := 0) (rd := fs.val) (sa := fd.val) (funct := 32) (by decide) (by decide) (by decide) fs.isLt fd.isLt (by decide)
  exact all5 (h.1) (h.2.1) (h.2.2.2.1) (h.2.2.2.2.1) (h.2.2.2.2.2.1)
theorem cvtSW (fd : RegIdx) (fs : RegIdx) : Statement (.cvtSW fd fs) := by
  intro _
  have h := fields_rWord (op := 17) (rs := 20) (rt := 0) (rd := fs.val) (sa := fd.val) (funct := 32) (by decide) (by decide) (by decide) fs.isLt fd.isLt (by decide)
  exact all5 (h.1) (h.2.1) (h.2.2.2.1) (h.2.2.2.2.1) (h.2.2.2.2.2.1)
theorem cvtSL (fd : RegIdx) (fs : RegIdx) : Statement (.cvtSL fd fs) := by
  intro _
  have h := fields_rWord (op := 17) (rs := 21) (rt := 0) (rd := fs.val) (sa := fd.val) (funct := 32) (by decide) (by decide) (by decide) fs.isLt fd.isLt (by decide)
  exact all5 (h.1) (h.2.1) (h.2.2.2.1) (h.2.2.2.2.1) (h.2.2.2.2.2.1)
theorem cvtDS (fd : RegIdx) (fs : RegIdx) : Statement (.cvtDS fd fs) := by
  intro _
  have h := fields_rWord (op := 17) (rs := 16) (rt := 0) (rd := fs.val) (sa := fd.val) (funct := 33) (by decide) (by decide) (by decide) fs.isLt fd.isLt (by decide)
  exact all5 (h.1) (h.2.1) (h.2.2.2.1) (h.2.2.2.2.1) (h.2.2.2.2.2.1)
theorem cvtDW (fd : RegIdx) (fs : RegIdx) : Statement (.cvtDW fd fs) := by
  intro _
  have h := fields_rWord (op := 17) (rs := 20) (rt := 0) (rd := fs.val) (sa := fd.val) (funct := 33) (by decide) (by decide) (by decide) fs.isLt fd.isLt (by decide)
  exact all5 (h.1) (h.2.1) (h.2.2.2.1) (h.2.2.2.2.1) (h.2.2.2.2.2.1)
theorem cvtDL (fd : RegIdx) (fs : RegIdx) : Statement (.cvtDL fd fs) := by
  intro _
  have h := fields_rWord (op := 17) (rs := 21) (rt := 0) (rd := fs.val) (sa := fd.val) (funct := 33) (by decide) (by decide) (by decide) fs.isLt fd.isLt (by decide)
  exact all5 (h.1) (h.2.1) (h.2.2.2.1) (h.2.2.2.2.1) (h.2.2.2.2.2.1)
theorem cvtWS (fd : RegIdx) (fs : RegIdx) : Statement (.cvtWS fd fs) := by
  intro _
  have h := fields_rWord (op := 17) (rs := 16) (rt := 0) (rd := fs.val) (sa := fd.val) (funct := 36) (by decide) (by decide) (by decide) fs.isLt fd.isLt (by decide)
  exact all5 (h.1) (h.2.1) (h.2.2.2.1) (h.2.2.2.2.1) (h.2.2.2.2.2.1)
theorem cvtWD (fd : RegIdx) (fs : RegIdx) : Statement (.cvtWD fd fs) := by
  intro _
  have h := fields_rWord (op := 17) (rs := 17) (rt := 0) (rd := fs.val) (sa := fd.val) (funct := 36) (by decide) (by decide) (by decide) fs.isLt fd.isLt (by decide)
  exact all5 (h.1) (h.2.1) (h.2.2.2.1) (h.2.2.2.2.1) (h.2.2.2.2.2.1)
theorem cvtLS (fd : RegIdx) (fs : RegIdx) : Statement (.cvtLS fd fs) := by
  intro _
  have h := fields_rWord (op := 17) (rs := 16) (rt := 0) (rd := fs.val) (sa := fd.val) (funct := 37) (by decide) (by decide) (by decide) fs.isLt fd.isLt (by decide)
  exact all5 (h.1) (h.2.1) (h.2.2.2.1) (h.2.2.2.2.1) (h.2.2.2.2.2.1)
theorem cvtLD (fd : RegIdx) (fs : RegIdx) : Statement (.cvtLD fd fs) := by
  intro _
  have h := fields_rWord (op := 17) (rs := 17) (rt := 0) (rd := fs.val) (sa := fd.val) (funct := 37) (by decide) (by decide) (by decide) fs.isLt fd.isLt (by decide)
  exact all5 (h.1) (h.2.1) (h.2.2.2.1) (h.2.2.2.2.1) (h.2.2.2.2.2.1)
theorem cFS (fs : RegIdx) (ft : RegIdx) : Statement (.cFS fs ft) := by
  intro _
  have h := fields_rWord (op := 17) (rs := 16) (rt := ft.val) (rd := fs.val) (sa := 0) (funct := 48) (by decide) (by decide) ft.isLt fs.isLt (by decide) (by decide)
  exact all5 (h.1) (h.2.1) (h.2.2.1) (h.2.2.2.1) (h.2.2.2.2.2.1)
theorem cFD (fs : RegIdx) (ft : RegIdx) : Statement (.cFD fs ft) := by
  intro _
  have h := fields_rWord (op := 17) (rs := 17) (rt := ft.val) (rd := fs.val) (sa := 0) (funct := 48) (by decide) (by decide) ft.isLt fs.isLt (by decide) (by decide)
  exact all5 (h.1) (h.2.1) (h.2.2.1) (h.2.2.2.1) (h.2.2.2.2.2.1)
theorem cUnS (fs : RegIdx) (ft : RegIdx) : Statement (.cUnS fs ft) := by
  intro _
  have h := fields_rWord (op := 17) (rs := 16) (rt := ft.val) (rd := fs.val) (sa := 0) (funct := 49) (by decide) (by decide) ft.isLt fs.isLt (by decide) (by decide)
  exact all5 (h.1) (h.2.1) (h.2.2.1) (h.2.2.2.1) (h.2.2.2.2.2.1)
theorem cUnD (fs : RegIdx) (ft : RegIdx) : Statement (.cUnD fs ft) := by
  intro _
  have h := fields_rWord (op := 17) (rs := 17) (rt := ft.val) (rd := fs.val) (sa := 0) (funct := 49) (by decide) (by decide) ft.isLt fs.isLt (by decide) (by decide)
  exact all5 (h.1) (h.2.1) (h.2.2.1) (h.2.2.2.1) (h.2.2.2.2.2.1)
theorem cEqS (fs : RegIdx) (ft : RegIdx) : Statement (.cEqS fs ft) := by
  intro _
  have h := fields_rWord (op := 17) (rs := 16) (rt := ft.val) (rd := fs.val) (sa := 0) (funct := 50) (by decide) (by decide) ft.isLt fs.isLt (by decide) (by decide)
  exact all5 (h.1) (h.2.1) (h.2.2.1) (h.2.2.2.1) (h.2.2.2.2.2.1)
theorem cEqD (fs : RegIdx) (ft : RegIdx) : Statement (.cEqD fs ft) := by
  intro _
  have h := fields_rWord (op := 17) (rs := 17) (rt := ft.val) (rd := fs.val) (sa := 0) (funct := 50) (by decide) (by decide) ft.isLt fs.isLt (by decide) (by decide)
  exact all5 (h.1) (h.2.1) (h.2.2.1) (h.2.2.2.1) (h.2.2.2.2.2.1)
theorem cUeqS (fs : RegIdx) (ft : RegIdx) : Statement (.cUeqS fs ft) := by
  intro _
  have h := fields_rWord (op := 17) (rs := 16) (rt := ft.val) (rd := fs.val) (sa := 0) (funct := 51) (by decide) (by decide) ft.isLt fs.isLt (by decide) (by decide)
  exact all5 (h.1) (h.2.1) (h.2.2.1) (h.2.2.2.1) (h.2.2.2.2.2.1)
theorem cUeqD (fs : RegIdx) (ft : RegIdx) : Statement (.cUeqD fs ft) := by
  intro _
  have h := fields_rWord (op := 17) (rs := 17) (rt := ft.val) (rd := fs.val) (sa := 0) (funct := 51) (by decide) (by decide) ft.isLt fs.isLt (by decide) (by decide)
  exact all5 (h.1) (h.2.1) (h.2.2.1) (h.2.2.2.1) (h.2.2.2.2.2.1)
theorem cOltS (fs : RegIdx) (ft : RegIdx) : Statement (.cOltS fs ft) := by
  intro _
  have h := fields_rWord (op := 17) (rs := 16) (rt := ft.val) (rd := fs.val) (sa := 0) (funct := 52) (by decide) (by decide) ft.isLt fs.isLt (by decide) (by decide)
  exact all5 (h.1) (h.2.1) (h.2.2.1) (h.2.2.2.1) (h.2.2.2.2.2.1)
theorem cOltD (fs : RegIdx) (ft : RegIdx) : Statement (.cOltD fs ft) := by
  intro _
  have h := fields_rWord (op := 17) (rs := 17) (rt := ft.val) (rd := fs.val) (sa := 0) (funct := 52) (by decide) (by decide) ft.isLt fs.isLt (by decide) (by decide)
  exact all5 (h.1) (h.2.1) (h.2.2.1) (h.2.2.2.1) (h.2.2.2.2.2.1)
theorem cUltS (fs : RegIdx) (ft : RegIdx) : Statement (.cUltS fs ft) := by
  intro _
  have h := fields_rWord (op := 17) (rs := 16) (rt := ft.val) (rd := fs.val) (sa := 0) (funct := 53) (by decide) (by decide) ft.isLt fs.isLt (by decide) (by decide)
  exact all5 (h.1) (h.2.1) (h.2.2.1) (h.2.2.2.1) (h.2.2.2.2.2.1)
theorem cUltD (fs : RegIdx) (ft : RegIdx) : Statement (.cUltD fs ft) := by
  intro _
  have h := fields_rWord (op := 17) (rs := 17) (rt := ft.val) (rd := fs.val) (sa := 0) (funct := 53) (by decide) (by decide) ft.isLt fs.isLt (by decide) (by decide)
  exact all5 (h.1) (h.2.1) (h.2.2.1) (h.2.2.2.1) (h.2.2.2.2.2.1)
theorem cOleS (fs : RegIdx) (ft : RegIdx) : Statement (.cOleS fs ft) := by
  intro _
  have h := fields_rWord (op := 17) (rs := 16) (rt := ft.val) (rd := fs.val) (sa := 0) (funct := 54) (by decide) (by decide) ft.isLt fs.isLt (by decide) (by decide)
  exact all5 (h.1) (h.2.1) (h.2.2.1) (h.2.2.2.1) (h.2.2.2.2.2.1)
theorem cOleD (fs : RegIdx) (ft : RegIdx) : Statement (.cOleD fs ft) := by
  intro _
  have h := fields_rWord (op := 17) (rs := 17) (rt := ft.val) (rd := fs.val) (sa := 0) (funct := 54) (by decide) (by decide) ft.isLt fs.isLt (by decide) (by decide)
  exact all5 (h.1) (h.2.1) (h.2.2.1) (h.2.2.2.1) (h.2.2.2.2.2.1)
theorem cUleS (fs : RegIdx) (ft : RegIdx) : Statement (.cUleS fs ft) := by
  intro _
  have h := fields_rWord (op := 17) (rs := 16) (rt := ft.val) (rd := fs.val) (sa := 0) (funct := 55) (by decide) (by decide) ft.isLt fs.isLt (by decide) (by decide)
  exact all5 (h.1) (h.2.1) (h.2.2.1) (h.2.2.2.1) (h.2.2.2.2.2.1)
theorem cUleD (fs : RegIdx) (ft : RegIdx) : Statement (.cUleD fs ft) := by
  intro _
  have h := fields_rWord (op := 17) (rs := 17) (rt := ft.val) (rd := fs.val) (sa := 0) (funct := 55) (by decide) (by decide) ft.isLt fs.isLt (by decide) (by decide)
  exact all5 (h.1) (h.2.1) (h.2.2.1) (h.2.2.2.1) (h.2.2.2.2.2.1)
theorem cSfS (fs : RegIdx) (ft : RegIdx) : Statement (.cSfS fs ft) := by
  intro _
  have h := fields_rWord (op := 17) (rs := 16) (rt := ft.val) (rd := fs.val) (sa := 0) (funct := 56) (by decide) (by decide) ft.isLt fs.isLt (by decide) (by decide)
  exact all5 (h.1) (h.2.1) (h.2.2.1) (h.2.2.2.1) (h.2.2.2.2.2.1)
theorem cSfD (fs : RegIdx) (ft : RegIdx) : Statement (.cSfD fs ft) := by
  intro _
  have h := fields_rWord (op := 17) (rs := 17) (rt := ft.val) (rd := fs.val) (sa := 0) (funct := 56) (by decide) (by decide) ft.isLt fs.isLt (by decide) (by decide)
  exact all5 (h.1) (h.2.1) (h.2.2.1) (h.2.2.2.1) (h.2.2.2.2.2.1)
theorem cNgleS (fs : RegIdx) (ft : RegIdx) : Statement (.cNgleS fs ft) := by
  intro _
  have h := fields_rWord (op := 17) (rs := 16) (rt := ft.val) (rd := fs.val) (sa := 0) (funct := 57) (by decide) (by decide) ft.isLt fs.isLt (by decide) (by decide)
  exact all5 (h.1) (h.2.1) (h.2.2.1) (h.2.2.2.1) (h.2.2.2.2.2.1)
theorem cNgleD (fs : RegIdx) (ft : RegIdx) : Statement (.cNgleD fs ft) := by
  intro _
  have h := fields_rWord (op := 17) (rs := 17) (rt := ft.val) (rd := fs.val) (sa := 0) (funct := 57) (by decide) (by decide) ft.isLt fs.isLt (by decide) (by decide)
  exact all5 (h.1) (h.2.1) (h.2.2.1) (h.2.2.2.1) (h.2.2.2.2.2.1)
theorem cSeqS (fs : RegIdx) (ft : RegIdx) : Statement (.cSeqS fs ft) := by
  intro _
  have h := fields_rWord (op := 17) (rs := 16) (rt := ft.val) (rd := fs.val) (sa := 0) (funct := 58) (by decide) (by decide) ft.isLt fs.isLt (by decide) (by decide)
  exact all5 (h.1) (h.2.1) (h.2.2.1) (h.2.2.2.1) (h.2.2.2.2.2.1)
theorem cSeqD (fs : RegIdx) (ft : RegIdx) : Statement (.cSeqD fs ft) := by
  intro _
  have h := fields_rWord (op := 17) (rs := 17) (rt := ft.val) (rd := fs.val) (sa := 0) (funct := 58) (by decide) (by decide) ft.isLt fs.isLt (by decide) (by decide)
  exact all5 (h.1) (h.2.1) (h.2.2.1) (h.2.2.2.1) (h.2.2.2.2.2.1)
theorem cNglS (fs : RegIdx) (ft : RegIdx) : Statement (.cNglS fs ft) := by
  intro _
  have h := fields_rWord (op := 17) (rs := 16) (rt := ft.val) (rd := fs.val) (sa := 0) (funct := 59) (by decide) (by decide) ft.isLt fs.isLt (by decide) (by decide)
  exact all5 (h.1) (h.2.1) (h.2.2.1) (h.2.2.2.1) (h.2.2.2.2.2.1)
theorem cNglD (fs : RegIdx) (ft : RegIdx) : Statement (.cNglD fs ft) := by
  intro _
  have h := fields_rWord (op := 17) (rs := 17) (rt := ft.val) (rd := fs.val) (sa := 0) (funct := 59) (by decide) (by decide) ft.isLt fs.isLt (by decide) (by decide)
  exact all5 (h.1) (h.2.1) (h.2.2.1) (h.2.2.2.1) (h.2.2.2.2.2.1)
theorem cLtS (fs : RegIdx) (ft : RegIdx) : Statement (.cLtS fs ft) := by
  intro _
  have h := fields_rWord (op := 17) (rs := 16) (rt := ft.val) (rd := fs.val) (sa := 0) (funct := 60) (by decide) (by decide) ft.isLt fs.isLt (by decide) (by decide)
  exact all5 (h.1) (h.2.1) (h.2.2.1) (h.2.2.2.1) (h.2.2.2.2.2.1)
theorem cLtD (fs : RegIdx) (ft : RegIdx) : Statement (.cLtD fs ft) := by
  intro _
  have h := fields_rWord (op := 17) (rs := 17) (rt := ft.val) (rd := fs.val) (sa := 0) (funct := 60) (by decide) (by decide) ft.isLt fs.isLt (by decide) (by decide)
  exact all5 (h.1) (h.2.1) (h.2.2.1) (h.2.2.2.1) (h.2.2.2.2.2.1)
theorem cNgeS (fs : RegIdx) (ft : RegIdx) : Statement (.cNgeS fs ft) := by
  intro _
  have h := fields_rWord (op := 17) (rs := 16) (rt := ft.val) (rd := fs.val) (sa := 0) (funct := 61) (by decide) (by decide) ft.isLt fs.isLt (by decide) (by decide)
  exact all5 (h.1) (h.2.1) (h.2.2.1) (h.2.2.2.1) (h.2.2.2.2.2.1)
theorem cNgeD (fs : RegIdx) (ft : RegIdx) : Statement (.cNgeD fs ft) := by
  intro _
  have h := fields_rWord (op := 17) (rs := 17) (rt := ft.val) (rd := fs.val) (sa := 0) (funct := 61) (by decide) (by decide) ft.isLt fs.isLt (by decide) (by decide)
  exact all5 (h.1) (h.2.1) (h.2.2.1) (h.2.2.2.1) (h.2.2.2.2.2.1)
theorem cLeS (fs : RegIdx) (ft : RegIdx) : Statement (.cLeS fs ft) := by
  intro _
  have h := fields_rWord (op := 17) (rs := 16) (rt := ft.val) (rd := fs.val) (sa := 0) (funct := 62) (by decide) (by decide) ft.isLt fs.isLt (by decide) (by decide)
  exact all5 (h.1) (h.2.1) (h.2.2.1) (h.2.2.2.1) (h.2.2.2.2.2.1)
theorem cLeD (fs : RegIdx) (ft : RegIdx) : Statement (.cLeD fs ft) := by
  intro _
  have h := fields_rWord (op := 17) (rs := 17) (rt := ft.val) (rd := fs.val) (sa := 0) (funct := 62) (by decide) (by decide) ft.isLt fs.isLt (by decide) (by decide)
  exact all5 (h.1) (h.2.1) (h.2.2.1) (h.2.2.2.1) (h.2.2.2.2.2.1)
theorem cNgtS (fs : RegIdx) (ft : RegIdx) : Statement (.cNgtS fs ft) := by
  intro _
  have h := fields_rWord (op := 17) (rs := 16) (rt := ft.val) (rd := fs.val) (sa := 0) (funct := 63) (by decide) (by decide) ft.isLt fs.isLt (by decide) (by decide)
  exact all5 (h.1) (h.2.1) (h.2.2.1) (h.2.2.2.1) (h.2.2.2.2.2.1)
theorem cNgtD (fs : RegIdx) (ft : RegIdx) : Statement (.cNgtD fs ft) := by
  intro _
  have h := fields_rWord (op := 17) (rs := 17) (rt := ft.val) (rd := fs.val) (sa := 0) (funct := 63) (by decide) (by decide) ft.isLt fs.isLt (by decide) (by decide)
  exact all5 (h.1) (h.2.1) (h.2.2.1) (h.2.2.2.1) (h.2.2.2.2.2.1)
theorem cop2 : Statement .cop2 := by
  intro _
  have h := fields_jWord (op := 18) (target := 0) (by decide) (by decide)
  exact all1 (h.1)
theorem lwc2 (rt : RegIdx) (base : RegIdx) (offset : Half) : Statement (.lwc2 rt base offset) := by
  intro _
  have h := fields_iWord (op := 50) (rs := base.val) (rt := rt.val) (imm := offset.toNat) (by decide) base.isLt rt.isLt offset.isLt
  exact all4 (h.1) (h.2.1) (h.2.2.1) (low16 h.2.2.2.2)
theorem ldc2 (rt : RegIdx) (base : RegIdx) (offset : Half) : Statement (.ldc2 rt base offset) := by
  intro _
  have h := fields_iWord (op := 54) (rs := base.val) (rt := rt.val) (imm := offset.toNat) (by decide) base.isLt rt.isLt offset.isLt
  exact all4 (h.1) (h.2.1) (h.2.2.1) (low16 h.2.2.2.2)
theorem swc2 (rt : RegIdx) (base : RegIdx) (offset : Half) : Statement (.swc2 rt base offset) := by
  intro _
  have h := fields_iWord (op := 58) (rs := base.val) (rt := rt.val) (imm := offset.toNat) (by decide) base.isLt rt.isLt offset.isLt
  exact all4 (h.1) (h.2.1) (h.2.2.1) (low16 h.2.2.2.2)
theorem sdc2 (rt : RegIdx) (base : RegIdx) (offset : Half) : Statement (.sdc2 rt base offset) := by
  intro _
  have h := fields_iWord (op := 62) (rs := base.val) (rt := rt.val) (imm := offset.toNat) (by decide) base.isLt rt.isLt offset.isLt
  exact all4 (h.1) (h.2.1) (h.2.2.1) (low16 h.2.2.2.2)

end Sys2Proof.Laws.FixedBits
end

