-- ==== Sys2Proof/Laws/Step.lean ====
section
/-! SUPPORT. What a step of the machine can be, and what the parameters come to at their defaults, each said once: the proofs cite these
instead of unfolding `step`, `executeWord` and `fpOutcome`. -/

namespace Sys2Proof.Machine

/-! ### The step -/

theorem budgetReached_iff (s : State) : s.budgetReached = true ↔ s.cpuBudget ≤ s.runCycles.toNat := by
  simp [State.budgetReached]

/-- Everything a step that answers a next state can be (R901, R907, R908). -/
theorem step_cases {s t : State} (h : step s = .next t) :
    (s.advancing = true ∧ t = s.continueAdvance)
      ∨ (s.advancing = false ∧ ∃ c rest, s.inputs = c :: rest ∧ hostCall c { s with inputs := rest } = .next t)
      ∨ (s.advancing = false ∧ s.inputs = [] ∧ s.initialised = true ∧ s.budgetReached = true ∧ t = endIteration s)
      ∨ (s.advancing = false ∧ s.inputs = [] ∧ s.initialised = true ∧ s.budgetReached = false
          ∧ ∃ u, cpuStep s = .next u ∧ t = afterStep u) := by
  unfold step at h
  split at h
  · exact .inl ⟨‹_›, by cases h; rfl⟩
  · have ha : s.advancing = false := by simpa using ‹¬s.advancing = true›
    split at h
    · rename_i c rest hi
      exact .inr (.inl ⟨ha, c, rest, hi, h⟩)
    · rename_i hi
      unfold loopStep at h
      split at h
      · cases h
      · have hp : s.initialised = true := by simpa using ‹¬(!s.initialised) = true›
        split at h
        · cases h
        · split at h
          · exact .inr (.inr (.inl ⟨ha, hi, hp, ‹_›, by cases h; rfl⟩))
          · have hb : s.budgetReached = false := by simpa using ‹¬s.budgetReached = true›
            refine .inr (.inr (.inr ⟨ha, hi, hp, hb, ?_⟩))
            unfold runLoopStep at h
            split at h
            · exact ⟨_, ‹_›, by cases h; rfl⟩
            · cases h
            · cases h

/-- A state that runs takes a CPU step and what the run loop does after it (R907). -/
theorem step_running {s : State} (h : s.Running) : step s = runLoopStep s := by
  have hb : s.budgetReached = false := by
    have := (budgetReached_iff s).not.mpr (Nat.not_le.mpr h.budget)
    simpa using this
  have hg : ¬(s.stop && decide (s.runCycles = 0)) = true := by
    rcases h.going with g | g <;> simp [g]
  unfold step loopStep
  rw [if_neg (by simp [h.noAdvance]), h.noCall]
  simp only
  rw [if_neg (by simp [h.powered]), if_neg hg, if_neg (by simp [hb])]

/-- A CPU step outside the reserved mode is its body and the end of the step (R500). -/
theorem cpuStep_eq {s : State} (h : s.mode ≠ .reserved) : cpuStep s = onNext State.endStep (stepBody s.atBoundary) := by
  unfold cpuStep; rw [if_neg h]

/-- A CPU step that answers a next state (R500). -/
theorem cpuStep_next {s t : State} (h : cpuStep s = .next t) :
    s.mode ≠ .reserved ∧ ∃ u, stepBody s.atBoundary = .next u ∧ t = u.endStep := by
  unfold cpuStep at h
  split at h
  · cases h
  · refine ⟨‹_›, ?_⟩
    cases hb : stepBody s.atBoundary <;> rw [hb] at h <;> simp [onNext] at h
    exact ⟨_, rfl, h.symm⟩

/-- Executing a word that decodes is executing its instruction and charging its extra cycles (R504, R500). -/
theorem executeWord_ok {w : Word} {i : Instr} (hd : decode w = .ok i) (s : State) :
    executeWord w s = onNext (State.chargeExtra w) (exec i s) := by
  unfold executeWord; rw [hd]

@[simp] theorem onNext_next (f : State → State) (s : State) : onNext f (.next s) = .next (f s) := rfl
@[simp] theorem onNext_fault (f : State → State) (e : Fault) : onNext f (.fault e) = .fault e := rfl
@[simp] theorem onNext_refused (f : State → State) (q : Refusal) : onNext f (.refused q) = .refused q := rfl

/-- What raised is not charged (R823). -/
theorem chargeExtra_raised {s : State} (w : Word) (h : s.excLatch = true) : s.chargeExtra w = s := by
  unfold State.chargeExtra; rw [if_pos h]

/-- What completed is charged EXTRA_CYCLES (R500). -/
theorem chargeExtra_completed {s : State} (w : Word) (h : s.excLatch = false) :
    s.chargeExtra w = { s with stepCycles := s.stepCycles + extraCycles s.cfg w } := by
  unfold State.chargeExtra; rw [if_neg (by simp [h])]; rfl

/-! ### Collaborators -/

/-- Only what a collaborator may change differs (R970). -/
def CollabChanged (s t : State) : Prop :=
  ∃ mem mi sched outputs collabState,
    t = { s with mem := mem, mi := mi, sched := sched, outputs := outputs, collabState := collabState }

theorem CollabChanged.trans {s m t : State} (h : CollabChanged s m) (k : CollabChanged m t) : CollabChanged s t := by
  obtain ⟨_, _, _, _, _, rfl⟩ := h
  obtain ⟨_, _, _, _, _, rfl⟩ := k
  exact ⟨_, _, _, _, _, rfl⟩

theorem applyAction_changed (elapsed : Int) (s : State) (a : CollabAction) : CollabChanged s (s.applyAction elapsed a) := by
  cases a with
  | writeRdram a b =>
    simp only [State.applyAction, State.dmaWrite]
    split
    · exact ⟨_, s.mi, s.sched, s.outputs, s.collabState, rfl⟩
    · exact ⟨s.mem, s.mi, s.sched, s.outputs, s.collabState, rfl⟩
  | setSp => exact ⟨s.mem, _, s.sched, _, s.collabState, rfl⟩
  | clearSp => exact ⟨s.mem, _, s.sched, s.outputs, s.collabState, rfl⟩
  | setDp => exact ⟨s.mem, _, s.sched, _, s.collabState, rfl⟩
  | addEvent n c => exact ⟨s.mem, s.mi, _, s.outputs, s.collabState, rfl⟩
  | removeEvent n => exact ⟨s.mem, s.mi, _, s.outputs, s.collabState, rfl⟩

/-- A collaborator's call changes nothing else (R970). -/
theorem collabCall_changed (elapsed : Int) (call : CollabCall) (s : State) : CollabChanged s (s.collabCall elapsed call).2 := by
  have fold : ∀ (l : List CollabAction) (s : State), CollabChanged s (l.foldl (State.applyAction elapsed) s) := by
    intro l
    induction l with
    | nil => exact fun s => ⟨s.mem, s.mi, s.sched, s.outputs, s.collabState, rfl⟩
    | cons a l ih => exact fun s => (applyAction_changed elapsed s a).trans (ih _)
  exact CollabChanged.trans ⟨s.mem, s.mi, s.sched, s.outputs, _, rfl⟩ (fold _ _)

/-- A collaborator's call keeps the canonical form of memory. -/
theorem collabCall_wf (elapsed : Int) (call : CollabCall) {s : State} (h : s.mem.wf = true) :
    (s.collabCall elapsed call).2.mem.wf = true := by
  have fold : ∀ (l : List CollabAction) (s : State), s.mem.wf = true → (l.foldl (State.applyAction elapsed) s).mem.wf = true := by
    intro l
    induction l with
    | nil => exact fun _ h => h
    | cons a l ih =>
      intro s h
      apply ih
      cases a with
      | writeRdram a b =>
        simp only [State.applyAction, State.dmaWrite]
        split
        · exact Memory.wf_write _ _ h
        · exact h
      | _ => exact h
  exact fold _ _ h

/-! ### The parameters at their defaults -/

theorem extraCycles_default {c : Config} {w : Word} {i : Instr} (hc : c.extra = []) (hd : decode w = .ok i) :
    extraCycles c w = defaultExtraCycles i := by
  simp [extraCycles, hc, hd]

theorem fpOutcome_default {c : Config} (h : FpDefaults c) (op : FpOp) (f : FpFmt) (fcsr : Word) (a b : DWord) :
    fpOutcome c op f fcsr a b =
      if fpUnimplDefault op f fcsr a b then .unimplemented
      else fpFlushed (fcsrFs fcsr) (op.result f) (op.rounding (RoundMode.ofBits (fcsrRm fcsr)))
        (fpIeee op f (RoundMode.ofBits (fcsrRm fcsr)) a b) := by
  obtain ⟨h1, -, h3⟩ := h
  simp [fpOutcome, fpUnimplemented, fpAnswer, h1, h3]

theorem fpCmp_default {c : Config} (h : FpDefaults c) (f : FpFmt) (a b : DWord) : fpCmp c f a b = fpCmpIeee f a b := by
  obtain ⟨-, h2, -⟩ := h
  simp [fpCmp, h2]

end Sys2Proof.Machine
end

