-- ==== Sys2Proof/Laws/Values.lean ====
section
/-! SUPPORT. The operations on words as arithmetic on integers and naturals. -/

namespace Sys2Proof.Machine

theorem add_ofInt {w : Nat} (a b : BitVec w) : a + b = BitVec.ofInt w (a.toInt + b.toInt) := by
  apply BitVec.eq_of_toInt_eq; simp

theorem sub_ofInt {w : Nat} (a b : BitVec w) : a - b = BitVec.ofInt w (a.toInt - b.toInt) := by
  apply BitVec.eq_of_toInt_eq; simp

theorem half_bmod (h : Half) (n : Nat) (hn : 65536 ≤ n) : (BitVec.toInt h).bmod n = BitVec.toInt h := by
  have h1 := BitVec.toInt_lt (x := h)
  have h2 := BitVec.le_toInt (x := h)
  apply Int.bmod_eq_of_le <;> omega

theorem sext16_ofInt (h : Half) : sext16 h = BitVec.ofInt 64 h.toInt := by
  unfold sext16
  apply BitVec.eq_of_toInt_eq
  simp [BitVec.toInt_signExtend, half_bmod]

theorem low32_sext16 (h : Half) : low32 (sext16 h) = BitVec.ofInt 32 h.toInt := by
  rw [sext16_ofInt]; unfold low32
  apply BitVec.eq_of_toNat_eq; simp; omega

theorem zext16_ofNat (h : Half) : zext16 h = BitVec.ofNat 64 h.toNat := by
  unfold zext16; apply BitVec.eq_of_toNat_eq; simp

theorem setBool_ite (b : Bool) (p : Prop) [Decidable p] (h : b = true ↔ p) : setBool b = if p then 1#64 else 0#64 := by
  unfold setBool boolBit; by_cases hp : p
  · rw [if_pos hp, if_pos (h.mpr hp)]
  · rw [if_neg hp, if_neg (fun e => hp (h.mp e))]

/-- An arithmetic right shift divides, rounding down. -/
theorem sshiftRight_ofInt (x : DWord) (n : Nat) : x.sshiftRight n = BitVec.ofInt 64 (x.toInt / 2 ^ n) := by
  apply BitVec.eq_of_toInt_eq
  rw [BitVec.toInt_sshiftRight, BitVec.toInt_ofInt, Int.shiftRight_eq_div_pow]
  have h1 := BitVec.toInt_lt (x := x)
  have h2 := BitVec.le_toInt (x := x)
  have hp : (0 : Int) < 2 ^ n := by positivity
  have : ((2 ^ n : Nat) : Int) = 2 ^ n := by push_cast; ring
  rw [this]
  norm_num at h1 h2
  have hp1 : (1 : Int) ≤ 2 ^ n := hp
  have a1 := Int.le_ediv_of_mul_le (a := -9223372036854775808) (b := x.toInt) hp (by nlinarith)
  have a2 := Int.ediv_lt_of_lt_mul (a := x.toInt) (b := 9223372036854775808) hp (by nlinarith)
  symm; apply Int.bmod_eq_of_le <;> norm_num <;> omega

theorem low32_ofInt (t : Int) : low32 (BitVec.ofInt 64 t) = BitVec.ofInt 32 t := by
  unfold low32; apply BitVec.eq_of_toNat_eq; simp; omega

theorem shiftLeft_ofNat {w : Nat} (x : BitVec w) (n : Nat) : x <<< n = BitVec.ofNat w (x.toNat * 2 ^ n) := by
  apply BitVec.eq_of_toNat_eq; simp [Nat.shiftLeft_eq]

theorem ushiftRight_ofNat {w : Nat} (x : BitVec w) (n : Nat) : x >>> n = BitVec.ofNat w (x.toNat / 2 ^ n) := by
  apply BitVec.eq_of_toNat_eq; simp [Nat.shiftRight_eq_div_pow]
  rw [Nat.mod_eq_of_lt]; exact lt_of_le_of_lt (Nat.div_le_self _ _) x.isLt

/-- Sign extension keeps a number in range. -/
theorem sext32_ofInt (t : Int) (h : -(2 ^ 31) ≤ t ∧ t ≤ 2 ^ 31 - 1) : sext32 (BitVec.ofInt 32 t) = BitVec.ofInt 64 t := by
  unfold sext32; apply BitVec.eq_of_toInt_eq
  rw [BitVec.toInt_signExtend]; simp only [BitVec.toInt_ofInt]; simp
  rw [Int.bmod_eq_of_le, Int.bmod_eq_of_le] <;> omega

end Sys2Proof.Machine
end

