-- ==== Sys2Proof/Tests/Slice0.lean ====
section
/-! SUPPORT. Tests: ill-formed terms refused, words written from the spec's encodings decoded, the spec's test vectors one step each, and a
witness of the hypotheses of every statement that has any. Expected values come from spec/95_test_vectors.md, the opcode table and the
rules, not from the model. -/

namespace Sys2Proof.Tests

set_option Elab.async false

open Sys2Proof.Machine

/-! ### Well-formedness: a shift amount of 32 is refused (R301, R425 to R436) -/

theorem test_wf_sll : (Instr.sll 1 2 32).wf = false ∧ (Instr.sll 1 2 31).wf = true := by decide
theorem test_wf_srl : (Instr.srl 1 2 32).wf = false ∧ (Instr.srl 1 2 31).wf = true := by decide
theorem test_wf_sra : (Instr.sra 1 2 32).wf = false ∧ (Instr.sra 1 2 31).wf = true := by decide
theorem test_wf_dsll : (Instr.dsll 1 2 32).wf = false ∧ (Instr.dsll 1 2 31).wf = true := by decide
theorem test_wf_dsrl : (Instr.dsrl 1 2 32).wf = false ∧ (Instr.dsrl 1 2 31).wf = true := by decide
theorem test_wf_dsra : (Instr.dsra 1 2 32).wf = false ∧ (Instr.dsra 1 2 31).wf = true := by decide
theorem test_wf_dsll32 : (Instr.dsll32 1 2 32).wf = false ∧ (Instr.dsll32 1 2 31).wf = true := by decide
theorem test_wf_dsrl32 : (Instr.dsrl32 1 2 32).wf = false ∧ (Instr.dsrl32 1 2 31).wf = true := by decide
theorem test_wf_dsra32 : (Instr.dsra32 1 2 32).wf = false ∧ (Instr.dsra32 1 2 31).wf = true := by decide

/-! ### Decoding: each word is written field by field from the opcode table's row (R301 to R307, R320 to R325) -/

/-- The word decodes to the instruction. -/
def decodesTo (w : Word) (i : Instr) : Bool := decide (decode w = .ok i)

/-- ADD to ORI. -/
theorem test_decode_a :
    (decodesTo (0b000000#6 ++ 1#5 ++ 2#5 ++ 3#5 ++ 0#5 ++ 0b100000#6) (.add 3 1 2)
      && decodesTo (0b000000#6 ++ 30#5 ++ 29#5 ++ 31#5 ++ 0#5 ++ 0b100001#6) (.addu 31 30 29)
      && decodesTo (0b000000#6 ++ 10#5 ++ 21#5 ++ 17#5 ++ 0#5 ++ 0b100010#6) (.sub 17 10 21)
      && decodesTo (0b000000#6 ++ 1#5 ++ 2#5 ++ 3#5 ++ 0#5 ++ 0b100011#6) (.subu 3 1 2)
      && decodesTo (0b001000#6 ++ 30#5 ++ 29#5 ++ 0x7FFE#16) (.addi 29 30 0x7FFE#16)
      && decodesTo (0b001001#6 ++ 10#5 ++ 21#5 ++ 0x1234#16) (.addiu 21 10 0x1234#16)
      && decodesTo (0b000000#6 ++ 1#5 ++ 2#5 ++ 3#5 ++ 0#5 ++ 0b101100#6) (.dadd 3 1 2)
      && decodesTo (0b000000#6 ++ 30#5 ++ 29#5 ++ 31#5 ++ 0#5 ++ 0b101101#6) (.daddu 31 30 29)
      && decodesTo (0b000000#6 ++ 10#5 ++ 21#5 ++ 17#5 ++ 0#5 ++ 0b101110#6) (.dsub 17 10 21)
      && decodesTo (0b000000#6 ++ 1#5 ++ 2#5 ++ 3#5 ++ 0#5 ++ 0b101111#6) (.dsubu 3 1 2)
      && decodesTo (0b011000#6 ++ 30#5 ++ 29#5 ++ 0x7FFE#16) (.daddi 29 30 0x7FFE#16)
      && decodesTo (0b011001#6 ++ 10#5 ++ 21#5 ++ 0x1234#16) (.daddiu 21 10 0x1234#16)
      && decodesTo (0b000000#6 ++ 1#5 ++ 2#5 ++ 3#5 ++ 0#5 ++ 0b100100#6) (.and 3 1 2)
      && decodesTo (0b000000#6 ++ 30#5 ++ 29#5 ++ 31#5 ++ 0#5 ++ 0b100101#6) (.or 31 30 29)
      && decodesTo (0b000000#6 ++ 10#5 ++ 21#5 ++ 17#5 ++ 0#5 ++ 0b100110#6) (.xor 17 10 21)
      && decodesTo (0b000000#6 ++ 1#5 ++ 2#5 ++ 3#5 ++ 0#5 ++ 0b100111#6) (.nor 3 1 2)
      && decodesTo (0b001100#6 ++ 30#5 ++ 29#5 ++ 0x7FFE#16) (.andi 29 30 0x7FFE#16)
      && decodesTo (0b001101#6 ++ 10#5 ++ 21#5 ++ 0x1234#16) (.ori 21 10 0x1234#16)) = true := by decide +kernel

/-- XORI to DSRA32. -/
theorem test_decode_b :
    (decodesTo (0b001110#6 ++ 1#5 ++ 2#5 ++ 0x8001#16) (.xori 2 1 0x8001#16)
      && decodesTo (0b001111#6 ++ 0#5 ++ 29#5 ++ 0x7FFE#16) (.lui 29 0x7FFE#16)
      && decodesTo (0b000000#6 ++ 10#5 ++ 21#5 ++ 17#5 ++ 0#5 ++ 0b101010#6) (.slt 17 10 21)
      && decodesTo (0b000000#6 ++ 1#5 ++ 2#5 ++ 3#5 ++ 0#5 ++ 0b101011#6) (.sltu 3 1 2)
      && decodesTo (0b001010#6 ++ 30#5 ++ 29#5 ++ 0x7FFE#16) (.slti 29 30 0x7FFE#16)
      && decodesTo (0b001011#6 ++ 10#5 ++ 21#5 ++ 0x1234#16) (.sltiu 21 10 0x1234#16)
      && decodesTo (0b000000#6 ++ 0#5 ++ 2#5 ++ 3#5 ++ 5#5 ++ 0b000000#6) (.sll 3 2 5)
      && decodesTo (0b000000#6 ++ 0#5 ++ 29#5 ++ 31#5 ++ 31#5 ++ 0b000010#6) (.srl 31 29 31)
      && decodesTo (0b000000#6 ++ 0#5 ++ 21#5 ++ 17#5 ++ 1#5 ++ 0b000011#6) (.sra 17 21 1)
      && decodesTo (0b000000#6 ++ 1#5 ++ 2#5 ++ 3#5 ++ 0#5 ++ 0b000100#6) (.sllv 3 2 1)
      && decodesTo (0b000000#6 ++ 30#5 ++ 29#5 ++ 31#5 ++ 0#5 ++ 0b000110#6) (.srlv 31 29 30)
      && decodesTo (0b000000#6 ++ 10#5 ++ 21#5 ++ 17#5 ++ 0#5 ++ 0b000111#6) (.srav 17 21 10)
      && decodesTo (0b000000#6 ++ 0#5 ++ 2#5 ++ 3#5 ++ 5#5 ++ 0b111000#6) (.dsll 3 2 5)
      && decodesTo (0b000000#6 ++ 0#5 ++ 29#5 ++ 31#5 ++ 31#5 ++ 0b111010#6) (.dsrl 31 29 31)
      && decodesTo (0b000000#6 ++ 0#5 ++ 21#5 ++ 17#5 ++ 1#5 ++ 0b111011#6) (.dsra 17 21 1)
      && decodesTo (0b000000#6 ++ 0#5 ++ 2#5 ++ 3#5 ++ 5#5 ++ 0b111100#6) (.dsll32 3 2 5)
      && decodesTo (0b000000#6 ++ 0#5 ++ 29#5 ++ 31#5 ++ 31#5 ++ 0b111110#6) (.dsrl32 31 29 31)
      && decodesTo (0b000000#6 ++ 0#5 ++ 21#5 ++ 17#5 ++ 1#5 ++ 0b111111#6) (.dsra32 17 21 1)) = true := by decide +kernel

/-- DSLLV to JR. -/
theorem test_decode_c :
    (decodesTo (0b000000#6 ++ 1#5 ++ 2#5 ++ 3#5 ++ 0#5 ++ 0b010100#6) (.dsllv 3 2 1)
      && decodesTo (0b000000#6 ++ 30#5 ++ 29#5 ++ 31#5 ++ 0#5 ++ 0b010110#6) (.dsrlv 31 29 30)
      && decodesTo (0b000000#6 ++ 10#5 ++ 21#5 ++ 17#5 ++ 0#5 ++ 0b010111#6) (.dsrav 17 21 10)
      && decodesTo (0b000000#6 ++ 1#5 ++ 2#5 ++ 0#10 ++ 0b011000#6) (.mult 1 2)
      && decodesTo (0b000000#6 ++ 30#5 ++ 29#5 ++ 0#10 ++ 0b011001#6) (.multu 30 29)
      && decodesTo (0b000000#6 ++ 10#5 ++ 21#5 ++ 0#10 ++ 0b011010#6) (.div 10 21)
      && decodesTo (0b000000#6 ++ 1#5 ++ 2#5 ++ 0#10 ++ 0b011011#6) (.divu 1 2)
      && decodesTo (0b000000#6 ++ 30#5 ++ 29#5 ++ 0#10 ++ 0b011100#6) (.dmult 30 29)
      && decodesTo (0b000000#6 ++ 10#5 ++ 21#5 ++ 0#10 ++ 0b011101#6) (.dmultu 10 21)
      && decodesTo (0b000000#6 ++ 1#5 ++ 2#5 ++ 0#10 ++ 0b011110#6) (.ddiv 1 2)
      && decodesTo (0b000000#6 ++ 30#5 ++ 29#5 ++ 0#10 ++ 0b011111#6) (.ddivu 30 29)
      && decodesTo (0b000000#6 ++ 0#10 ++ 17#5 ++ 0#5 ++ 0b010000#6) (.mfhi 17)
      && decodesTo (0b000000#6 ++ 1#5 ++ 0#15 ++ 0b010001#6) (.mthi 1)
      && decodesTo (0b000000#6 ++ 0#10 ++ 31#5 ++ 0#5 ++ 0b010010#6) (.mflo 31)
      && decodesTo (0b000000#6 ++ 10#5 ++ 0#15 ++ 0b010011#6) (.mtlo 10)
      && decodesTo (0b000010#6 ++ 0x2345678#26) (.j 0x2345678#26)
      && decodesTo (0b000011#6 ++ 0x3FFFFFE#26) (.jal 0x3FFFFFE#26)
      && decodesTo (0b000000#6 ++ 10#5 ++ 0#15 ++ 0b001000#6) (.jr 10)) = true := by decide +kernel

/-- JALR to LB. -/
theorem test_decode_d :
    (decodesTo (0b000000#6 ++ 1#5 ++ 0#5 ++ 3#5 ++ 0#5 ++ 0b001001#6) (.jalr 3 1)
      && decodesTo (0b000100#6 ++ 30#5 ++ 29#5 ++ 0x7FFD#16) (.beq 30 29 0x7FFD#16)
      && decodesTo (0b000101#6 ++ 10#5 ++ 21#5 ++ 0xF1#16) (.bne 10 21 0x00F1#16)
      && decodesTo (0b000110#6 ++ 1#5 ++ 0#5 ++ 0x8002#16) (.blez 1 0x8002#16)
      && decodesTo (0b000111#6 ++ 30#5 ++ 0#5 ++ 0x7FFD#16) (.bgtz 30 0x7FFD#16)
      && decodesTo (0b000001#6 ++ 10#5 ++ 0b00000#5 ++ 0xF1#16) (.bltz 10 0x00F1#16)
      && decodesTo (0b000001#6 ++ 1#5 ++ 0b00001#5 ++ 0x8002#16) (.bgez 1 0x8002#16)
      && decodesTo (0b000001#6 ++ 30#5 ++ 0b10000#5 ++ 0x7FFD#16) (.bltzal 30 0x7FFD#16)
      && decodesTo (0b000001#6 ++ 10#5 ++ 0b10001#5 ++ 0xF1#16) (.bgezal 10 0x00F1#16)
      && decodesTo (0b010100#6 ++ 1#5 ++ 2#5 ++ 0x8002#16) (.beql 1 2 0x8002#16)
      && decodesTo (0b010101#6 ++ 30#5 ++ 29#5 ++ 0x7FFD#16) (.bnel 30 29 0x7FFD#16)
      && decodesTo (0b010110#6 ++ 10#5 ++ 0#5 ++ 0xF1#16) (.blezl 10 0x00F1#16)
      && decodesTo (0b010111#6 ++ 1#5 ++ 0#5 ++ 0x8002#16) (.bgtzl 1 0x8002#16)
      && decodesTo (0b000001#6 ++ 30#5 ++ 0b00010#5 ++ 0x7FFD#16) (.bltzl 30 0x7FFD#16)
      && decodesTo (0b000001#6 ++ 10#5 ++ 0b00011#5 ++ 0xF1#16) (.bgezl 10 0x00F1#16)
      && decodesTo (0b000001#6 ++ 1#5 ++ 0b10010#5 ++ 0x8002#16) (.bltzall 1 0x8002#16)
      && decodesTo (0b000001#6 ++ 30#5 ++ 0b10011#5 ++ 0x7FFD#16) (.bgezall 30 0x7FFD#16)
      && decodesTo (0b100000#6 ++ 16#5 ++ 21#5 ++ 0xF1#16) (.lb 21 16 0x00F1#16)) = true := by decide +kernel

/-- LBU to SDR. -/
theorem test_decode_e :
    (decodesTo (0b100100#6 ++ 4#5 ++ 2#5 ++ 0x8002#16) (.lbu 2 4 0x8002#16)
      && decodesTo (0b100001#6 ++ 31#5 ++ 29#5 ++ 0x7FFD#16) (.lh 29 31 0x7FFD#16)
      && decodesTo (0b100101#6 ++ 16#5 ++ 21#5 ++ 0xF1#16) (.lhu 21 16 0x00F1#16)
      && decodesTo (0b100011#6 ++ 4#5 ++ 2#5 ++ 0x8002#16) (.lw 2 4 0x8002#16)
      && decodesTo (0b100111#6 ++ 31#5 ++ 29#5 ++ 0x7FFD#16) (.lwu 29 31 0x7FFD#16)
      && decodesTo (0b110111#6 ++ 16#5 ++ 21#5 ++ 0xF1#16) (.ld 21 16 0x00F1#16)
      && decodesTo (0b101000#6 ++ 4#5 ++ 2#5 ++ 0x8002#16) (.sb 2 4 0x8002#16)
      && decodesTo (0b101001#6 ++ 31#5 ++ 29#5 ++ 0x7FFD#16) (.sh 29 31 0x7FFD#16)
      && decodesTo (0b101011#6 ++ 16#5 ++ 21#5 ++ 0xF1#16) (.sw 21 16 0x00F1#16)
      && decodesTo (0b111111#6 ++ 4#5 ++ 2#5 ++ 0x8002#16) (.sd 2 4 0x8002#16)
      && decodesTo (0b100010#6 ++ 31#5 ++ 29#5 ++ 0x7FFD#16) (.lwl 29 31 0x7FFD#16)
      && decodesTo (0b100110#6 ++ 16#5 ++ 21#5 ++ 0xF1#16) (.lwr 21 16 0x00F1#16)
      && decodesTo (0b011010#6 ++ 4#5 ++ 2#5 ++ 0x8002#16) (.ldl 2 4 0x8002#16)
      && decodesTo (0b011011#6 ++ 31#5 ++ 29#5 ++ 0x7FFD#16) (.ldr 29 31 0x7FFD#16)
      && decodesTo (0b101010#6 ++ 16#5 ++ 21#5 ++ 0xF1#16) (.swl 21 16 0x00F1#16)
      && decodesTo (0b101110#6 ++ 4#5 ++ 2#5 ++ 0x8002#16) (.swr 2 4 0x8002#16)
      && decodesTo (0b101100#6 ++ 31#5 ++ 29#5 ++ 0x7FFD#16) (.sdl 29 31 0x7FFD#16)
      && decodesTo (0b101101#6 ++ 16#5 ++ 21#5 ++ 0xF1#16) (.sdr 21 16 0x00F1#16)) = true := by decide +kernel

/-- LL to TLTIU. -/
theorem test_decode_f :
    (decodesTo (0b110000#6 ++ 4#5 ++ 2#5 ++ 0x8002#16) (.ll 2 4 0x8002#16)
      && decodesTo (0b110100#6 ++ 31#5 ++ 29#5 ++ 0x7FFD#16) (.lld 29 31 0x7FFD#16)
      && decodesTo (0b111000#6 ++ 16#5 ++ 21#5 ++ 0xF1#16) (.sc 21 16 0x00F1#16)
      && decodesTo (0b111100#6 ++ 4#5 ++ 2#5 ++ 0x8002#16) (.scd 2 4 0x8002#16)
      && decodesTo (0b000000#6 ++ 0#15 ++ 30#5 ++ 0b001111#6) (.sync 30#5)
      && decodesTo (0b101111#6 ++ 16#5 ++ 8#5 ++ 0xF1#16) (.cache 8#5 16 0x00F1#16)
      && decodesTo (0b000000#6 ++ 0x8A5B5#20 ++ 0b001100#6) (.syscall 0x8A5B5#20)
      && decodesTo (0b000000#6 ++ 0x12345#20 ++ 0b001101#6) (.brk 0x12345#20)
      && decodesTo (0b000000#6 ++ 10#5 ++ 21#5 ++ 0x3#10 ++ 0b110000#6) (.tge 10 21 0x3#10)
      && decodesTo (0b000000#6 ++ 1#5 ++ 2#5 ++ 0x1B5#10 ++ 0b110001#6) (.tgeu 1 2 0x1B5#10)
      && decodesTo (0b000000#6 ++ 30#5 ++ 29#5 ++ 0x345#10 ++ 0b110010#6) (.tlt 30 29 0x345#10)
      && decodesTo (0b000000#6 ++ 10#5 ++ 21#5 ++ 0x3#10 ++ 0b110011#6) (.tltu 10 21 0x3#10)
      && decodesTo (0b000000#6 ++ 1#5 ++ 2#5 ++ 0x1B5#10 ++ 0b110100#6) (.teq 1 2 0x1B5#10)
      && decodesTo (0b000000#6 ++ 30#5 ++ 29#5 ++ 0x345#10 ++ 0b110110#6) (.tne 30 29 0x345#10)
      && decodesTo (0b000001#6 ++ 10#5 ++ 0b01000#5 ++ 0x1234#16) (.tgei 10 0x1234#16)
      && decodesTo (0b000001#6 ++ 1#5 ++ 0b01001#5 ++ 0x8001#16) (.tgeiu 1 0x8001#16)
      && decodesTo (0b000001#6 ++ 30#5 ++ 0b01010#5 ++ 0x7FFE#16) (.tlti 30 0x7FFE#16)
      && decodesTo (0b000001#6 ++ 10#5 ++ 0b01011#5 ++ 0x1234#16) (.tltiu 10 0x1234#16)) = true := by decide +kernel

/-- TEQI to CFC1. -/
theorem test_decode_g :
    (decodesTo (0b000001#6 ++ 1#5 ++ 0b01100#5 ++ 0x8001#16) (.teqi 1 0x8001#16)
      && decodesTo (0b000001#6 ++ 30#5 ++ 0b01110#5 ++ 0x7FFE#16) (.tnei 30 0x7FFE#16)
      && decodesTo (0b01000000000#11 ++ 21#5 ++ 17#5 ++ 0#11) (.mfc0 21 17)
      && decodesTo (0b01000000001#11 ++ 2#5 ++ 3#5 ++ 0#11) (.dmfc0 2 3)
      && decodesTo (0b01000000100#11 ++ 29#5 ++ 31#5 ++ 0#11) (.mtc0 29 31)
      && decodesTo (0b01000000101#11 ++ 21#5 ++ 17#5 ++ 0#11) (.dmtc0 21 17)
      && decodesTo (0b0100001#7 ++ 0#19 ++ 0b000001#6) .tlbr
      && decodesTo (0b0100001#7 ++ 0#19 ++ 0b000010#6) .tlbwi
      && decodesTo (0b0100001#7 ++ 0#19 ++ 0b000110#6) .tlbwr
      && decodesTo (0b0100001#7 ++ 0#19 ++ 0b001000#6) .tlbp
      && decodesTo (0b0100001#7 ++ 0#19 ++ 0b011000#6) .eret
      && decodesTo (0b110001#6 ++ 16#5 ++ 22#5 ++ 0xF1#16) (.lwc1 22 16 0x00F1#16)
      && decodesTo (0b110101#6 ++ 4#5 ++ 4#5 ++ 0x8002#16) (.ldc1 4 4 0x8002#16)
      && decodesTo (0b111001#6 ++ 31#5 ++ 29#5 ++ 0x7FFD#16) (.swc1 29 31 0x7FFD#16)
      && decodesTo (0b111101#6 ++ 16#5 ++ 22#5 ++ 0xF1#16) (.sdc1 22 16 0x00F1#16)
      && decodesTo (0b01000100000#11 ++ 2#5 ++ 2#5 ++ 0#11) (.mfc1 2 2)
      && decodesTo (0b01000100001#11 ++ 29#5 ++ 30#5 ++ 0#11) (.dmfc1 29 30)
      && decodesTo (0b01000100010#11 ++ 21#5 ++ 13#5 ++ 0#11) (.cfc1 21 13)) = true := by decide +kernel

/-- MTC1 to ABS.S. -/
theorem test_decode_h :
    (decodesTo (0b01000100100#11 ++ 2#5 ++ 2#5 ++ 0#11) (.mtc1 2 2)
      && decodesTo (0b01000100101#11 ++ 29#5 ++ 30#5 ++ 0#11) (.dmtc1 29 30)
      && decodesTo (0b01000100110#11 ++ 21#5 ++ 13#5 ++ 0#11) (.ctc1 21 13)
      && decodesTo (0b01000101000#11 ++ 0#3 ++ 0b00#2 ++ 0x8002#16) (.bc1f 0x8002#16)
      && decodesTo (0b01000101000#11 ++ 0#3 ++ 0b01#2 ++ 0x7FFD#16) (.bc1t 0x7FFD#16)
      && decodesTo (0b01000101000#11 ++ 0#3 ++ 0b10#2 ++ 0xF1#16) (.bc1fl 0x00F1#16)
      && decodesTo (0b01000101000#11 ++ 0#3 ++ 0b11#2 ++ 0x8002#16) (.bc1tl 0x8002#16)
      && decodesTo (0b01000110000#11 ++ 29#5 ++ 30#5 ++ 31#5 ++ 0b000000#6) (.addS 31 30 29)
      && decodesTo (0b01000110001#11 ++ 22#5 ++ 13#5 ++ 9#5 ++ 0b000000#6) (.addD 9 13 22)
      && decodesTo (0b01000110000#11 ++ 4#5 ++ 2#5 ++ 6#5 ++ 0b000001#6) (.subS 6 2 4)
      && decodesTo (0b01000110001#11 ++ 29#5 ++ 30#5 ++ 31#5 ++ 0b000001#6) (.subD 31 30 29)
      && decodesTo (0b01000110000#11 ++ 22#5 ++ 13#5 ++ 9#5 ++ 0b000010#6) (.mulS 9 13 22)
      && decodesTo (0b01000110001#11 ++ 4#5 ++ 2#5 ++ 6#5 ++ 0b000010#6) (.mulD 6 2 4)
      && decodesTo (0b01000110000#11 ++ 29#5 ++ 30#5 ++ 31#5 ++ 0b000011#6) (.divS 31 30 29)
      && decodesTo (0b01000110001#11 ++ 22#5 ++ 13#5 ++ 9#5 ++ 0b000011#6) (.divD 9 13 22)
      && decodesTo (0b01000110000#11 ++ 0#5 ++ 2#5 ++ 6#5 ++ 0b000100#6) (.sqrtS 6 2)
      && decodesTo (0b01000110001#11 ++ 0#5 ++ 30#5 ++ 31#5 ++ 0b000100#6) (.sqrtD 31 30)
      && decodesTo (0b01000110000#11 ++ 0#5 ++ 13#5 ++ 9#5 ++ 0b000101#6) (.absS 9 13)) = true := by decide +kernel

/-- ABS.D to CEIL.W.S. -/
theorem test_decode_i :
    (decodesTo (0b01000110001#11 ++ 0#5 ++ 2#5 ++ 6#5 ++ 0b000101#6) (.absD 6 2)
      && decodesTo (0b01000110000#11 ++ 0#5 ++ 30#5 ++ 31#5 ++ 0b000110#6) (.movS 31 30)
      && decodesTo (0b01000110001#11 ++ 0#5 ++ 13#5 ++ 9#5 ++ 0b000110#6) (.movD 9 13)
      && decodesTo (0b01000110000#11 ++ 0#5 ++ 2#5 ++ 6#5 ++ 0b000111#6) (.negS 6 2)
      && decodesTo (0b01000110001#11 ++ 0#5 ++ 30#5 ++ 31#5 ++ 0b000111#6) (.negD 31 30)
      && decodesTo (0b01000110000#11 ++ 0#5 ++ 13#5 ++ 9#5 ++ 0b001000#6) (.roundLS 9 13)
      && decodesTo (0b01000110001#11 ++ 0#5 ++ 2#5 ++ 6#5 ++ 0b001000#6) (.roundLD 6 2)
      && decodesTo (0b01000110000#11 ++ 0#5 ++ 30#5 ++ 31#5 ++ 0b001001#6) (.truncLS 31 30)
      && decodesTo (0b01000110001#11 ++ 0#5 ++ 13#5 ++ 9#5 ++ 0b001001#6) (.truncLD 9 13)
      && decodesTo (0b01000110000#11 ++ 0#5 ++ 2#5 ++ 6#5 ++ 0b001010#6) (.ceilLS 6 2)
      && decodesTo (0b01000110001#11 ++ 0#5 ++ 30#5 ++ 31#5 ++ 0b001010#6) (.ceilLD 31 30)
      && decodesTo (0b01000110000#11 ++ 0#5 ++ 13#5 ++ 9#5 ++ 0b001011#6) (.floorLS 9 13)
      && decodesTo (0b01000110001#11 ++ 0#5 ++ 2#5 ++ 6#5 ++ 0b001011#6) (.floorLD 6 2)
      && decodesTo (0b01000110000#11 ++ 0#5 ++ 30#5 ++ 31#5 ++ 0b001100#6) (.roundWS 31 30)
      && decodesTo (0b01000110001#11 ++ 0#5 ++ 13#5 ++ 9#5 ++ 0b001100#6) (.roundWD 9 13)
      && decodesTo (0b01000110000#11 ++ 0#5 ++ 2#5 ++ 6#5 ++ 0b001101#6) (.truncWS 6 2)
      && decodesTo (0b01000110001#11 ++ 0#5 ++ 30#5 ++ 31#5 ++ 0b001101#6) (.truncWD 31 30)
      && decodesTo (0b01000110000#11 ++ 0#5 ++ 13#5 ++ 9#5 ++ 0b001110#6) (.ceilWS 9 13)) = true := by decide +kernel

/-- CEIL.W.D to C.EQ.S. -/
theorem test_decode_j :
    (decodesTo (0b01000110001#11 ++ 0#5 ++ 2#5 ++ 6#5 ++ 0b001110#6) (.ceilWD 6 2)
      && decodesTo (0b01000110000#11 ++ 0#5 ++ 30#5 ++ 31#5 ++ 0b001111#6) (.floorWS 31 30)
      && decodesTo (0b01000110001#11 ++ 0#5 ++ 13#5 ++ 9#5 ++ 0b001111#6) (.floorWD 9 13)
      && decodesTo (0b01000110001#11 ++ 0#5 ++ 2#5 ++ 6#5 ++ 0b100000#6) (.cvtSD 6 2)
      && decodesTo (0b01000110100#11 ++ 0#5 ++ 30#5 ++ 31#5 ++ 0b100000#6) (.cvtSW 31 30)
      && decodesTo (0b01000110101#11 ++ 0#5 ++ 13#5 ++ 9#5 ++ 0b100000#6) (.cvtSL 9 13)
      && decodesTo (0b01000110000#11 ++ 0#5 ++ 2#5 ++ 6#5 ++ 0b100001#6) (.cvtDS 6 2)
      && decodesTo (0b01000110100#11 ++ 0#5 ++ 30#5 ++ 31#5 ++ 0b100001#6) (.cvtDW 31 30)
      && decodesTo (0b01000110101#11 ++ 0#5 ++ 13#5 ++ 9#5 ++ 0b100001#6) (.cvtDL 9 13)
      && decodesTo (0b01000110000#11 ++ 0#5 ++ 2#5 ++ 6#5 ++ 0b100100#6) (.cvtWS 6 2)
      && decodesTo (0b01000110001#11 ++ 0#5 ++ 30#5 ++ 31#5 ++ 0b100100#6) (.cvtWD 31 30)
      && decodesTo (0b01000110000#11 ++ 0#5 ++ 13#5 ++ 9#5 ++ 0b100101#6) (.cvtLS 9 13)
      && decodesTo (0b01000110001#11 ++ 0#5 ++ 2#5 ++ 6#5 ++ 0b100101#6) (.cvtLD 6 2)
      && decodesTo (0b01000110000#11 ++ 29#5 ++ 30#5 ++ 0#5 ++ 0b110000#6) (.cFS 30 29)
      && decodesTo (0b01000110001#11 ++ 22#5 ++ 13#5 ++ 0#5 ++ 0b110000#6) (.cFD 13 22)
      && decodesTo (0b01000110000#11 ++ 4#5 ++ 2#5 ++ 0#5 ++ 0b110001#6) (.cUnS 2 4)
      && decodesTo (0b01000110001#11 ++ 29#5 ++ 30#5 ++ 0#5 ++ 0b110001#6) (.cUnD 30 29)
      && decodesTo (0b01000110000#11 ++ 22#5 ++ 13#5 ++ 0#5 ++ 0b110010#6) (.cEqS 13 22)) = true := by decide +kernel

/-- C.EQ.D to C.NGL.S. -/
theorem test_decode_k :
    (decodesTo (0b01000110001#11 ++ 4#5 ++ 2#5 ++ 0#5 ++ 0b110010#6) (.cEqD 2 4)
      && decodesTo (0b01000110000#11 ++ 29#5 ++ 30#5 ++ 0#5 ++ 0b110011#6) (.cUeqS 30 29)
      && decodesTo (0b01000110001#11 ++ 22#5 ++ 13#5 ++ 0#5 ++ 0b110011#6) (.cUeqD 13 22)
      && decodesTo (0b01000110000#11 ++ 4#5 ++ 2#5 ++ 0#5 ++ 0b110100#6) (.cOltS 2 4)
      && decodesTo (0b01000110001#11 ++ 29#5 ++ 30#5 ++ 0#5 ++ 0b110100#6) (.cOltD 30 29)
      && decodesTo (0b01000110000#11 ++ 22#5 ++ 13#5 ++ 0#5 ++ 0b110101#6) (.cUltS 13 22)
      && decodesTo (0b01000110001#11 ++ 4#5 ++ 2#5 ++ 0#5 ++ 0b110101#6) (.cUltD 2 4)
      && decodesTo (0b01000110000#11 ++ 29#5 ++ 30#5 ++ 0#5 ++ 0b110110#6) (.cOleS 30 29)
      && decodesTo (0b01000110001#11 ++ 22#5 ++ 13#5 ++ 0#5 ++ 0b110110#6) (.cOleD 13 22)
      && decodesTo (0b01000110000#11 ++ 4#5 ++ 2#5 ++ 0#5 ++ 0b110111#6) (.cUleS 2 4)
      && decodesTo (0b01000110001#11 ++ 29#5 ++ 30#5 ++ 0#5 ++ 0b110111#6) (.cUleD 30 29)
      && decodesTo (0b01000110000#11 ++ 22#5 ++ 13#5 ++ 0#5 ++ 0b111000#6) (.cSfS 13 22)
      && decodesTo (0b01000110001#11 ++ 4#5 ++ 2#5 ++ 0#5 ++ 0b111000#6) (.cSfD 2 4)
      && decodesTo (0b01000110000#11 ++ 29#5 ++ 30#5 ++ 0#5 ++ 0b111001#6) (.cNgleS 30 29)
      && decodesTo (0b01000110001#11 ++ 22#5 ++ 13#5 ++ 0#5 ++ 0b111001#6) (.cNgleD 13 22)
      && decodesTo (0b01000110000#11 ++ 4#5 ++ 2#5 ++ 0#5 ++ 0b111010#6) (.cSeqS 2 4)
      && decodesTo (0b01000110001#11 ++ 29#5 ++ 30#5 ++ 0#5 ++ 0b111010#6) (.cSeqD 30 29)
      && decodesTo (0b01000110000#11 ++ 22#5 ++ 13#5 ++ 0#5 ++ 0b111011#6) (.cNglS 13 22)) = true := by decide +kernel

/-- C.NGL.D to SDC2. -/
theorem test_decode_l :
    (decodesTo (0b01000110001#11 ++ 4#5 ++ 2#5 ++ 0#5 ++ 0b111011#6) (.cNglD 2 4)
      && decodesTo (0b01000110000#11 ++ 29#5 ++ 30#5 ++ 0#5 ++ 0b111100#6) (.cLtS 30 29)
      && decodesTo (0b01000110001#11 ++ 22#5 ++ 13#5 ++ 0#5 ++ 0b111100#6) (.cLtD 13 22)
      && decodesTo (0b01000110000#11 ++ 4#5 ++ 2#5 ++ 0#5 ++ 0b111101#6) (.cNgeS 2 4)
      && decodesTo (0b01000110001#11 ++ 29#5 ++ 30#5 ++ 0#5 ++ 0b111101#6) (.cNgeD 30 29)
      && decodesTo (0b01000110000#11 ++ 22#5 ++ 13#5 ++ 0#5 ++ 0b111110#6) (.cLeS 13 22)
      && decodesTo (0b01000110001#11 ++ 4#5 ++ 2#5 ++ 0#5 ++ 0b111110#6) (.cLeD 2 4)
      && decodesTo (0b01000110000#11 ++ 29#5 ++ 30#5 ++ 0#5 ++ 0b111111#6) (.cNgtS 30 29)
      && decodesTo (0b01000110001#11 ++ 22#5 ++ 13#5 ++ 0#5 ++ 0b111111#6) (.cNgtD 13 22)
      && decodesTo (0b010010#6 ++ 0#26) .cop2
      && decodesTo (0b110010#6 ++ 31#5 ++ 29#5 ++ 0x7FFD#16) (.lwc2 29 31 0x7FFD#16)
      && decodesTo (0b110110#6 ++ 16#5 ++ 21#5 ++ 0xF1#16) (.ldc2 21 16 0x00F1#16)
      && decodesTo (0b111010#6 ++ 4#5 ++ 2#5 ++ 0x8002#16) (.swc2 2 4 0x8002#16)
      && decodesTo (0b111110#6 ++ 31#5 ++ 29#5 ++ 0x7FFD#16) (.sdc2 29 31 0x7FFD#16)) = true := by decide +kernel

/-- Fields a format shows as 0 are not looked at (R308, D82). -/
theorem test_decode_ignored :
    (decodesTo (0b000000#6 ++ 31#5 ++ 2#5 ++ 3#5 ++ 5#5 ++ 0b000000#6) (.sll 3 2 5)
      && decodesTo (0b000000#6 ++ 1#5 ++ 2#5 ++ 3#5 ++ 31#5 ++ 0b100000#6) (.add 3 1 2)
      && decodesTo (0b010000#6 ++ 0b1#1 ++ 0x7FFFF#19 ++ 0b011000#6) .eret) = true := by decide +kernel

/-- Reserved words are refused, each under its own name (R331, R325). -/
theorem test_decode_reserved :
    decode 0xEC000000#32 = .error .reservedMajor ∧ decode 0x00000001#32 = .error .reservedSpecial
      ∧ decode 0x04040000#32 = .error .reservedRegimm ∧ decode 0x40400000#32 = .error .reservedCop0
      ∧ decode 0x44600000#32 = .error .reservedCop1 ∧ decode 0x46000010#32 = .error .unimplementedCop1 := by decide +kernel

/-! ### The spec's vectors (`95_test_vectors.md`), one step each -/

/-- The standard state K: cold reset, then Status 0, at 0xFFFF_FFFF_8000_1000. -/
def K : State := { State.reset with cop0 := { Cop0.reset with status := 0 }, pc := 0xFFFFFFFF80001000#64 }

def State.withStatus (w : Word) (s : State) : State := { s with cop0 := { s.cop0 with status := w } }

/-- K with these general registers. -/
def KR (regs : List (RegIdx × DWord)) : State := regs.foldl (fun s p => s.setX p.1 p.2) K

/-- K with these bytes at PA 0x100 and x[4] there through kseg0 (§2.4). -/
def KM (bs : List Byte) : State := State.setX 4 0xFFFFFFFF80000100#64 { K with mem := Memory.writeBytes [] 0x100 bs }

/-- The bytes of §2.4. -/
def vectorBytes : List Byte := [0x11#8, 0x22#8, 0x33#8, 0x44#8, 0x80#8, 0x66#8, 0x77#8, 0x88#8]

/-- User mode with every gate closed. -/
def KU (regs : List (RegIdx × DWord)) : State := State.withStatus 0x00000010#32 (KR regs)

/-- A next state of which the check holds. -/
def check (r : Result) (p : State → Bool) : Bool :=
  match r with
  | .next t => p t
  | _ => false

theorem check_next {r : Result} {p : State → Bool} (h : check r p = true) : ∃ t, r = .next t ∧ p t = true := by
  cases r with
  | next t => exact ⟨t, rfl, h⟩
  | fault f => cases h
  | refused q => cases h

/-- The word run at `s` writes `v` to `rd` and goes on to pc + 4. -/
def writes (w : Word) (s : State) (rd : RegIdx) (v : DWord) : Bool :=
  check (executeWord w s) fun t => decide (t.x rd = v ∧ t.pc = s.pc + 4#64)

/-- The word run at `s` writes HI and LO. -/
def writesHiLo (w : Word) (s : State) (h l : DWord) (cycles : Nat) : Bool :=
  check (executeWord w s) fun t => decide (t.hi = h ∧ t.lo = l ∧ t.stepCycles = s.stepCycles + cycles)

/-- The word run at `s` takes an exception with this Cause, EPC the pc, at the general vector, with the general registers kept. -/
def traps (w : Word) (s : State) (cause : Word) : Bool :=
  check (executeWord w s) fun t =>
    decide (t.cop0.cause = cause ∧ t.cop0.epc = s.pc ∧ t.pc = 0xFFFFFFFF80000180#64 ∧ bit t.cop0.status 1 = true ∧ t.gpr = s.gpr)

/-- V-INT-1 to 4, 7, 9, 32. -/
theorem test_int_overflow :
    (traps 0x00221820#32 (KR [(1, 0x7FFFFFFF#64), (2, 1#64)]) 0x30#32
      && traps 0x00221822#32 (KR [(1, 0xFFFFFFFF80000000#64), (2, 1#64)]) 0x30#32
      && traps 0x20220001#32 (KR [(1, 0x7FFFFFFF#64)]) 0x30#32
      && traps 0x0022182C#32 (KR [(1, 0x7FFFFFFFFFFFFFFF#64), (2, 1#64)]) 0x30#32
      && traps 0x0022182D#32 (KU []) 0x28#32
      && traps 0x00220020#32 (KR [(1, 0x7FFFFFFF#64), (2, 1#64)]) 0x30#32) = true := by decide +kernel

/-- V-INT-2, 5, 6, 8, 10, 31, 33. -/
theorem test_int_add :
    (writes 0x00221821#32 (KR [(1, 0x7FFFFFFF#64), (2, 1#64)]) 3 0xFFFFFFFF80000000#64
      && writes 0x24220001#32 (KR [(1, 0x7FFFFFFF#64)]) 2 0xFFFFFFFF80000000#64
      && writes 0x00221821#32 (KR [(1, 0x1234567800000005#64), (2, 0xFFFFFFFFFFFFFFFD#64)]) 3 2#64
      && writes 0x0022182D#32 (KR [(1, 0x7FFFFFFFFFFFFFFF#64), (2, 1#64)]) 3 0x8000000000000000#64
      && writes 0x6422FFFF#32 (KR [(1, 0xFFFFFFFF#64)]) 2 0xFFFFFFFE#64
      && writes 0x00220021#32 (KR [(1, 5#64), (2, 6#64)]) 0 0#64
      && writes 0x00210821#32 (KR [(1, 3#64)]) 1 6#64) = true := by decide +kernel

/-- V-INT-11 to 15. -/
theorem test_int_logic :
    (writes 0x00221824#32 (KR [(1, 0xF0F0#64), (2, 0xFF00#64)]) 3 0xF000#64
      && writes 0x00221825#32 (KR [(1, 0xF0F0#64), (2, 0xFF00#64)]) 3 0xFFF0#64
      && writes 0x00221826#32 (KR [(1, 0xF0F0#64), (2, 0xFF00#64)]) 3 0x0FF0#64
      && writes 0x00221827#32 (KR [(1, 0xF0F0#64), (2, 0xFF00#64)]) 3 0xFFFFFFFFFFFF000F#64
      && writes 0x30228000#32 (KR [(1, 0xFFFFFFFFFFFFFFFF#64)]) 2 0x8000#64
      && writes 0x34228000#32 (KR []) 2 0x8000#64
      && writes 0x3822FFFF#32 (KR [(1, 0xFFFFFFFFFFFF0000#64)]) 2 0xFFFFFFFFFFFFFFFF#64
      && writes 0x3C028000#32 (KR []) 2 0xFFFFFFFF80000000#64) = true := by decide +kernel

/-- V-INT-16 to 19. -/
theorem test_int_set :
    (writes 0x0022182A#32 (KR [(1, 0xFFFFFFFFFFFFFFFF#64), (2, 1#64)]) 3 1#64
      && writes 0x0022182B#32 (KR [(1, 0xFFFFFFFFFFFFFFFF#64), (2, 1#64)]) 3 0#64
      && writes 0x28220000#32 (KR [(1, 0xFFFFFFFFFFFFFFFF#64)]) 2 1#64
      && writes 0x2C22FFFF#32 (KR [(1, 5#64)]) 2 1#64) = true := by decide +kernel

/-- V-INT-20 to 25, and SRA of a source that is not sign-extended (R427). -/
theorem test_int_shift :
    (writes 0x00021FC0#32 (KR [(2, 1#64)]) 3 0xFFFFFFFF80000000#64
      && writes 0x00021842#32 (KR [(2, 0xFFFFFFFF80000000#64)]) 3 0x40000000#64
      && writes 0x00021843#32 (KR [(2, 0xFFFFFFFF80000000#64)]) 3 0xFFFFFFFFC0000000#64
      && writes 0x00221804#32 (KR [(1, 33#64), (2, 1#64)]) 3 2#64
      && writes 0x00221806#32 (KR [(1, 31#64), (2, 0xFFFFFFFF80000000#64)]) 3 1#64
      && writes 0x00221807#32 (KR [(1, 4#64), (2, 0xFFFFFFFF80000000#64)]) 3 0xFFFFFFFFF8000000#64
      && writes 0x00021903#32 (KR [(2, 0x1234567880000000#64)]) 3 0xFFFFFFFF88000000#64) = true := by decide +kernel

/-- V-INT-26 to 30. -/
theorem test_int_dshift :
    (writes 0x00021938#32 (KR [(2, 1#64)]) 3 0x10#64
      && writes 0x0002183C#32 (KR [(2, 1#64)]) 3 0x100000000#64
      && writes 0x00021FFE#32 (KR [(2, 0x8000000000000000#64)]) 3 1#64
      && writes 0x00021FFF#32 (KR [(2, 0x8000000000000000#64)]) 3 0xFFFFFFFFFFFFFFFF#64
      && writes 0x00221817#32 (KR [(1, 65#64), (2, 0x8000000000000000#64)]) 3 0xC000000000000000#64) = true := by decide +kernel

/-- V-MD-1 to 3, 11, 12, 15, with the EXTRA_CYCLES of R1040. -/
theorem test_mul :
    (writesHiLo 0x00220018#32 (KR [(1, 0x7FFFFFFF#64), (2, 0x7FFFFFFF#64)]) 0x3FFFFFFF#64 1#64 4
      && writesHiLo 0x00220018#32 (KR [(1, 0xFFFFFFFFFFFFFFFF#64), (2, 1#64)]) 0xFFFFFFFFFFFFFFFF#64 0xFFFFFFFFFFFFFFFF#64 4
      && writesHiLo 0x00220019#32 (KR [(1, 0xFFFFFFFFFFFFFFFF#64), (2, 0xFFFFFFFFFFFFFFFF#64)]) 0xFFFFFFFFFFFFFFFE#64 1#64 4
      && writesHiLo 0x0022001C#32 (KR [(1, 0x100000000#64), (2, 0x100000000#64)]) 1#64 0#64 7
      && writesHiLo 0x0022001D#32 (KR [(1, 0xFFFFFFFFFFFFFFFF#64), (2, 0xFFFFFFFFFFFFFFFF#64)]) 0xFFFFFFFFFFFFFFFE#64 1#64 7
      && traps 0x0022001C#32 (KU []) 0x28#32) = true := by decide +kernel

/-- V-MD-4 to 8. -/
theorem test_div :
    (writesHiLo 0x0022001A#32 (KR [(1, 7#64), (2, 0xFFFFFFFFFFFFFFFE#64)]) 1#64 0xFFFFFFFFFFFFFFFD#64 36
      && writesHiLo 0x0022001A#32 (KR [(1, 0xFFFFFFFFFFFFFFF9#64), (2, 2#64)]) 0xFFFFFFFFFFFFFFFF#64 0xFFFFFFFFFFFFFFFD#64 36
      && writesHiLo 0x0022001A#32 (KR [(1, 0xFFFFFFFF80000000#64), (2, 0xFFFFFFFFFFFFFFFF#64)]) 0#64 0xFFFFFFFF80000000#64 36
      && writesHiLo 0x0022001A#32 (KR [(1, 5#64)]) 5#64 0xFFFFFFFFFFFFFFFF#64 36
      && writesHiLo 0x0022001A#32 (KR [(1, 0xFFFFFFFFFFFFFFFB#64)]) 0xFFFFFFFFFFFFFFFB#64 1#64 36) = true := by decide +kernel

/-- V-MD-9, 10, 13, 14. -/
theorem test_divu_ddiv :
    (writesHiLo 0x0022001B#32 (KR [(1, 0xFFFFFFFFFFFFFFFF#64), (2, 2#64)]) 1#64 0x7FFFFFFF#64 36
      && writesHiLo 0x0022001B#32 (KR [(1, 0xFFFFFFFFFFFFFFFB#64)]) 0xFFFFFFFFFFFFFFFB#64 0xFFFFFFFFFFFFFFFF#64 36
      && writesHiLo 0x0022001E#32 (KR [(1, 0x8000000000000000#64), (2, 0xFFFFFFFFFFFFFFFF#64)]) 0#64 0x8000000000000000#64 68
      && writesHiLo 0x0022001F#32 (KR [(1, 10#64), (2, 3#64)]) 1#64 3#64 68) = true := by decide +kernel

/-- V-MD-16, 17. -/
theorem test_hilo :
    (writesHiLo 0x00200011#32 (KR [(1, 0x1234#64)]) 0x1234#64 0#64 0
      && writesHiLo 0x00200013#32 (KR [(1, 0x5678#64)]) 0#64 0x5678#64 0
      && writes 0x00001810#32 { K with hi := 0x1234#64 } 3 0x1234#64
      && writes 0x00001812#32 { K with lo := 0x5678#64 } 3 0x5678#64) = true := by decide +kernel

/-- After a word that transfers control: the branch state, the pc, the target if one is registered, and x[31]. -/
def transfers (w : Word) (s : State) (b : BranchState) (pc target link : DWord) : Bool :=
  check (executeWord w s) fun t =>
    decide (t.branchState = b ∧ t.pc = pc ∧ (b = .delaySlotTaken → t.branchTarget = target) ∧ t.x 31 = link)

/-- V-CTL-1 to 6. -/
theorem test_branch :
    (transfers 0x10220004#32 (KR [(1, 7#64), (2, 7#64)]) .delaySlotTaken 0xFFFFFFFF80001004#64 0xFFFFFFFF80001014#64 0#64
      && transfers 0x14220004#32 (KR [(1, 7#64), (2, 7#64)]) .delaySlotNotTaken 0xFFFFFFFF80001004#64 0#64 0#64
      && transfers 0x1820FFFF#32 (KR []) .delaySlotTaken 0xFFFFFFFF80001004#64 0xFFFFFFFF80001000#64 0#64
      && transfers 0x1C20FFFF#32 (KR []) .delaySlotNotTaken 0xFFFFFFFF80001004#64 0#64 0#64
      && transfers 0x04300002#32 (KR [(1, 1#64)]) .delaySlotNotTaken 0xFFFFFFFF80001004#64 0#64 0xFFFFFFFF80001008#64
      && transfers 0x04110002#32 (KR []) .delaySlotTaken 0xFFFFFFFF80001004#64 0xFFFFFFFF8000100C#64 0xFFFFFFFF80001008#64) = true := by
  decide +kernel

/-- V-CTL-7 to 12. -/
theorem test_likely_jump :
    (transfers 0x54220002#32 (KR [(1, 3#64), (2, 3#64)]) .noBranch 0xFFFFFFFF80001008#64 0#64 0#64
      && transfers 0x54220002#32 (KR [(1, 3#64), (2, 4#64)]) .delaySlotTaken 0xFFFFFFFF80001004#64 0xFFFFFFFF8000100C#64 0#64
      && transfers 0x08000100#32 (KR []) .delaySlotTaken 0xFFFFFFFF80001004#64 0xFFFFFFFF80000400#64 0#64
      && transfers 0x08000000#32 { K with pc := 0xFFFFFFFF8FFFFFFC#64 } .delaySlotTaken 0xFFFFFFFF90000000#64 0xFFFFFFFF90000000#64 0#64
      && transfers 0x0C000100#32 (KR []) .delaySlotTaken 0xFFFFFFFF80001004#64 0xFFFFFFFF80000400#64 0xFFFFFFFF80001008#64
      && check (executeWord 0x00802009#32 (KR [(4, 0xFFFFFFFF80002000#64)])) fun t =>
        decide (t.branchTarget = 0xFFFFFFFF80002000#64 ∧ t.x 4 = 0xFFFFFFFF80001008#64)) = true := by decide +kernel

/-- V-CTL-13 (the fetch of a misaligned target), 14 (a branch in a delay slot), 15 (an overflow in a delay slot). -/
theorem test_slot :
    (check (step { K with pc := 0xFFFFFFFF80001004#64, branchState := .performPending, branchTarget := 0xFFFFFFFF80002002#64 })
        (fun t => decide (t.cop0.epc = 0xFFFFFFFF80002002#64 ∧ t.cop0.badVAddr = 0xFFFFFFFF80002002#64 ∧ t.cop0.cause = 0x10#32))
      && transfers 0x10000008#32 { K with branchState := .delaySlotTaken } .performPending 0xFFFFFFFF80001000#64 0#64 0#64
      && check (executeWord 0x00221820#32
          { KR [(1, 0x7FFFFFFF#64), (2, 1#64)] with pc := 0xFFFFFFFF80001004#64, branchState := .delaySlotTaken })
        (fun t => decide (t.cop0.epc = 0xFFFFFFFF80001000#64 ∧ t.cop0.cause = 0x80000030#32 ∧ t.branchState = .noBranch
          ∧ t.pc = 0xFFFFFFFF80000180#64))) = true := by decide +kernel

/-- V-LS-1, 2, 3, 5 to 8. -/
theorem test_loads :
    (writes 0x80820001#32 (KM vectorBytes) 2 0x22#64
      && writes 0x80820001#32 ((KM vectorBytes).setX 4 0xFFFFFFFF80000103#64) 2 0xFFFFFFFFFFFFFF80#64
      && writes 0x90820001#32 ((KM vectorBytes).setX 4 0xFFFFFFFF80000103#64) 2 0x80#64
      && writes 0x94820002#32 ((KM vectorBytes).setX 4 0xFFFFFFFF80000102#64) 2 0x8066#64
      && writes 0x8C820000#32 ((KM vectorBytes).setX 4 0xFFFFFFFF80000104#64) 2 0xFFFFFFFF80667788#64
      && writes 0x9C820000#32 ((KM vectorBytes).setX 4 0xFFFFFFFF80000104#64) 2 0x80667788#64
      && writes 0xDC820000#32 (KM vectorBytes) 2 0x1122334480667788#64) = true := by decide +kernel

/-- The word run at `s` takes an exception with this Cause and this BadVAddr. -/
def trapsAt (w : Word) (s : State) (cause : Word) (a : DWord) : Bool :=
  traps w s cause && check (executeWord w s) fun t => decide (t.cop0.badVAddr = a)

/-- V-LS-4, 9, 13, 18, 24. -/
theorem test_access_faults :
    (trapsAt 0x84820001#32 (KM vectorBytes) 0x10#32 0xFFFFFFFF80000101#64
      && trapsAt 0xAC820002#32 (KM vectorBytes) 0x14#32 0xFFFFFFFF80000102#64
      && trapsAt 0x8C820000#32 (KU [(4, 0xFFFFFFFF80000100#64)]) 0x10#32 0xFFFFFFFF80000100#64
      && trapsAt 0xE0820000#32 (KR [(4, 0xFFFFFFFF80000101#64)]) 0x14#32 0xFFFFFFFF80000101#64
      && traps 0xBC900000#32 (KU [(4, 0xFFFFFFFF80000100#64)]) 0x2C#32) = true := by decide +kernel

/-- R811, R212: an address error of a partial access records the effective address (in User mode's 32-bit strategy its sign-extended low
word). By log entry 32, a TLB miss of one records the aligned address. -/
theorem test_partial_faults :
    (trapsAt 0x88820001#32 (KU [(4, 0xFFFFFFFF80000100#64)]) 0x10#32 0xFFFFFFFF80000101#64
      && trapsAt 0xB8820002#32 (KU [(4, 0x1280000100#64)]) 0x14#32 0xFFFFFFFF80000102#64
      && check (executeWord 0xB4820005#32 (KR [(4, 0x4000#64)])) fun t =>
        decide (t.cop0.cause = 0x0C#32 ∧ t.cop0.badVAddr = 0x4000#64 ∧ t.pc = 0xFFFFFFFF80000000#64)) = true := by decide +kernel

/-- The first `n` bytes seen at PA 0x100 after the word. -/
def leaves (w : Word) (s : State) (bs : List Byte) : Bool :=
  check (executeWord w s) fun t => decide ((List.range bs.length).map (fun i => t.viewByte (0x100#32 + BitVec.ofNat 32 i)) = bs)

/-- V-LS-10 to 12, and the examples of R570 and R571's shape: SB and SD. -/
theorem test_stores :
    (leaves 0xA4820002#32 ((KM vectorBytes).setX 2 0xAABB#64) [0x11#8, 0x22#8, 0xAA#8, 0xBB#8]
      && leaves 0xA8820001#32 ((KM vectorBytes).setX 2 0xAABBCCDD#64) [0x11#8, 0xAA#8, 0xBB#8, 0xCC#8]
      && leaves 0xB8820001#32 ((KM vectorBytes).setX 2 0xAABBCCDD#64) [0xCC#8, 0xDD#8, 0x33#8, 0x44#8]
      && leaves 0xA0820001#32 ((KM vectorBytes).setX 2 0xAABB#64) [0x11#8, 0xBB#8, 0x33#8, 0x44#8]
      && leaves 0xFC820000#32 ((KM vectorBytes).setX 2 0x0102030405060708#64)
        [0x01#8, 0x02#8, 0x03#8, 0x04#8, 0x05#8, 0x06#8, 0x07#8, 0x08#8]) = true := by decide +kernel

/-- The examples of R564 and R565: LWL and LWR. -/
theorem test_unaligned_loads :
    (writes 0x88820001#32 ((KM [0x11#8, 0x22#8, 0x33#8, 0x44#8]).setX 2 0xAABBCCDD#64) 2 0x00000000223344DD#64
      && writes 0x98820001#32 ((KM [0x11#8, 0x22#8, 0x33#8, 0x44#8]).setX 2 0xAABBCCDD#64) 2 0xFFFFFFFFAABB1122#64) = true := by
  decide +kernel

/-- V-LS-15 to 17. -/
theorem test_ll_sc :
    (check (executeWord 0xC0820000#32 (KM [0#8, 0#8, 0#8, 5#8]))
        (fun t => decide (t.x 2 = 5#64 ∧ t.llBit = true ∧ t.cop0.llAddr = 0x10#32))
      && writes 0xE0820000#32 { (KM [0#8, 0#8, 0#8, 5#8]).setX 2 7#64 with llBit := true } 2 1#64
      && leaves 0xE0820000#32 { (KM [0#8, 0#8, 0#8, 5#8]).setX 2 7#64 with llBit := true } [0#8, 0#8, 0#8, 7#8]
      && writes 0xE0820000#32 ((KM [0#8, 0#8, 0#8, 5#8]).setX 2 7#64) 2 0#64
      && leaves 0xE0820000#32 ((KM [0#8, 0#8, 0#8, 5#8]).setX 2 7#64) [0#8, 0#8, 0#8, 5#8]) = true := by decide +kernel

/-- A dirty data line at PA 0x100 whose bytes are all 0xEE. -/
def KL : State :=
  State.setX 4 0xFFFFFFFF80000100#64
    { K with dcache := K.dcache.set 16 ⟨true, true, 0#20, Vector.replicate 16 0xEE#8⟩ }

/-- V-LS-19 and 20 (the watch registers). -/
theorem test_watch :
    (traps 0xAC820000#32 { KM vectorBytes with cop0 := { K.cop0 with watchLo := 0x101#32 } } 0x5C#32
      && writes 0x8C820000#32 { KM vectorBytes with cop0 := { K.cop0 with watchLo := 0x101#32 } } 2 0x11223344#64) = true := by
  decide +kernel

/-- V-LS-21 to 23 and 25. -/
theorem test_cache :
    (check (executeWord 0xBC990000#32 KL) (fun t =>
        decide (t.mem.read 0x100 = 0xEE#8 ∧ t.mem.read 0x10F = 0xEE#8 ∧ (t.dLine 0x100#32).valid = true ∧ (t.dLine 0x100#32).dirty = false))
      && check (executeWord 0xBC910000#32 KL) (fun t => decide (t.mem.read 0x100 = 0#8 ∧ (t.dLine 0x100#32).valid = false))
      && check (executeWord 0xBC950000#32 KL) (fun t => decide (t.mem.read 0x100 = 0xEE#8 ∧ (t.dLine 0x100#32).valid = false))
      && writes 0x0000000F#32 K 0 0#64) = true := by decide +kernel

/-- V-SYS-1 to 7, 22 to 24. -/
theorem test_traps :
    (traps 0x0000000C#32 K 0x20#32
      && traps 0x0000000D#32 K 0x24#32
      && traps 0x00220034#32 (KR [(1, 9#64), (2, 9#64)]) 0x34#32
      && writes 0x00220034#32 (KR [(1, 9#64), (2, 8#64)]) 0 0#64
      && writes 0x04280000#32 (KR [(1, 0xFFFFFFFFFFFFFFFF#64)]) 0 0#64
      && traps 0x042E0000#32 (KR [(1, 1#64)]) 0x34#32
      && traps 0x40026000#32 (KU []) 0x2C#32
      && traps 0xEC000000#32 K 0x28#32
      && traps 0x48000000#32 K 0x2000002C#32
      && traps 0x48000000#32 (State.withStatus 0x40000000#32 K) 0x28#32) = true := by decide +kernel

/-- V-SYS-8 to 11, 13. -/
theorem test_cop0_moves :
    (writes 0x40026000#32 (State.withStatus 0x10000010#32 K) 2 0x10000010#64
      && check (executeWord 0x40825800#32 { KR [(2, 100#64)] with cop0 := { K.cop0 with cause := 0x8000#32 } }) (fun t =>
        decide (t.cop0.compare = 100#32 ∧ t.cop0.cause = 0#32
          ∧ (t.sched.find .compareInterrupt).map Event.remaining = some 200))
      && check (executeWord 0x40826800#32 (KR [(2, 0x300#64)])) (fun t => decide (t.cop0.cause = 0x300#32))
      && check (executeWord 0x40820800#32 (KR [(2, 0xFFFFFFFF#64)])) (fun t => decide (t.cop0.random = 31#32))
      && writes 0x40227000#32 { K with cop0 := { K.cop0 with epc := 0xFFFFFFFF80000180#64 } } 2 0xFFFFFFFF80000180#64) = true := by
  decide +kernel

/-- V-SYS-12 and 19, with the update of Random at the end of the step (R115). -/
theorem test_random :
    (check (step (State.withFetchWord { KR [(2, 3#64)] with cop0 := { K.cop0 with random := 7#32 } } 32 0x40823000))
        (fun t => decide (t.cop0.wired = 3#32 ∧ t.cop0.random = 30#32))
      && check (step (State.withFetchWord { K with cop0 := { K.cop0 with random := 12#32, entryHi := 0x2000#64 } } 32 0x42000006))
        (fun t => decide (t.tlb[12].vpn2 = 1#27 ∧ t.tlb[11].vpn2 = 0#27 ∧ t.cop0.random = 11#32))) = true := by decide +kernel

/-- The entry of V-SYS-14. -/
def vectorEntry : TlbEntry := ⟨0#12, 1#27, 0#2, 0#8, true, ⟨0x100#24, 3#3, true, true⟩, ⟨0#24, 0#3, false, false⟩⟩

/-- V-SYS-14 to 18. -/
theorem test_tlb :
    (check (executeWord 0x42000002#32
          { K with cop0 := { K.cop0 with entryHi := 0x2000#64, entryLo0 := 0x401F#64, entryLo1 := 1#64 } })
        (fun t => decide (t.tlb[0] = vectorEntry))
      && check (executeWord 0x42000001#32 { K with tlb := K.tlb.set 0 vectorEntry }) (fun t =>
        decide (t.cop0.entryHi = 0x2000#64 ∧ t.cop0.entryLo0 = 0x401F#64 ∧ t.cop0.entryLo1 = 1#64 ∧ t.cop0.pageMask = 0#32))
      && check (executeWord 0x42000002#32 { K with cop0 := { K.cop0 with entryHi := 0x2000#64, entryLo0 := 0x401F#64 } })
        (fun t => decide (t.tlb[0].g = false))
      && check (executeWord 0x42000008#32 { K with tlb := K.tlb.set 0 vectorEntry, cop0 := { K.cop0 with entryHi := 0x2000#64 } })
        (fun t => decide (t.cop0.index = 0#32))
      && check (executeWord 0x42000008#32 { K with tlb := K.tlb.set 0 vectorEntry, cop0 := { K.cop0 with entryHi := 0x4000#64 } })
        (fun t => decide (t.cop0.index = 0x80000000#32))) = true := by decide +kernel

/-- V-SYS-20 and 21. -/
theorem test_eret :
    (check (executeWord 0x42000018#32 { K with cop0 := { K.cop0 with status := 0xFF03#32, epc := 0xFFFFFFFF80000404#64 }, llBit := true })
        (fun t => decide (t.pc = 0xFFFFFFFF80000404#64 ∧ t.cop0.status = 0xFF01#32 ∧ t.llBit = false))
      && check (executeWord 0x42000018#32
          { K with cop0 := { K.cop0 with status := 6#32, epc := 0xFFFFFFFF80000400#64, errorEpc := 0xFFFFFFFFBFC00100#64 } })
        (fun t => decide (t.pc = 0xFFFFFFFFBFC00100#64 ∧ t.cop0.status = 2#32))) = true := by decide +kernel

/-- K with CU1 = 1, FR = 0 and these words in floating-point registers. -/
def KF (regs : List (RegIdx × Word)) : State :=
  regs.foldl (fun s p => s.setFgr32 p.1 p.2) (State.withStatus 0x20000000#32 K)

/-- A floating-point word leaves this in FGR32(n), and FCSR so. -/
def leavesFgr (w : Word) (s : State) (n : RegIdx) (v : Word) (fcsr : Word) : Bool :=
  check (executeWord w s) fun t => decide (t.fgr32 n = v ∧ t.fcsr = fcsr)

/-- V-FP-1 to 7. -/
theorem test_fp_arith :
    (traps 0x46041180#32 K 0x1000002C#32
      && leavesFgr 0x46041180#32 (KF [(2, 0x3F800000#32), (4, 0x40000000#32)]) 6 0x40400000#32 0#32
      && leavesFgr 0x46041183#32 (KF [(2, 0x3F800000#32)]) 6 0x7F800000#32 0x8020#32
      && traps 0x46041183#32 { KF [(2, 0x3F800000#32)] with fcsr := 0x400#32 } 0x3C#32
      && check (executeWord 0x46201184#32 (State.setFgr64 2 0x4010000000000000#64 (State.withStatus 0x24000000#32 K)))
        (fun t => decide (t.fgr64 6 = 0x4000000000000000#64))
      && leavesFgr 0x46001124#32 (KF [(2, 0x40200000#32)]) 4 2#32 0x1004#32
      && leavesFgr 0x46041032#32 (KF [(2, 0x3F800000#32), (4, 0x3F800000#32)]) 6 0#32 0x800000#32) = true := by decide +kernel

/-- V-FP-8 to 12. -/
theorem test_fp_moves :
    (transfers 0x45010002#32 { KF [] with fcsr := 0x800000#32 } .delaySlotTaken 0xFFFFFFFF80001004#64 0xFFFFFFFF8000100C#64 0#64
      && writes 0x44031000#32 (KF [(2, 0xBFC00000#32)]) 3 0xFFFFFFFFBFC00000#64
      && check (executeWord 0x44C3F800#32 ((KF []).setX 3 3#64)) (fun t => decide (t.fcsr = 3#32))
      && leavesFgr 0xC4820000#32 (State.withStatus 0x20000000#32 (KM [0x3F#8, 0x80#8, 0#8, 0#8])) 2 0x3F800000#32 0#32
      && traps 0xC4820002#32 (State.withStatus 0x20000000#32 (KM [])) 0x10#32) = true := by decide +kernel

/-- The examples of R742's and R743's shape: TRUNC.W.S of -2.7 and FLOOR.W.S of -2.1 (§1.5). -/
theorem test_fp_round :
    (leavesFgr 0x4600110D#32 (KF [(2, 0xC02CCCCD#32)]) 4 0xFFFFFFFE#32 0x1004#32
      && leavesFgr 0x4600110F#32 (KF [(2, 0xC0066666#32)]) 4 0xFFFFFFFD#32 0x1004#32) = true := by decide +kernel

/-- V-EXC-2 to 7: vectors, EXL, and the two refills. -/
theorem test_vectors :
    (check (executeWord 0x0000000C#32 (State.withStatus 0x00400000#32 K)) (fun t => decide (t.pc = 0xFFFFFFFFBFC00380#64))
      && check (executeWord 0x0000000C#32 { State.withStatus 2#32 K with cop0 := { K.cop0 with status := 2#32, epc := 0x1234#64 } })
        (fun t => decide (t.cop0.epc = 0x1234#64 ∧ t.cop0.cause = 0x20#32 ∧ t.pc = 0xFFFFFFFF80000180#64))
      && check (executeWord 0x8C024000#32 K) (fun t => decide (t.pc = 0xFFFFFFFF80000000#64 ∧ t.cop0.cause = 8#32
        ∧ t.cop0.badVAddr = 0x4000#64 ∧ t.cop0.context = 0x20#64 ∧ t.cop0.entryHi = 0x4000#64))
      && check (executeWord 0x8C024000#32 (State.withStatus 0x80#32 K)) (fun t => decide (t.pc = 0xFFFFFFFF80000080#64
        ∧ t.cop0.cause = 8#32 ∧ t.cop0.xContext = 0x20#64))
      && check (executeWord 0x8C024000#32 (State.withStatus 2#32 K)) (fun t => decide (t.pc = 0xFFFFFFFF80000180#64))
      && check (executeWord 0xAC024000#32 K) (fun t => decide (t.pc = 0xFFFFFFFF80000000#64 ∧ t.cop0.cause = 0xC#32))) = true := by
  decide +kernel

/-- K with the VI interrupt raised and unmasked at the aggregator (§1.4, V-EXC-19). -/
def KI : State := State.withStatus 0x401#32 { K with mi := { K.mi with intr := 8#6, mask := 8#6 } }

/-- V-EXC-19, 21 and §1.4: an interrupt is taken at the boundary, and EXL masks it. -/
theorem test_interrupt :
    (check (step (KI.withFetchWord 32 0x0000000C)) (fun t =>
        decide (t.cop0.epc = K.pc ∧ readCop0 13 t = 0x400#64 ∧ t.cop0.status = 0x403#32 ∧ t.pc = 0xFFFFFFFF80000180#64))
      && check (step ((State.withStatus 0x403#32 KI).withFetchWord 32 0x00000000)) (fun t => decide (t.pc = K.pc + 4#64))
      && check (step ((State.withStatus 0x1#32 KI).withFetchWord 32 0x00000000)) (fun t => decide (t.pc = K.pc + 4#64))) = true := by
  decide +kernel

/-- V-TMR-1 to 4. -/
theorem test_timer :
    compareDelay 0#32 10#32 = 20 ∧ compareDelay 5#32 5#32 = 2 ^ 33
      ∧ (State.advanceEvents 20 (State.scheduleCompare 0 { K with cop0 := { K.cop0 with compare := 10#32 } })).cop0.cause = 0x8000#32
      ∧ (State.reset.sched.find .compareInterrupt).map Event.remaining = some (2 ^ 33)
      ∧ (State.reset.sched.find .viHalfline).map Event.remaining = some 2976 := by decide +kernel

/-- §1.3 and V-SCH-1 to 4, 5: the order of events, replacement, and the compensation for elapsed cycles. -/
theorem test_scheduler :
    ((Scheduler.add (.collab 1) 50 0 (Scheduler.add (.collab 0) 100 0 ⟨[], 0⟩)).events.map fun e => (e.kind, e.remaining))
        = [(.collab 1, 50), (.collab 0, 100)]
      ∧ ((Scheduler.add (.collab 1) 10 0 (Scheduler.add (.collab 0) 10 0 ⟨[], 0⟩)).events.map Event.kind) = [.collab 0, .collab 1]
      ∧ ((Scheduler.add (.collab 0) 30 0 (Scheduler.add (.collab 0) 10 0 ⟨[], 0⟩)).events.map Event.remaining) = [30]
      ∧ ((Scheduler.change (.collab 1) 5 0 (Scheduler.add (.collab 0) 10 0 ⟨[], 0⟩)).events.map Event.remaining) = [5, 10]
      ∧ ((Scheduler.add .piDma 100 7 ⟨[], 0⟩).events.map Event.remaining) = [107] := by decide +kernel

/-- V-DEV-1 to 5, 8, 10 to 13. -/
theorem test_devices :
    (raiseInterrupt (.mi .vi) K).mi.intr = 8#6
      ∧ check (hostCall (.writeReg 0x0430000C#32 0x80#32) K) (fun t => decide (t.mi.mask = 8#6)) = true
      ∧ check (hostCall (.writeReg 0x0430000C#32 0x40#32) KI) (fun t => decide (t.mi.mask = 0#6)) = true
      ∧ check (hostCall (.writeReg 0x0430000C#32 0xC0#32) K) (fun t => decide (t.mi.mask = 8#6)) = true
      ∧ check (hostCall (.writeReg 0x04400010#32 0x55#32) KI) (fun t => decide (t.mi.intr = 0#6)) = true
      ∧ (State.viFire { K with vi := { K.vi with vSync := 2#32, vIntr := 2#32, vCurrent := 1#10 } }).vi.vCurrent = 2#10
      ∧ (State.viFire { K with vi := { K.vi with vSync := 2#32, vIntr := 2#32, vCurrent := 1#10 } }).mi.intr = 8#6
      ∧ (State.viFire { K with vi := { K.vi with vSync := 2#32, vCurrent := 2#10 } }).outputs = [.frameReady]
      ∧ check (hostCall (.writeReg 0x04800008#32 0x1234#32) K) (fun t => decide (t.si.raw[2] = 0x1234#32)) = true
      ∧ check (hostCall (.writeReg 0x04500004#32 0x100#32) K) (fun t => decide (t.ai.cur = none)) = true := by decide +kernel

/-- V-MEM-2, 4, 5, 6 and 10: K0 = 2, ERL, kseg1, a device register and the uncached path beside a dirty line. -/
theorem test_memory_map :
    (check (executeWord 0x8C820000#32 { KM vectorBytes with cop0 := { K.cop0 with config := 0x7006E462#32 } })
        (fun t => decide (t.dcache = K.dcache ∧ t.x 2 = 0x11223344#64))
      && writes 0x8C020100#32 (State.withStatus 4#32 (KM vectorBytes)) 2 0x11223344#64
      && writes 0x90820003#32 ((KM vectorBytes).setX 4 0xFFFFFFFFA0000100#64) 2 0x44#64
      && writes 0x8C820008#32 (KI.setX 4 0xFFFFFFFFA4300000#64) 2 8#64
      && writes 0x8C820000#32 (KL.setX 4 0xFFFFFFFFA0000100#64) 2 0#64) = true := by decide +kernel

/-- V-RST-1, 2 and 4. -/
theorem test_reset :
    State.reset.pc = 0xFFFFFFFFBFC00000#64 ∧ readCop0 12 State.reset = 0x00400004#64 ∧ readCop0 16 State.reset = 0x7006E463#64
      ∧ readCop0 15 State.reset = 0xB22#64
      ∧ check (hostCall .softReset { K with branchState := .performPending, branchTarget := 0x1234#64 }) (fun t =>
        decide (t.cop0.status = 0x00500004#32 ∧ t.cop0.errorEpc = 0x1234#64 ∧ t.pc = 0xFFFFFFFFBFC00000#64)) = true
      ∧ check (hostCall (.loadFirmware [0#8]) K) (fun t => decide (t.mem = K.mem ∧ t.outputs = [.firmwareRefused] ∧ t.initialised = false)) = true
      ∧ check (hostCall .powerOn { K with firmwareLoaded := false, initialised := false }) (fun t =>
        decide (t.initialised = false ∧ t.pc = K.pc)) = true := by
  decide +kernel

/-- The answer is this refusal. -/
def refuses (r : Result) (q : Refusal) : Bool :=
  match r with
  | .refused p => decide (p = q)
  | _ => false

/-- D81: a line that Create_Dirty_Exclusive made in VI's window (kseg0) is refused though it hits, in loads and stores. -/
theorem test_window_hit :
    (check (executeWord 0xBC8D0000#32 (KR [(4, 0xFFFFFFFF84400000#64)])) fun t =>
      (t.dLine 0x04400000#32).hits 0x04400000#32 && refuses (executeWord 0x8C820000#32 t) .cachedWindow
        && refuses (executeWord 0xA0820003#32 t) .cachedWindow) = true := by decide +kernel

/-- D91, R907: an advance under way goes on before anything else, and an iteration whose budget is 0 executes nothing. -/
theorem test_loop :
    (check (step { K with advancing := true, sched := ⟨[⟨.siDma, 0#64, 0⟩], 1⟩, inputs := [.powerOn] })
        (fun t => decide (t.advancing = false ∧ t.mi.intr = 2#6 ∧ t.inputs = [.powerOn]))
      && check (step { KR [] with cpuCarry := 5000 }) (fun t => decide (t.pc = K.pc ∧ t.cpuCarry = 0))) = true := by decide +kernel

/-- R12: where FP, FP_UNIMPL and EXTRA_CYCLES name an operand or a word, they are followed. -/
theorem test_parameters :
    (let s := KF [(2, 0x3F800000#32), (4, 0x40000000#32)]
      let o : FpOperands := ⟨.add, .s, 0x3F800000#64, 0x40000000#64, .nearest⟩
      leavesFgr 0x46041180#32 { s with cfg := { s.cfg with fp := [⟨o, 0x12345678#64, ⟨false, false, false, false, true⟩⟩] } } 6 0x12345678#32 0x1004#32
        && traps 0x46041180#32 { s with cfg := { s.cfg with fpUnimpl := [⟨o, true⟩] } } 0x3C#32
        && check (executeWord 0x46041180#32 { s with cfg := { s.cfg with extra := [⟨0x46041180#32, 9⟩] } })
          (fun t => decide (t.stepCycles = s.stepCycles + 9))
        && check (executeWord 0x46041180#32 s) (fun t => decide (t.stepCycles = s.stepCycles + 2))) = true := by decide +kernel

/-- The first step after reset runs the word placed where it fetches (R1004). -/
theorem test_first_step :
    check (step (State.reset.withFetchWord 32 0x3C028000))
      (fun t => decide (t.x 2 = 0xFFFFFFFF80000000#64 ∧ t.pc = 0xFFFFFFFFBFC00004#64)) = true := by decide +kernel

/-! ### Witnesses: for each statement with hypotheses, states and operands that meet them, at the boundaries of its clauses -/

/-- Supervisor and User states by their Status; 64-bit operations available with SX or UX. -/
def KS : State := State.withStatus 0x08#32 K
def KSX : State := State.withStatus 0x48#32 K
def KUX : State := State.withStatus 0x30#32 K
def KUC : State := State.withStatus 0x70000010#32 K
def KX : State := State.withStatus 0x80#32 K

/-- LUI x[2], 0x8000 placed where the first step after reset fetches. -/
def KW : State := State.reset.withFetchWord 32 0x3C028000

theorem check_some {r : Result} (h : check r (fun _ => true) = true) : ∃ t, r = .next t := by
  obtain ⟨t, ht, _⟩ := check_next h
  exact ⟨t, ht⟩

/-- Each call, with and without a firmware image, and an image of each kind. -/
theorem wit_ColdReset :
    K.advancing = false ∧ ({ K with inputs := [.powerOn, .setStop true] } : State).inputs = .powerOn :: [.setStop true]
      ∧ K.firmwareLoaded = true ∧ ({ K with inputs := [.powerOn], firmwareLoaded := false } : State).firmwareLoaded = false
      ∧ K.inputs = [] ∧ ({ K with initialised := false } : State).initialised = false
      ∧ (List.replicate 1984 1#8).length = 1984 ∧ K.mem.wf = true ∧ ([] : List Byte).length ≠ 1984 := by
  exact ⟨rfl, rfl, rfl, rfl, rfl, rfl, List.length_replicate, by decide +kernel, by decide⟩

theorem wit_SoftReset :
    K.advancing = false ∧ ({ K with inputs := [.softReset] } : State).inputs = .softReset :: []
      ∧ ({ K with inputs := [.softReset], branchState := .performPending, branchTarget := 0x1234#64 } : State).inputs = .softReset :: [] :=
  ⟨rfl, rfl, rfl⟩

theorem wit_StepKeepsInv : ∃ t, KW.Inv ∧ step KW = .next t := by
  obtain ⟨t, ht⟩ := check_some (r := step KW) (by decide +kernel)
  refine ⟨t, ⟨by decide +kernel, by decide +kernel, ?_, by decide +kernel, ?_⟩, ht⟩
  · constructor <;> decide +kernel
  · intro e he
    have hz : KW.tlb = Vector.replicate 32 TlbEntry.zero := by decide +kernel
    rw [hz] at he
    have : e = TlbEntry.zero := by simpa using he
    subst this
    constructor <;> decide

theorem wit_StepKeepsSchedInv : ∃ t, KW.SchedInv ∧ KW.NoTimeWrap ∧ step KW = .next t := by
  obtain ⟨t, ht⟩ := check_some (r := step KW) (by decide +kernel)
  obtain ⟨u, hu, hc⟩ := check_next (r := cpuStep KW) (p := fun t => decide (t.runCycles.toNat < 2 ^ 62)) (by decide +kernel)
  have hs : KW.sched = ⟨[⟨.viHalfline, 2976#64, 1⟩, ⟨.compareInterrupt, 0x200000000#64, 0⟩], 2⟩ := by decide +kernel
  refine ⟨t, ⟨?_, ⟨?_, ?_⟩, by unfold FitsTime; decide +kernel, ?_, ?_⟩, ⟨by decide +kernel, fun v hv => ?_⟩, ht⟩
  · rw [hs]
    constructor
    · simp [Event.before, Event.remaining]
    · decide
    · simp
  · rw [hs]; decide
  · intro _; rw [hs]; simp [Event.remaining]
  · intro q h
    have : KW.ai.cur = none := by decide +kernel
    rw [this] at h; cases h
  · intro q h
    have : KW.ai.next = none := by decide +kernel
    rw [this] at h; cases h
  · rw [hu] at hv; cases hv; exact of_decide_eq_true hc

theorem wit_DecodeEncode :
    (Instr.sll 31 31 31).wf = true ∧ (Instr.dsra32 0 0 0).wf = true ∧ (Instr.j 0x3FFFFFF#26).wf = true ∧ Instr.eret.wf = true := by decide

theorem wit_ReservedEncodings :
    (decode 0x00000000#32 = .ok (.sll 0 0 0) ∧ K.excLatch = false)
      ∧ decode 0x4C000000#32 = .error .reservedMajor ∧ decode 0xEFFFFFFF#32 = .error .reservedMajor
      ∧ decode 0x00000001#32 = .error .reservedSpecial ∧ decode 0x0000003D#32 = .error .reservedSpecial
      ∧ decode 0x04040000#32 = .error .reservedRegimm ∧ decode 0x041F0000#32 = .error .reservedRegimm
      ∧ decode 0x40400000#32 = .error .reservedCop0 ∧ decode 0x4200003F#32 = .error .reservedCop0
      ∧ decode 0x44600000#32 = .error .reservedCop1 ∧ decode 0x47E00000#32 = .error .reservedCop1
      ∧ decode 0x46000010#32 = .error .unimplementedCop1 ∧ decode 0x4600002F#32 = .error .unimplementedCop1
      ∧ decode 0x46800022#32 = .error .unimplementedCop1
      ∧ (K.mode = .kernel ∧ (KU []).mode = .user ∧ (KU []).cu 0 = false ∧ KUC.cu 1 = true ∧ K.cu 1 = false ∧ KUC.excLatch = false) := by
  decide +kernel

theorem running_KW : KW.Running :=
  ⟨by decide +kernel, by decide +kernel, by decide +kernel, by decide +kernel, Or.inl (by decide +kernel), by decide +kernel⟩

theorem wit_StepRunsDecoded :
    KW.Running ∧ KW.atBoundary.interruptPending = false ∧ (∃ u, fetchWord KW.atBoundary.pc KW.atBoundary = .ok 0x3C028000#32 u)
      ∧ decode 0x3C028000#32 = .ok (.lui 2 0x8000#16)
      ∧ (let s : State := { K with cpuCarry := 5000 }
        s.advancing = false ∧ s.inputs = [] ∧ s.initialised = true ∧ s.stop = false ∧ s.cpuBudget ≤ s.runCycles.toNat) :=
  ⟨running_KW, by decide +kernel, ⟨_, rfl⟩, by decide +kernel, by decide +kernel⟩

/-- K with the instruction line of PA 0x1000 valid. -/
def KH : State := { K with icache := K.icache.set 128 ⟨true, 1#20, Vector.replicate 32 0xEE#8⟩ }

theorem wit_FetchReadsWord :
    (({ K with pc := 0xFFFFFFFFA0000000#64 } : State).accessible
        ∧ Machine.translate 0xFFFFFFFFA0000000#64 .fetch { K with pc := 0xFFFFFFFFA0000000#64 }
          = .ok (0#32, false) { K with pc := 0xFFFFFFFFA0000000#64 } ∧ K.region 0#32 = .rdram)
      ∧ (Machine.translate State.reset.pc .fetch State.reset = .ok (0x1FC00000#32, false) State.reset
        ∧ State.reset.region 0x1FC00000#32 = .pifRom ∧ busError Config.default 0x1FC00000#32 .fetch = false)
      ∧ (K.pc.toNat % 4 = 0 ∧ Machine.translate K.pc .fetch K = .ok (0x1000#32, true) K ∧ K.region 0x1000#32 = .rdram
        ∧ (K.iLine 0x1000#32).hits 0x1000#32 = false)
      ∧ (Machine.translate 0xFFFFFFFF8000101C#64 .fetch KH = .ok (0x101C#32, true) KH ∧ (KH.iLine 0x101C#32).hits 0x101C#32 = true)
      ∧ (Machine.translate 0xFFFFFFFF9FC007BC#64 .fetch K = .ok (0x1FC007BC#32, true) K ∧ K.region 0x1FC007BC#32 = .pifRom
        ∧ (K.iLine 0x1FC007BC#32).hits 0x1FC007BC#32 = false)
      ∧ (Machine.translate 0xFFFFFFFF80400000#64 .fetch K = .ok (0x400000#32, true) K ∧ K.region 0x400000#32 = .openBus)
      ∧ (Machine.translate 0xFFFFFFFFA4400034#64 .fetch K = .ok (0x04400034#32, false) K
        ∧ K.reaches .fetch 0x04400034#32 4 false)
      ∧ (Machine.translate 0xFFFFFFFF84400000#64 .fetch K = .ok (0x04400000#32, true) K ∧ ∃ d, K.region 0x04400000#32 = .device d)
      ∧ (Machine.translate 0xFFFFFFFF84000000#64 .fetch K = .ok (0x04000000#32, true) K ∧ ∃ k, K.region 0x04000000#32 = .collab k) :=
  ⟨⟨⟨by decide +kernel, by decide +kernel⟩, rfl, by decide +kernel⟩, ⟨rfl, by decide +kernel, by decide +kernel⟩,
    ⟨by decide +kernel, rfl, by decide +kernel, by decide +kernel⟩, ⟨rfl, by decide +kernel⟩,
    ⟨rfl, by decide +kernel, by decide +kernel⟩, ⟨rfl, by decide +kernel⟩,
    ⟨rfl, Or.inr ⟨.vi, by decide +kernel, by decide, rfl, Or.inr (by decide)⟩⟩, ⟨rfl, .vi, by decide +kernel⟩,
    ⟨rfl, .rsp, by decide +kernel⟩⟩

theorem wit_InterruptAtBoundary :
    (KI.Running ∧ KI.atBoundary.interruptPending = true)
      ∧ ({ KI with branchState := .performPending, stop := true, runCycles := 1#64 } : State).Running
      ∧ ({ KI with branchState := .performPending, stop := true, runCycles := 1#64 } : State).atBoundary.interruptPending = true :=
  ⟨⟨⟨by decide +kernel, by decide +kernel, by decide +kernel, by decide +kernel, Or.inl (by decide +kernel), by decide +kernel⟩,
      by decide +kernel⟩,
    ⟨by decide +kernel, by decide +kernel, by decide +kernel, by decide +kernel, Or.inr (by decide +kernel), by decide +kernel⟩,
    by decide +kernel⟩

theorem wit_PendingBranch :
    ({ K with branchState := .performPending } : State).branchState = .performPending ∧ K.advancing = false ∧ K.inputs = []
      ∧ K.runCycles.toNat < K.cpuBudget := ⟨rfl, rfl, rfl, by decide +kernel⟩

theorem wit_MisalignedFetch :
    (({ K with pc := 0xFFFFFFFF80001001#64 } : State).Running ∧ ({ K with pc := 0xFFFFFFFF80001001#64 } : State).accessible
        ∧ ({ K with pc := 0xFFFFFFFF80001001#64 } : State).atBoundary.interruptPending = false
        ∧ ({ K with pc := 0xFFFFFFFF80001001#64 } : State).atBoundary.pc.toNat % 4 ≠ 0)
      ∧ ({ KX with pc := 3#64 } : State).is64 = true ∧ ({ KX with pc := 3#64 } : State).atBoundary.pc.toNat % 4 ≠ 0
      ∧ ({ KX with pc := 3#64 } : State).atBoundary.interruptPending = false :=
  ⟨⟨⟨rfl, by decide +kernel, rfl, rfl, Or.inl rfl, by decide +kernel⟩, ⟨by decide +kernel, by decide +kernel⟩, by decide +kernel, by decide +kernel⟩,
    by decide +kernel, by decide +kernel, by decide +kernel⟩

/-- A step of each kind, an instruction that completes and one that raises, and words of the rows of the table. -/
theorem wit_StepCharges :
    (∃ t, cpuStep KW = .next t) ∧ KW.cop0.random ≠ KW.cop0.wired
      ∧ (∃ t, cpuStep { KW with cop0 := { KW.cop0 with random := 5#32, wired := 5#32 } } = .next t)
      ∧ (∃ t, exec (.mult 6 7) K = .next t ∧ t.excLatch = false) ∧ (∃ t, exec (.syscall 0) K = .next t ∧ t.excLatch = true)
      ∧ Config.default.extra = [] ∧ decode 0x00C70018#32 = .ok (.mult 6 7) ∧ decode 0x46241182#32 = .ok (.mulD 6 2 4) :=
  ⟨check_some (by decide +kernel), by decide +kernel, check_some (by decide +kernel), ⟨_, rfl, rfl⟩, ⟨_, rfl, rfl⟩, rfl,
    by decide +kernel, by decide +kernel⟩

theorem wit_TrapEntry :
    ({ K with excLatch := true } : State).excLatch = true ∧ K.excLatch = false ∧ (State.withStatus 2#32 K).exl = true ∧ K.exl = false
      ∧ ({ K with branchState := .delaySlotTaken } : State).exl = false
      ∧ ({ K with branchState := .delaySlotNotTaken } : State).exl = false ∧ K.branchState = .noBranch := by decide +kernel

theorem wit_Eret :
    (K.excLatch = false ∧ K.cop0Usable ∧ K.erl = false) ∧ ((State.withStatus 4#32 K).cop0Usable ∧ (State.withStatus 4#32 K).erl = true)
      ∧ KUC.cop0Usable ∧ (KU []).cop0Denied ∧ KS.cop0Denied :=
  ⟨⟨by decide +kernel, Or.inl (by decide +kernel), by decide +kernel⟩, ⟨Or.inl (by decide +kernel), by decide +kernel⟩,
    Or.inr (by decide +kernel), ⟨Or.inr (by decide +kernel), by decide +kernel⟩, ⟨Or.inl (by decide +kernel), by decide +kernel⟩⟩

theorem wit_SyscallBreak : K.excLatch = false ∧ ({ K with branchState := .delaySlotTaken } : State).excLatch = false := by decide +kernel

/-- Each comparison holds somewhere and fails somewhere, at equal operands and one beside. -/
theorem wit_Traps :
    K.excLatch = false
      ∧ (K.x 1).toInt ≤ (K.x 2).toInt ∧ ¬(K.x 1).toInt < (K.x 2).toInt ∧ K.x 1 = K.x 2
      ∧ ((KR [(1, 0xFFFFFFFFFFFFFFFF#64)]).x 1).toInt < ((KR [(1, 0xFFFFFFFFFFFFFFFF#64)]).x 2).toInt
      ∧ ((KR [(1, 0xFFFFFFFFFFFFFFFF#64)]).x 2).toNat < ((KR [(1, 0xFFFFFFFFFFFFFFFF#64)]).x 1).toNat
      ∧ (BitVec.ofInt 64 (0x8000#16 : Half).toInt).toNat ≤ ((KR [(1, 0xFFFFFFFFFFFF8000#64)]).x 1).toNat
      ∧ ((KR [(1, 0xFFFFFFFFFFFF8000#64)]).x 1).toInt = (0x8000#16 : Half).toInt
      ∧ ((KR [(1, 0xFFFFFFFFFFFF7FFF#64)]).x 1).toInt < (0x8000#16 : Half).toInt := by decide +kernel

theorem wit_Cop0Privilege :
    (KU []).excLatch = false ∧ (KU []).cop0Denied ∧ KS.cop0Denied ∧ Instr.privileged .eret = true
      ∧ Instr.privileged (.cache 31 31 0xFFFF#16) = true :=
  ⟨by decide +kernel, ⟨Or.inr (by decide +kernel), by decide +kernel⟩, ⟨Or.inl (by decide +kernel), by decide +kernel⟩, rfl, rfl⟩

theorem wit_Gate64 :
    ((KU []).excLatch = false ∧ Instr.gated64 (.dadd 1 2 3) = true ∧ (KU []).ops64Denied) ∧ KS.ops64Denied
      ∧ (Instr.gated64 (.dmfc0 1 2) = true ∧ KUC.ops64Denied ∧ KUC.cu 0 = true ∧ KUC.cu 1 = true) ∧ Instr.gated64 (.dmtc1 1 2) = true :=
  ⟨⟨by decide +kernel, rfl, Or.inr (by decide +kernel)⟩, Or.inl (by decide +kernel),
    ⟨rfl, Or.inr (by decide +kernel), by decide +kernel, by decide +kernel⟩, rfl⟩

theorem wit_Cop2Absent : K.excLatch = false ∧ K.cu 2 = false ∧ KUC.cu 2 = true ∧ KUC.excLatch = false := by decide +kernel

theorem wit_DoublewordOps : (K.excLatch = false ∧ K.ops64) ∧ KUX.ops64 ∧ KSX.ops64 ∧ ((KU []).excLatch = false ∧ (KU []).ops64Denied)
    ∧ KS.ops64Denied :=
  ⟨⟨by decide +kernel, Or.inl (by decide +kernel)⟩, Or.inr (Or.inr (by decide +kernel)), Or.inr (Or.inl (by decide +kernel)),
    ⟨by decide +kernel, Or.inr (by decide +kernel)⟩, Or.inl (by decide +kernel)⟩

/-- Sums one inside and one outside each end of the range. -/
theorem wit_TrappingAdds :
    K.excLatch = false
      ∧ ((low32 ((KR [(1, 0x7FFFFFFF#64)]).x 1)).toInt + (0#16 : Half).toInt ≤ 2 ^ (32 - 1) - 1)
      ∧ (2 ^ (32 - 1) - 1 < (low32 ((KR [(1, 0x7FFFFFFF#64)]).x 1)).toInt + (1#16 : Half).toInt)
      ∧ (-(2 ^ (32 - 1)) ≤ (low32 ((KR [(1, 0x80000000#64)]).x 1)).toInt + (0#16 : Half).toInt)
      ∧ ((low32 ((KR [(1, 0x80000000#64)]).x 1)).toInt + (0xFFFF#16 : Half).toInt < -(2 ^ (32 - 1)))
      ∧ (2 ^ (64 - 1) - 1 < ((KR [(1, 0x7FFFFFFFFFFFFFFF#64)]).x 1).toInt + (1#16 : Half).toInt)
      ∧ (((KR [(1, 0x8000000000000000#64)]).x 1).toInt - ((KR [(2, 1#64)]).x 2).toInt < -(2 ^ (64 - 1))) := by decide +kernel

theorem wit_MultiplyDivide :
    K.excLatch = false ∧ (low32 (K.x 2)).toInt = 0 ∧ (K.x 2).toInt = 0 ∧ (K.x 2).toNat % 2 ^ 32 = 0 ∧ (K.x 2).toNat = 0
      ∧ (low32 ((KR [(2, 0xFFFFFFFFFFFFFFFF#64)]).x 2)).toInt ≠ 0 ∧ ((KR [(2, 0x100000000#64)]).x 2).toNat ≠ 0
      ∧ ((KR [(2, 0x100000000#64)]).x 2).toNat % 2 ^ 32 = 0 ∧ ((KR [(2, 0x8000000000000000#64)]).x 2).toInt ≠ 0
      ∧ (KR [(2, 0x8000000000000000#64)]).excLatch = false := by decide +kernel

/-- Outside a delay slot, and in one of a taken and of an untaken branch. -/
theorem wit_Jumps : K.branchState = .noBranch ∧ ({ K with branchState := .delaySlotTaken } : State).branchState ≠ .noBranch
    ∧ ({ K with branchState := .delaySlotNotTaken } : State).branchState ≠ .noBranch := by decide +kernel

/-- Conditions that hold and fail, outside a delay slot and in one. -/
theorem wit_Branches :
    (K.branchState = .noBranch ∧ decide (K.x 1 = K.x 2) = true ∧ decide (K.x 1 ≠ K.x 2) = false ∧ decide ((K.x 1).toInt ≤ 0) = true
        ∧ decide (0 < (K.x 1).toInt) = false)
      ∧ decide (((KR [(31, 0x8000000000000000#64)]).x 31).toInt < 0) = true
      ∧ ({ K with branchState := .delaySlotTaken } : State).branchState ≠ .noBranch := by decide +kernel

theorem wit_LikelyBranches :
    (K.branchState = .noBranch ∧ decide (K.x 1 = K.x 2) = true ∧ decide (K.x 1 ≠ K.x 2) = false)
      ∧ ({ K with branchState := .delaySlotNotTaken } : State).branchState ≠ .noBranch := by decide +kernel

/-- `State.reaches` as one test. -/
def reachesB (kind : AccessKind) (n : Nat) (pa : Word) (c : Bool) (s : State) : Bool :=
  match s.region pa with
  | .device d => decide (kind ≠ .store) && !c && (s.cfg.deviceMirroring || decide (pa.toNat % 0x100000 + n ≤ 4 * d.slots))
  | r => r.isPlain

theorem reaches_of {kind : AccessKind} {n : Nat} {pa : Word} {c : Bool} {s : State} (h : reachesB kind n pa c s = true) :
    s.reaches kind pa n c := by
  unfold reachesB at h
  split at h
  · rename_i d hd
    simp only [Bool.and_eq_true, Bool.or_eq_true, Bool.not_eq_true', decide_eq_true_eq] at h
    exact Or.inr ⟨d, hd, h.1.1, h.1.2, h.2⟩
  · exact Or.inl h

/-- The conditions of `Ready`, but for the translation, as one test. -/
def readyB (kind : AccessKind) (ea : DWord) (n : Nat) (pa : Word) (c : Bool) (s : State) : Bool :=
  s.mem.wf && decide (s.mode ≠ .reserved) && decide (¬(s.mode = .user ∧ s.re = true)) && decide (ea.toNat % n = 0)
    && !s.watchHits kind pa && !busError s.cfg pa kind && reachesB kind n pa c s
    && (!c || (s.dLine pa).hits pa || !((s.dLine pa).valid && (s.dLine pa).dirty)
      || (s.region (dWritebackAddress pa (s.dLine pa))).isPlain)

theorem ready_of {kind : AccessKind} {ea : DWord} {n : Nat} {pa : Word} {c : Bool} {s : State} (h : readyB kind ea n pa c s = true)
    (ht : Machine.translate ea kind s = .ok (pa, c) s) : Ready kind ea n pa c s := by
  simp only [readyB, Bool.and_eq_true, Bool.or_eq_true, Bool.not_eq_true', decide_eq_true_eq] at h
  obtain ⟨⟨⟨⟨⟨⟨⟨h1, h2⟩, h3⟩, h4⟩, h5⟩, h6⟩, h7⟩, h8⟩ := h
  refine ⟨h1, ⟨h2, h3⟩, h4, ht, h5, h6, reaches_of h7, fun hc => ?_⟩
  rcases h8 with ((h8 | h8) | h8) | h8
  · rw [hc] at h8; cases h8
  · exact Or.inl h8
  · exact Or.inr (Or.inl (by simpa using h8))
  · exact Or.inr (Or.inr h8)

/-- The last bytes of RDRAM through kseg0 (a miss), a dirty line that hits, one that is evicted (its index, another tag), and the first
bytes of RDRAM through kseg1. -/
theorem ready_places (kind : AccessKind) (hk : kind = .load ∨ kind = .store) :
    Ready kind (effectiveAddress 4 0xFFFF#16 (KR [(4, 0xFFFFFFFF80400000#64)])) 1 0x3FFFFF#32 true (KR [(4, 0xFFFFFFFF80400000#64)])
      ∧ Ready kind (effectiveAddress 4 0xFFFE#16 (KR [(4, 0xFFFFFFFF80400000#64)])) 2 0x3FFFFE#32 true (KR [(4, 0xFFFFFFFF80400000#64)])
      ∧ Ready kind (effectiveAddress 4 0xFFFC#16 (KR [(4, 0xFFFFFFFF80400000#64)])) 4 0x3FFFFC#32 true (KR [(4, 0xFFFFFFFF80400000#64)])
      ∧ Ready kind (effectiveAddress 4 0xFFF8#16 (KR [(4, 0xFFFFFFFF80400000#64)])) 8 0x3FFFF8#32 true (KR [(4, 0xFFFFFFFF80400000#64)])
      ∧ Ready kind (effectiveAddress 4 8#16 KL) 8 0x108#32 true KL
      ∧ Ready kind (effectiveAddress 4 0x2000#16 KL) 4 0x2100#32 true KL
      ∧ Ready kind (effectiveAddress 4 0x8000#16 (KR [(4, 0xFFFFFFFFA0008000#64)])) 4 0#32 false (KR [(4, 0xFFFFFFFFA0008000#64)]) := by
  rcases hk with rfl | rfl
  · exact ⟨ready_of (by decide +kernel) rfl, ready_of (by decide +kernel) rfl, ready_of (by decide +kernel) rfl,
      ready_of (by decide +kernel) rfl, ready_of (by decide +kernel) rfl, ready_of (by decide +kernel) rfl,
      ready_of (by decide +kernel) rfl⟩
  · exact ⟨ready_of (by decide +kernel) rfl, ready_of (by decide +kernel) rfl, ready_of (by decide +kernel) rfl,
      ready_of (by decide +kernel) rfl, ready_of (by decide +kernel) rfl, ready_of (by decide +kernel) rfl,
      ready_of (by decide +kernel) rfl⟩

/-- The PIF's memories, unclaimed addresses and, uncached, registers: PIF ROM through kseg0 and its last doubleword through kseg1, the last
bytes of PIF RAM, the addresses above RDRAM, the last words of VI's block (and its last doubleword and byte). -/
def KP (a : DWord) : State := KR [(4, a)]

theorem ready_elsewhere :
    Ready .load (effectiveAddress 4 0#16 (KP 0xFFFFFFFF9FC00000#64)) 8 0x1FC00000#32 true (KP 0xFFFFFFFF9FC00000#64)
      ∧ Ready .load (effectiveAddress 4 0x7B8#16 (KP 0xFFFFFFFFBFC00000#64)) 8 0x1FC007B8#32 false (KP 0xFFFFFFFFBFC00000#64)
      ∧ Ready .load (effectiveAddress 4 0x7FF#16 (KP 0xFFFFFFFFBFC00000#64)) 1 0x1FC007FF#32 false (KP 0xFFFFFFFFBFC00000#64)
      ∧ Ready .load (effectiveAddress 4 0#16 (KP 0xFFFFFFFF80400000#64)) 4 0x400000#32 true (KP 0xFFFFFFFF80400000#64)
      ∧ Ready .load (effectiveAddress 4 0xFFFE#16 (KP 0xFFFFFFFFA3F00000#64)) 2 0x03EFFFFE#32 false (KP 0xFFFFFFFFA3F00000#64)
      ∧ Ready .load (effectiveAddress 4 0x30#16 (KP 0xFFFFFFFFA4400000#64)) 8 0x04400030#32 false (KP 0xFFFFFFFFA4400000#64)
      ∧ Ready .load (effectiveAddress 4 0x34#16 (KP 0xFFFFFFFFA4400000#64)) 4 0x04400034#32 false (KP 0xFFFFFFFFA4400000#64)
      ∧ Ready .load (effectiveAddress 4 0x37#16 (KP 0xFFFFFFFFA4400000#64)) 1 0x04400037#32 false (KP 0xFFFFFFFFA4400000#64) :=
  ⟨ready_of (by decide +kernel) rfl, ready_of (by decide +kernel) rfl, ready_of (by decide +kernel) rfl, ready_of (by decide +kernel) rfl,
    ready_of (by decide +kernel) rfl, ready_of (by decide +kernel) rfl, ready_of (by decide +kernel) rfl, ready_of (by decide +kernel) rfl⟩

theorem ready_elsewhere_store :
    Ready .store (effectiveAddress 4 0#16 (KP 0xFFFFFFFF9FC00000#64)) 8 0x1FC00000#32 true (KP 0xFFFFFFFF9FC00000#64)
      ∧ Ready .store (effectiveAddress 4 0x7BF#16 (KP 0xFFFFFFFFBFC00000#64)) 1 0x1FC007BF#32 false (KP 0xFFFFFFFFBFC00000#64)
      ∧ Ready .store (effectiveAddress 4 0x7C0#16 (KP 0xFFFFFFFFBFC00000#64)) 8 0x1FC007C0#32 false (KP 0xFFFFFFFFBFC00000#64)
      ∧ Ready .store (effectiveAddress 4 0#16 (KP 0xFFFFFFFFA0400000#64)) 4 0x400000#32 false (KP 0xFFFFFFFFA0400000#64) :=
  ⟨ready_of (by decide +kernel) rfl, ready_of (by decide +kernel) rfl, ready_of (by decide +kernel) rfl, ready_of (by decide +kernel) rfl⟩

theorem ops64_K (regs : List (RegIdx × DWord)) (h : (KR regs).mode = .kernel) : (KR regs).ops64 := Or.inl h

theorem wit_Loads : Ready .load (effectiveAddress 4 0xFFF8#16 (KR [(4, 0xFFFFFFFF80400000#64)])) 8 0x3FFFF8#32 true
      (KR [(4, 0xFFFFFFFF80400000#64)])
    ∧ (KR [(4, 0xFFFFFFFF80400000#64)]).ops64 ∧ Ready .load (effectiveAddress 4 0x2000#16 KL) 4 0x2100#32 true KL ∧ KL.ops64
    ∧ Ready .load (effectiveAddress 4 0x30#16 (KP 0xFFFFFFFFA4400000#64)) 8 0x04400030#32 false (KP 0xFFFFFFFFA4400000#64)
    ∧ Ready .load (effectiveAddress 4 0x7FF#16 (KP 0xFFFFFFFFBFC00000#64)) 1 0x1FC007FF#32 false (KP 0xFFFFFFFFBFC00000#64) :=
  ⟨(ready_places .load (Or.inl rfl)).2.2.2.1, Or.inl (by decide +kernel), (ready_places .load (Or.inl rfl)).2.2.2.2.2.1,
    Or.inl (by decide +kernel), ready_elsewhere.2.2.2.2.2.1, ready_elsewhere.2.2.1⟩

/-- The first and the last byte offset of a word and of a doubleword, cached and uncached. -/
theorem wit_UnalignedLoads :
    Ready .load (alignDown (effectiveAddress 4 0#16 KL) 4) 4 0x100#32 true KL
      ∧ Ready .load (alignDown (effectiveAddress 4 3#16 KL) 4) 4 0x100#32 true KL
      ∧ Ready .load (alignDown (effectiveAddress 4 7#16 KL) 8) 8 0x100#32 true KL ∧ KL.ops64
      ∧ Ready .load (alignDown (effectiveAddress 4 0xFFFF#16 (KR [(4, 0xFFFFFFFFA0400000#64)])) 8) 8 0x3FFFF8#32 false
        (KR [(4, 0xFFFFFFFFA0400000#64)])
      ∧ Ready .load (alignDown (effectiveAddress 4 0x37#16 (KP 0xFFFFFFFFA4400000#64)) 8) 8 0x04400030#32 false (KP 0xFFFFFFFFA4400000#64) :=
  ⟨ready_of (by decide +kernel) rfl, ready_of (by decide +kernel) rfl, ready_of (by decide +kernel) rfl, Or.inl (by decide +kernel),
    ready_of (by decide +kernel) rfl, ready_of (by decide +kernel) rfl⟩

theorem wit_LoadLinked : Ready .load (effectiveAddress 4 0x2000#16 KL) 4 0x2100#32 true KL
    ∧ Ready .load (effectiveAddress 4 8#16 KL) 8 0x108#32 true KL ∧ KL.ops64
    ∧ Ready .load (effectiveAddress 4 0#16 (KP 0xFFFFFFFF80400000#64)) 4 0x400000#32 true (KP 0xFFFFFFFF80400000#64) :=
  ⟨(ready_places .load (Or.inl rfl)).2.2.2.2.2.1, (ready_places .load (Or.inl rfl)).2.2.2.2.1, Or.inl (by decide +kernel),
    ready_elsewhere.2.2.2.1⟩

theorem wit_Stores : Ready .store (effectiveAddress 4 0xFFFF#16 (KR [(4, 0xFFFFFFFF80400000#64)])) 1 0x3FFFFF#32 true
      (KR [(4, 0xFFFFFFFF80400000#64)])
    ∧ Ready .store (effectiveAddress 4 0x2000#16 KL) 4 0x2100#32 true KL ∧ KL.ops64
    ∧ Ready .store (effectiveAddress 4 0x8000#16 (KR [(4, 0xFFFFFFFFA0008000#64)])) 4 0#32 false (KR [(4, 0xFFFFFFFFA0008000#64)])
    ∧ Ready .store (effectiveAddress 4 0x7BF#16 (KP 0xFFFFFFFFBFC00000#64)) 1 0x1FC007BF#32 false (KP 0xFFFFFFFFBFC00000#64)
    ∧ Ready .store (effectiveAddress 4 0x7C0#16 (KP 0xFFFFFFFFBFC00000#64)) 8 0x1FC007C0#32 false (KP 0xFFFFFFFFBFC00000#64) :=
  ⟨(ready_places .store (Or.inr rfl)).1, (ready_places .store (Or.inr rfl)).2.2.2.2.2.1, Or.inl (by decide +kernel),
    (ready_places .store (Or.inr rfl)).2.2.2.2.2.2, ready_elsewhere_store.2.1, ready_elsewhere_store.2.2.1⟩

theorem wit_UnalignedStores :
    Ready .store (alignDown (effectiveAddress 4 0#16 KL) 4) 4 0x100#32 true KL
      ∧ Ready .store (alignDown (effectiveAddress 4 3#16 KL) 4) 4 0x100#32 true KL
      ∧ Ready .store (alignDown (effectiveAddress 4 7#16 KL) 8) 8 0x100#32 true KL ∧ KL.ops64
      ∧ Ready .store (alignDown (effectiveAddress 4 7#16 (KP 0xFFFFFFFF9FC00000#64)) 8) 8 0x1FC00000#32 true (KP 0xFFFFFFFF9FC00000#64) :=
  ⟨ready_of (by decide +kernel) rfl, ready_of (by decide +kernel) rfl, ready_of (by decide +kernel) rfl, Or.inl (by decide +kernel),
    ready_of (by decide +kernel) rfl⟩

theorem wit_StoreConditional :
    (({ KL with llBit := true } : State).llBit = true
        ∧ Ready .store (effectiveAddress 4 8#16 { KL with llBit := true }) 8 0x108#32 true { KL with llBit := true }
        ∧ Ready .store (effectiveAddress 4 4#16 { KL with llBit := true }) 4 0x104#32 true { KL with llBit := true }
        ∧ ({ KL with llBit := true } : State).ops64)
      ∧ (KL.llBit = false ∧ KL.accessible ∧ (effectiveAddress 4 8#16 KL).toNat % 8 = 0 ∧ KL.ops64
        ∧ Machine.translate (effectiveAddress 4 8#16 KL) .store KL = .ok (0x108#32, true) KL) :=
  ⟨⟨rfl, ready_of (by decide +kernel) rfl, ready_of (by decide +kernel) rfl, Or.inl (by decide +kernel)⟩,
    ⟨by decide +kernel, ⟨by decide +kernel, by decide +kernel⟩, by decide +kernel, Or.inl (by decide +kernel), rfl⟩⟩

/-- KM with a watch on PA 0x100 for stores, and with a bus error there. -/
def KWatch : State := { KM [] with cop0 := { K.cop0 with watchLo := 0x101#32 }, llBit := true }
def KBus : State := { KM [] with cfg := { Config.default with busErrors := [⟨0x100, 0x103, .load⟩] } }

theorem wit_AccessFaultOrder :
    ((KM []).excLatch = false ∧ (KM []).accessible ∧ Instr.access (.lw 2 4 1#16) (KM []) = some (.load, 0xFFFFFFFF80000101#64, 4)
        ∧ (0xFFFFFFFF80000101#64).toNat % 4 ≠ 0)
      ∧ (Instr.access (.sd 2 0 0x4000#16) K = some (.store, 0x4000#64, 8) ∧ K.ops64
        ∧ ∃ e, Machine.translate 0x4000#64 .store K = .raise e K)
      ∧ (Instr.access (.sc 2 4 0#16) KWatch = some (.store, 0xFFFFFFFF80000100#64, 4) ∧ KWatch.llBit = true
        ∧ Machine.translate 0xFFFFFFFF80000100#64 .store KWatch = .ok (0x100#32, true) KWatch ∧ KWatch.watchHits .store 0x100#32 = true)
      ∧ (Instr.access (.lb 2 4 3#16) KBus = some (.load, 0xFFFFFFFF80000103#64, 1)
        ∧ Machine.translate 0xFFFFFFFF80000103#64 .load KBus = .ok (0x103#32, true) KBus ∧ KBus.watchHits .load 0x103#32 = false
        ∧ busError KBus.cfg 0x103#32 .load = true)
      ∧ (Instr.isCop1 (.lwc1 2 4 2#16) = true ∧ (KF []).cu 1 = true ∧ Instr.access (.lwc1 2 0 2#16) (KF []) = some (.load, 2#64, 4))
      ∧ (let s := KR [(4, 0xFFFFFFFF84400000#64)]
        s.excLatch = false ∧ s.accessible ∧ Instr.access (.lw 2 4 0#16) s = some (.load, 0xFFFFFFFF84400000#64, 4)
          ∧ Machine.translate 0xFFFFFFFF84400000#64 .load s = .ok (0x04400000#32, true) s ∧ s.watchHits .load 0x04400000#32 = false
          ∧ busError s.cfg 0x04400000#32 .load = false ∧ s.region 0x04400000#32 = .device .vi)
      ∧ (let s := KP 0xFFFFFFFFA4400000#64;
        (Instr.access (.sb 2 4 0x37#16) s = some (.store, 0xFFFFFFFFA4400037#64, 1)
            ∧ Machine.translate 0xFFFFFFFFA4400037#64 .store s = .ok (0x04400037#32, false) s ∧ s.region 0x04400037#32 = .device .vi
            ∧ s.watchHits .store 0x04400037#32 = false ∧ busError s.cfg 0x04400037#32 .store = false)
          ∧ (Instr.access (.sd 2 4 0#16) s = some (.store, 0xFFFFFFFFA4400000#64, 8)
            ∧ Instr.access (.swl 2 4 0#16) s = some (.store, 0xFFFFFFFFA4400000#64, 4)
            ∧ Machine.translate 0xFFFFFFFFA4400000#64 .store s = .ok (0x04400000#32, false) s)
          ∧ (s.cfg.deviceMirroring = false ∧ Instr.access (.lw 2 4 0x38#16) s = some (.load, 0xFFFFFFFFA4400038#64, 4)
            ∧ Instr.access (.sw 2 4 0x38#16) s = some (.store, 0xFFFFFFFFA4400038#64, 4)
            ∧ Machine.translate 0xFFFFFFFFA4400038#64 .load s = .ok (0x04400038#32, false) s
            ∧ s.region 0x04400038#32 = .device .vi ∧ 4 * Device.slots .vi < (0x04400038#32).toNat % 0x100000 + 1
            ∧ ¬4 * Device.slots .vi < (0x04400037#32).toNat % 0x100000 + 1))
      ∧ (let s := KU [(4, 0xFFFFFFFF80000100#64)]
        s.excLatch = false ∧ s.accessible ∧ Instr.access (.lwl 2 4 1#16) s = some (.load, 0xFFFFFFFF80000100#64, 4)
          ∧ Machine.translate 0xFFFFFFFF80000100#64 .load s = .raise (.adel 0xFFFFFFFF80000100#64) s
          ∧ Instr.raised (.lwl 2 4 1#16) (.adel 0xFFFFFFFF80000100#64) s = .adel 0xFFFFFFFF80000101#64)
      ∧ (Instr.access (.sdl 2 0 0x4005#16) K = some (.store, 0x4000#64, 8)
        ∧ Instr.raised (.sdl 2 0 0x4005#16) (.tlbs 0x4000#64 true false) K = .tlbs 0x4000#64 true false) :=
  ⟨⟨by decide +kernel, ⟨by decide +kernel, by decide +kernel⟩, by decide +kernel, by decide⟩,
    ⟨by decide +kernel, Or.inl (by decide +kernel), ⟨_, rfl⟩⟩, ⟨by decide +kernel, by decide +kernel, rfl, by decide +kernel⟩,
    ⟨by decide +kernel, rfl, by decide +kernel, by decide +kernel⟩, ⟨rfl, by decide +kernel, by decide +kernel⟩,
    ⟨by decide +kernel, ⟨by decide +kernel, by decide +kernel⟩, by decide +kernel, rfl, by decide +kernel, by decide +kernel,
      by decide +kernel⟩,
    ⟨⟨by decide +kernel, rfl, by decide +kernel, by decide +kernel, by decide +kernel⟩, ⟨by decide +kernel, by decide +kernel, rfl⟩,
      ⟨by decide +kernel, by decide +kernel, by decide +kernel, rfl, by decide +kernel, by decide, by decide⟩⟩,
    ⟨by decide +kernel, ⟨by decide +kernel, by decide +kernel⟩, by decide +kernel, rfl,
      congrArg Exc.adel (show State.adjusted (effectiveAddress 4 1#16 (KU [(4, 0xFFFFFFFF80000100#64)])) (KU [(4, 0xFFFFFFFF80000100#64)])
        = 0xFFFFFFFF80000101#64 by decide +kernel)⟩,
    ⟨by decide +kernel, rfl⟩⟩

/-- A load that evicts the dirty line of KL, and a store at the last bytes of RDRAM. -/
theorem wit_CacheTransparency :
    KL.mem.wf = true ∧ KL.LinesConsistent
      ∧ ∀ a ∈ [CachedAccess.load 0x2100#32 16, CachedAccess.store 0x3FFFF8#32 [some 1#8, none, some 2#8]], a.fits KL.cfg.rdramSize := by
  have hd : ∀ i : Fin 512, KL.dcache[i.val] = if i.val = 16 then ⟨true, true, 0#20, Vector.replicate 16 0xEE#8⟩ else DLine.empty := by
    intro i
    by_cases h : i.val = 16
    · rw [if_pos h]; simp [KL, K, State.reset, h]
    · rw [if_neg h]; simp [KL, K, State.reset, Ne.symm h]
  refine ⟨by decide +kernel, ⟨fun i => ?_, fun i => ?_⟩, ?_⟩
  · rw [hd i]; split
    · intro _; simp [*]
    · simp [DLine.empty]
  · rw [hd i]; split
    · intro _ _; decide +kernel
    · simp [DLine.empty]
  intro a ha
  have hr : rdramBytes KL.cfg.rdramSize = 0x400000 := by decide +kernel
  simp only [List.mem_cons, List.not_mem_nil, or_false] at ha
  rcases ha with rfl | rfl
  · exact ⟨by rw [hr]; decide, by decide⟩
  · exact ⟨by rw [hr]; decide, by decide⟩

/-- KL with a valid instruction line at the index and tag of PA 0x100, and a copy whose data line is clean. -/
def KC : State := { KL with icache := K.icache.set 8 ⟨true, 0#20, Vector.replicate 32 0xDD#8⟩ }
def KCC : State := { KC with dcache := K.dcache.set 16 ⟨true, false, 0#20, Vector.replicate 16 0xEE#8⟩ }

theorem wit_CacheInstruction :
    ((KU []).excLatch = false ∧ (KU []).cop0Denied)
      ∧ (K.excLatch = false ∧ K.cop0Usable ∧ ∃ e, Machine.translate (effectiveAddress 0 0x4000#16 K) .load K = .raise e K)
      ∧ (KC.mem.wf = true ∧ KC.cop0Usable ∧ Machine.translate (effectiveAddress 4 3#16 KC) .load KC = .ok (0x103#32, true) KC
        ∧ (KC.iLine 0x103#32).hits 0x103#32 = true ∧ KC.region (iWritebackAddress 0x103#32 (KC.iLine 0x103#32)) = .rdram
        ∧ KC.region (iLineBase 0x103#32) = .rdram
        ∧ (KC.dLine 0x103#32).hits 0x103#32 = true ∧ (KC.dLine 0x103#32).dirty = true ∧ (KC.dLine 0x103#32).tag = cacheTag 0x103#32
        ∧ KC.region (dWritebackAddress 0x103#32 (KC.dLine 0x103#32)) = .rdram)
      ∧ (Machine.translate (effectiveAddress 4 0x2000#16 KC) .load KC = .ok (0x2100#32, true) KC
        ∧ (KC.dLine 0x2100#32).hits 0x2100#32 = false ∧ ((KC.dLine 0x2100#32).valid && (KC.dLine 0x2100#32).dirty) = true
        ∧ (KC.dLine 0x2100#32).tag ≠ cacheTag 0x2100#32 ∧ KC.region (dWritebackAddress 0x2100#32 (KC.dLine 0x2100#32)) = .rdram
        ∧ (KC.iLine 0x2100#32).hits 0x2100#32 = false)
      ∧ (Machine.translate (effectiveAddress 4 0#16 KCC) .load KCC = .ok (0x100#32, true) KCC ∧ (KCC.dLine 0x100#32).hits 0x100#32 = true
        ∧ (KCC.dLine 0x100#32).dirty = false) :=
  ⟨⟨by decide +kernel, ⟨Or.inr (by decide +kernel), by decide +kernel⟩⟩, ⟨by decide +kernel, Or.inl (by decide +kernel), ⟨_, rfl⟩⟩,
    ⟨by decide +kernel, Or.inl (by decide +kernel), rfl, by decide +kernel, by decide +kernel, by decide +kernel, by decide +kernel,
      by decide +kernel, by decide +kernel, by decide +kernel⟩,
    ⟨rfl, by decide +kernel, by decide +kernel, by decide +kernel, by decide +kernel, by decide +kernel⟩,
    ⟨rfl, by decide +kernel, by decide +kernel⟩⟩

/-- Both ends of each range. -/
theorem wit_Kernel32Map :
    (K.mode = .kernel ∧ K.kx = false ∧ K.cfg.addr32Strict = false ∧ K.erl = false ∧ (State.withStatus 4#32 K).erl = true
        ∧ (State.withStatus 4#32 K).mode = .kernel)
      ∧ (0x7FFFFFFF#64).toNat % 2 ^ 32 ≤ 0x7FFFFFFF ∧ 0x80000000 ≤ (0xFFFFFFFF80000000#64).toNat % 2 ^ 32
      ∧ (0xFFFFFFFF9FFFFFFF#64).toNat % 2 ^ 32 ≤ 0x9FFFFFFF ∧ 0xA0000000 ≤ (0x00000000A0000000#64).toNat % 2 ^ 32
      ∧ (0xFFFFFFFFBFFFFFFF#64).toNat % 2 ^ 32 ≤ 0xBFFFFFFF ∧ 0xC0000000 ≤ (0xFFFFFFFFC0000000#64).toNat % 2 ^ 32
      ∧ 0xFFFFFFFFC0000000#64 = sext32 (low32 0xFFFFFFFFC0000000#64) := by decide +kernel

/-- A state of each strategy, and both ends of the ranges of their maps. -/
theorem wit_OtherSegmentMaps :
    (({ K with cfg := { K.cfg with addr32Strict := true } } : State).cfg.addr32Strict = true ∧ K.mode ≠ .reserved ∧ K.is64 = false
        ∧ (0x80000000#64 : DWord) ≠ sext32 (low32 0x80000000#64))
      ∧ ((KU []).mode = .user ∧ (KU []).ux = false ∧ (0x7FFFFFFF#64).toNat % 2 ^ 32 < 0x80000000
        ∧ 0x80000000 ≤ (0xFFFFFFFF80000000#64).toNat % 2 ^ 32)
      ∧ (KS.mode = .supervisor ∧ KS.sx = false ∧ 0xC0000000 ≤ (0xFFFFFFFFC0000000#64).toNat % 2 ^ 32
        ∧ (0xFFFFFFFFDFFFFFFF#64).toNat % 2 ^ 32 < 0xE0000000 ∧ 0xE0000000 ≤ (0xFFFFFFFFE0000000#64).toNat % 2 ^ 32)
      ∧ (KUX.mode = .user ∧ KUX.ux = true ∧ (0xFFFFFFFFFF#64).toNat < 2 ^ 40 ∧ 2 ^ 40 ≤ (0x10000000000#64).toNat)
      ∧ (KSX.mode = .supervisor ∧ KSX.sx = true ∧ 2 ^ 62 ≤ (0x4000000000000000#64).toNat
        ∧ (0x400000FFFFFFFFFF#64).toNat < 2 ^ 62 + 2 ^ 40 ∧ 2 ^ 62 + 2 ^ 40 ≤ (0x4000010000000000#64).toNat
        ∧ (0xFFFFFFFFBFFFFFFF#64).toNat < 0xFFFFFFFFC0000000)
      ∧ (KX.mode = .kernel ∧ KX.kx = true ∧ KX.erl = false ∧ (State.withStatus 0x84#32 K).erl = true ∧ (0x7FFFFFFF#64).toNat < 2 ^ 31
        ∧ 2 ^ 31 ≤ (0x80000000#64).toNat ∧ 0xC000000000000000 ≤ (0xC000000000000000#64).toNat
        ∧ (0xC00000FF7FFFFFFF#64).toNat < 0xC00000FF80000000 ∧ 2 ^ 63 ≤ (0x90000000FFFFFFFF#64).toNat
        ∧ (0x90000000FFFFFFFF#64).toNat / 2 ^ 32 % 2 ^ 27 = 0 ∧ (0x9000000100000000#64).toNat / 2 ^ 32 % 2 ^ 27 ≠ 0
        ∧ 0xFFFFFFFF80000000 ≤ (0xFFFFFFFF80000000#64).toNat ∧ (0xFFFFFFFF7FFFFFFF#64).toNat < 0xFFFFFFFF80000000
        ∧ (0xFFFFFFFFBFFFFFFF#64).toNat < 0xFFFFFFFFC0000000) := by decide +kernel

/-- The smallest and the largest page, and each outcome of a lookup. -/
theorem wit_TlbPages :
    (vectorEntry.mask.toNat = 4 ^ 0 - 1 ∧ ({ vectorEntry with mask := 0xFFF#12 } : TlbEntry).mask.toNat = 4 ^ 6 - 1)
      ∧ (∀ i : Fin 32, K.tlb[i.val].hits K.is64 (bitField K.cop0.entryHi 0 8) 0x4000#64 = false)
      ∧ (let s : State := { K with tlb := K.tlb.set 0 vectorEntry }
        s.tlb[0].hits s.is64 (bitField s.cop0.entryHi 0 8) 0x2000#64 = true ∧ (s.tlb[0].half 0x2000#64).v = true
          ∧ (s.tlb[0].half 0x2000#64).d = true ∧ s.tlb[0].hits s.is64 (bitField s.cop0.entryHi 0 8) 0x3FFF#64 = true
          ∧ (s.tlb[0].half 0x3FFF#64).v = false)
      ∧ (let s : State := { K with tlb := K.tlb.set 31 { vectorEntry with lo0 := ⟨0x100#24, 2#3, false, true⟩ } }
        s.tlb[31].hits s.is64 (bitField s.cop0.entryHi 0 8) 0x2FFF#64 = true ∧ (s.tlb[31].half 0x2FFF#64).d = false
          ∧ (s.tlb[31].half 0x2FFF#64).v = true
          ∧ ∀ j : Fin 32, j < 31 → s.tlb[j.val].hits s.is64 (bitField s.cop0.entryHi 0 8) 0x2FFF#64 = false) := by decide +kernel

theorem wit_TlbWriteRead :
    ((KU []).excLatch = false ∧ (KU []).cop0Denied) ∧ K.cop0Usable ∧ K.cop0.index.toNat % 32 = 0 ∧ K.cop0.random.toNat % 32 = 31
      ∧ ∃ t u, exec .tlbwi K = .next t ∧ exec .tlbr t = .next u := by
  refine ⟨⟨by decide +kernel, Or.inr (by decide +kernel), by decide +kernel⟩, Or.inl (by decide +kernel), by decide +kernel,
    by decide +kernel, ?_⟩
  obtain ⟨t, ht, hu⟩ := check_next (r := exec .tlbwi K) (p := fun t => check (exec .tlbr t) fun _ => true) (by decide +kernel)
  obtain ⟨u, hu⟩ := check_some hu
  exact ⟨t, u, ht, hu⟩

theorem wit_TlbProbe :
    ((KU []).excLatch = false ∧ (KU []).cop0Denied) ∧ K.cop0Usable
      ∧ (∀ i : Fin 32, ({ K with cop0 := { K.cop0 with entryHi := 0x4000#64 } } : State).tlb[i.val].hits K.is64 0#8 0x4000#64 = false)
      ∧ ({ K with tlb := K.tlb.set 0 vectorEntry } : State).tlb[0].hits K.is64 0#8 0x2000#64 = true :=
  ⟨⟨by decide +kernel, Or.inr (by decide +kernel), by decide +kernel⟩, Or.inl (by decide +kernel), by decide +kernel, by decide +kernel⟩

theorem wit_Cop0Reads :
    ((KU []).excLatch = false ∧ (KU []).cop0Denied) ∧ (K.cop0Usable ∧ K.ops64) ∧ (KUC.cop0Usable ∧ KUC.excLatch = false ∧ KUC.ops64Denied) :=
  ⟨⟨by decide +kernel, Or.inr (by decide +kernel), by decide +kernel⟩, ⟨Or.inl (by decide +kernel), Or.inl (by decide +kernel)⟩,
    ⟨Or.inr (by decide +kernel), by decide +kernel, Or.inr (by decide +kernel)⟩⟩

theorem wit_Cop0Writes :
    ((KU []).excLatch = false ∧ (KU []).cop0Denied) ∧ (K.cop0Usable ∧ K.ops64) ∧ (KUC.cop0Usable ∧ KUC.excLatch = false ∧ KUC.ops64Denied) :=
  wit_Cop0Reads

/-- An addition, and an instruction that traps, in User mode with CU0 = 0. -/
theorem wit_UserIsolation :
    ((KU []).mode = .user ∧ (KU []).cu 0 = false) ∧ (∃ t, exec (.addu 1 2 3) (KU []) = .next t) ∧ (∃ t, exec .eret (KU []) = .next t)
      ∧ ∃ t, exec (.ll 1 0 0#16) { KU [] with tlb := K.tlb.set 0 { vectorEntry with vpn2 := 0#27 } } = .next t :=
  ⟨by decide +kernel, check_some (by decide +kernel), check_some (by decide +kernel), check_some (by decide +kernel)⟩

theorem wit_Cop1Unusable :
    (K.excLatch = false ∧ Instr.isCop1 (.swc1 1 2 3#16) = true ∧ K.cu 1 = false)
      ∧ (KUC.cu 1 = true ∧ Instr.gated64 (.dmtc1 1 2) = true ∧ KUC.excLatch = false ∧ KUC.ops64Denied) :=
  ⟨by decide +kernel, ⟨by decide +kernel, rfl, by decide +kernel, Or.inr (by decide +kernel)⟩⟩

theorem wit_FpLoadsStores :
    (let s := State.withStatus 0x24000000#32 (KP 0xFFFFFFFFA4400000#64);
      s.cu 1 = true ∧ Ready .load (effectiveAddress 4 0x34#16 s) 4 0x04400034#32 false s) ∧
    let s := State.withStatus 0x24000000#32 KL
    s.cu 1 = true ∧ Ready .load (effectiveAddress 4 4#16 s) 4 0x104#32 true s ∧ Ready .load (effectiveAddress 4 0x2000#16 s) 8 0x2100#32 true s
      ∧ Ready .store (effectiveAddress 4 4#16 s) 4 0x104#32 true s ∧ Ready .store (effectiveAddress 4 0x2000#16 s) 8 0x2100#32 true s :=
  ⟨⟨by decide +kernel, ready_of (by decide +kernel) rfl⟩, by decide +kernel, ready_of (by decide +kernel) rfl, ready_of (by decide +kernel) rfl, ready_of (by decide +kernel) rfl,
    ready_of (by decide +kernel) rfl⟩

/-- Both views, even and odd numbers, and a CTC1 that traps and one that does not. -/
theorem wit_FpMoves :
    ((KF []).fr = false ∧ (31 : RegIdx).val % 2 = 1 ∧ (30 : RegIdx).val + 1 = (31 : RegIdx).val
        ∧ (30 : RegIdx).val = (31 : RegIdx).val - (31 : RegIdx).val % 2 ∧ (State.withStatus 0x24000000#32 K).fr = true)
      ∧ ((KF []).excLatch = false ∧ (KF []).cu 1 = true)
      ∧ (let w : Word := low32 ((KR [(3, 0x1F07C#64)]).x 3) &&& 0x0183FFFF#32
        bit w 17 = false ∧ bitField w 12 5 &&& bitField w 7 5 = 0#5)
      ∧ bit (low32 ((KR [(3, 0x20000#64)]).x 3) &&& 0x0183FFFF#32) 17 = true
      ∧ (let w : Word := low32 ((KR [(3, 0x8400#64)]).x 3) &&& 0x0183FFFF#32
        bit w 17 = false ∧ bitField w 12 5 &&& bitField w 7 5 ≠ 0#5) := by decide +kernel

theorem wit_FpBranches :
    (KF []).cu 1 = true ∧ (KF []).branchState = .noBranch ∧ bit (KF []).fcsr 23 = false
      ∧ bit ({ KF [] with fcsr := 0x800000#32 } : State).fcsr 23 = true
      ∧ ({ KF [] with branchState := .delaySlotTaken } : State).branchState ≠ .noBranch := by decide +kernel

/-- A value, a value whose flag is enabled, and an unimplemented operation. -/
theorem wit_FpArithmetic :
    (let s := KF [(2, 0x3F800000#32), (4, 0x40000000#32)];
      s.excLatch = false ∧ s.cu 1 = true
        ∧ (fpOutcome s.cfg .add .s s.fcsr (s.fpRead .s 2) (s.fpRead .s 4) = .value 0x40400000#64 FpFlags.none
          ∧ FpFlags.none.bits &&& bitField s.fcsr 7 5 = 0#5))
      ∧ (let s : State := { KF [(2, 0x3F800000#32)] with fcsr := 0x400#32 }
        fpOutcome s.cfg .div .s s.fcsr (s.fpRead .s 2) (s.fpRead .s 4) = .value 0x7F800000#64 { FpFlags.none with z := true }
          ∧ ({ FpFlags.none with z := true } : FpFlags).bits &&& bitField s.fcsr 7 5 ≠ 0#5)
      ∧ (let s := KF [(2, 0x00000001#32)];
        fpOutcome s.cfg .sqrt .s s.fcsr (s.fpRead .s 2) 0#64 = .unimplemented)
      ∧ (let s := KF [(2, 0xBF800000#32), (4, 0xFF800000#32)];
        s.cfg.fp = [] ∧ s.cfg.fpCmp = [] ∧ s.cfg.fpUnimpl = []
          ∧ fpIsNan .s (s.fpRead .s 2) = false ∧ fpIsDenormal .s (s.fpRead .s 2) = false
          ∧ fpIsNan .s (s.fpRead .s 4) = false ∧ fpIsDenormal .s (s.fpRead .s 4) = false
          ∧ fpIsNan .d (s.fpRead .d 2) = false ∧ fpIsDenormal .d (s.fpRead .d 0) = false) := by decide +kernel

theorem wit_FpConversions :
    (let s := KF [(2, 0x40200000#32)];
      s.excLatch = false ∧ s.cu 1 = true
        ∧ fpOutcome s.cfg (.cvt .w .nearest) .s s.fcsr (s.fpRead .s 2) 0#64 = .value 2#64 { FpFlags.none with i := true }
        ∧ ({ FpFlags.none with i := true } : FpFlags).bits &&& bitField s.fcsr 7 5 = 0#5)
      ∧ ({ FpFlags.none with i := true } : FpFlags).bits &&& bitField (0x80#32 : Word) 7 5 ≠ 0#5
      ∧ fpOutcome Config.default (.cvt .w .nearest) .s 0#32 0x4F000000#64 0#64 = .unimplemented
      ∧ fpOutcome Config.default (.cvt .l .nearest) .s 0#32 0x7F800000#64 0#64 = .unimplemented := by decide +kernel

/-- An unordered pair that signals V under a condition with bit 3, enabled and not, and an ordered pair. -/
theorem wit_FpCompares :
    let s := KF [(2, 0x7F800001#32)]
    let invalid : Bool := decide (fpCmp s.cfg .s (s.fpRead .s 2) (s.fpRead .s 4) = .un) && (bit (8#4 : BitVec 4) 3
      || fpIsSignaling .s (s.fpRead .s 2) || fpIsSignaling .s (s.fpRead .s 4))
    s.excLatch = false ∧ s.cu 1 = true ∧ invalid = true ∧ bit ({ s with fcsr := 0x800#32 } : State).fcsr 11 = true ∧ bit s.fcsr 11 = false
      ∧ fpCmp s.cfg .s (s.fpRead .s 4) (s.fpRead .s 4) = .eq := by decide +kernel

/-- The two zeros, the largest finite number and an infinity, in both formats. -/
theorem wit_FpOrder :
    FpDefaults Config.default ∧ (FpFmt.s = .s ∨ FpFmt.s = .d) ∧ fpIsNan .s 0x80000000#64 = false ∧ fpIsNan .s 0#64 = false ∧ fpIsNan .d 0x7FEFFFFFFFFFFFFF#64 = false
      ∧ fpIsNan .d 0x7FF0000000000000#64 = false ∧ fpIsNan .d 0x7FF0000000000001#64 = true := by
  unfold FpDefaults; decide +kernel

theorem wit_FpUnimplemented : FpDefaults Config.default ∧ (FpFmt.s = .s ∨ FpFmt.s = .d) ∧ (FpFmt.d = .s ∨ FpFmt.d = .d) := by
  unfold FpDefaults; decide

/-- What a floating-point operation comes to at the defaults. -/
abbrev fpDefault := fpOutcome Config.default

/-- IEEE-754 at the edges: half a place beyond the largest number overflows to nearest and less does not, a whole place overflows toward
zero and less does not; just below 1 the last place is half of that of 1. -/
theorem test_fp_edges :
    fpDefault .add .s 0#32 0x7F7FFFFF#64 0x73000000#64 = .value 0x7F800000#64 ⟨false, false, true, false, true⟩
      ∧ fpDefault .add .s 0#32 0x7F7FFFFF#64 0x72FFFFFF#64 = .value 0x7F7FFFFF#64 ⟨false, false, false, false, true⟩
      ∧ fpDefault .add .s 1#32 0x7F7FFFFF#64 0x73800000#64 = .value 0x7F7FFFFF#64 ⟨false, false, true, false, true⟩
      ∧ fpDefault .add .s 1#32 0x7F7FFFFF#64 0x737FFFFF#64 = .value 0x7F7FFFFF#64 ⟨false, false, false, false, true⟩
      ∧ fpDefault .add .s 2#32 0x7F7FFFFF#64 0x3F800000#64 = .value 0x7F800000#64 ⟨false, false, true, false, true⟩
      ∧ fpDefault .sub .s 0#32 0x3F800000#64 0x33400000#64 = .value 0x3F7FFFFF#64 ⟨false, false, false, false, true⟩
      ∧ fpDefault .sub .s 0#32 0x3F800000#64 0x33000000#64 = .value 0x3F800000#64 ⟨false, false, false, false, true⟩ := by decide +kernel

/-- D87 and IEEE-754 in the corners: the default NaN with V, the root of -0, infinities, zero sums, and the signs of ABS and NEG. -/
theorem test_fp_corners :
    (let invalid := FpOutcome.value 0x7FBFFFFF#64 ⟨true, false, false, false, false⟩;
      fpDefault .add .s 0#32 0x7F800000#64 0xFF800000#64 = invalid ∧ fpDefault .mul .s 0#32 0#64 0x7F800000#64 = invalid
        ∧ fpDefault .div .s 0#32 0#64 0#64 = invalid ∧ fpDefault .sqrt .s 0#32 0xBF800000#64 0#64 = invalid)
      ∧ fpDefault .sqrt .d 0#32 0x8000000000000000#64 0#64 = .value 0x8000000000000000#64 FpFlags.none
      ∧ fpDefault .div .s 0#32 0xFF800000#64 0#64 = .value 0xFF800000#64 FpFlags.none
      ∧ fpDefault .sub .s 3#32 0x80000000#64 0x80000000#64 = .value 0x80000000#64 FpFlags.none
      ∧ fpDefault .sub .s 0#32 0x80000000#64 0x80000000#64 = .value 0#64 FpFlags.none
      ∧ fpDefault .add .s 0#32 0x80000000#64 0x80000000#64 = .value 0x80000000#64 FpFlags.none
      ∧ fpDefault .abs .s 0#32 0xFF800000#64 0#64 = .value 0x7F800000#64 FpFlags.none
      ∧ fpDefault .neg .d 0#32 0#64 0#64 = .value 0x8000000000000000#64 FpFlags.none := by decide +kernel

/-- An exact sum, an overflow, a flushed product (FS = 1), a rounded root, quotient and conversions; zero sums of both kinds, a zero divisor,
each invalid pair, infinities on each side, both zeros' roots, and a quiet NaN on each side. -/
theorem wit_FpRounding :
    FpDefaults Config.default
      ∧ (FpFinite .s 0x3F800000#64 ∧ fpDefault .add .s 0#32 0x3F800000#64 0x3F800000#64 = .value 0x40000000#64 FpFlags.none)
      ∧ (FpFinite .s 0x7F7FFFFF#64
        ∧ fpDefault .add .s 0#32 0x7F7FFFFF#64 0x7F7FFFFF#64 = .value 0x7F800000#64 { FpFlags.none with o := true, i := true })
      ∧ (FpFinite .s 0x00800000#64
        ∧ fpDefault .mul .s 0x01000000#32 0x00800000#64 0x00800000#64 = .value 0#64 { FpFlags.none with u := true, i := true })
      ∧ (∃ v fl, fpDefault .sqrt .d 0#32 0x4000000000000000#64 0#64 = .value v fl)
      ∧ (∃ v fl, fpDefault .div .s 0#32 0x3F800000#64 0x40400000#64 = .value v fl)
      ∧ (∃ v fl, fpDefault .sub .s 0#32 0x3F800000#64 0x3F800000#64 = .value v fl)
      ∧ (∃ v fl, fpDefault (.cvt .s .nearest) .l 0#32 0x007FFFFFFFFFFFFF#64 0#64 = .value v fl)
      ∧ (FpFinite .d 0x7FEFFFFFFFFFFFFF#64 ∧ ∃ v fl, fpDefault (.cvt .s .nearest) .d 0#32 0x7FEFFFFFFFFFFFFF#64 0#64 = .value v fl)
      ∧ (FpFinite .s 0x80000000#64 ∧ ∃ v fl, fpDefault (.cvt .d .nearest) .s 0#32 0x80000000#64 0#64 = .value v fl)
      ∧ (∃ v fl, fpDefault (.cvt .d .nearest) .w 0#32 0x80000000#64 0#64 = .value v fl)
      ∧ (FpFinite .s 0#64 ∧ ¬FpBadOperand .s 0x3F800000#64)
      ∧ (FpOperand .s 0x80000000#64 ∧ fpIsZero .s 0x80000000#64 = true ∧ fpNeg .s 0x80000000#64 = true ∧ fpNeg .s 0#64 = false)
      ∧ (fpIsInf .s 0x7F800000#64 = true ∧ fpIsInf .s 0xFF800000#64 = true ∧ FpOperand .s 0xFF800000#64
        ∧ (fpNeg .s 0x7F800000#64 != fpNeg .s 0xFF800000#64) = true ∧ fpIsInf .d 0x7FF0000000000000#64 = true)
      ∧ (fpIsNan .s 0x7F7FFFFF#64 = false ∧ fpIsDenormal .s 0x7F7FFFFF#64 = false ∧ fpIsInf .s 0x7F7FFFFF#64 = false
        ∧ fpIsZero .s 0x7F7FFFFF#64 = false)
      ∧ (fpNeg .s 0x80800000#64 = true ∧ fpIsZero .s 0x80800000#64 = false ∧ fpIsNan .s 0x80800000#64 = false
        ∧ fpIsDenormal .s 0x80800000#64 = false)
      ∧ (¬FpBadOperand .s 0x7F800001#64 ∧ ¬FpBadOperand .s 0x7FBFFFFF#64 ∧ fpIsNan .s 0x7F800001#64 = true
        ∧ fpIsNan .s 0x7FBFFFFF#64 = true ∧ ¬FpBadOperand .d 0xFFF7FFFFFFFFFFFF#64 ∧ fpIsNan .d 0xFFF7FFFFFFFFFFFF#64 = true) := by
  refine ⟨by unfold FpDefaults; decide, ⟨by unfold FpFinite; decide, by decide +kernel⟩, ⟨by unfold FpFinite; decide, by decide +kernel⟩,
    ⟨by unfold FpFinite; decide, by decide +kernel⟩, ?_, ?_, ?_, ?_, ⟨by unfold FpFinite; decide, ?_⟩, ⟨by unfold FpFinite; decide, ?_⟩, ?_,
    ⟨by unfold FpFinite; decide, by unfold FpBadOperand; decide⟩, ⟨by unfold FpOperand; decide, by decide +kernel⟩,
    ⟨by decide +kernel, by decide +kernel, by unfold FpOperand; decide, by decide +kernel⟩, by decide +kernel, by decide +kernel,
    by unfold FpBadOperand; decide +kernel⟩
  · exact ⟨0x3FF6A09E667F3BCD#64, { FpFlags.none with i := true }, by decide +kernel⟩
  · exact ⟨0x3EAAAAAB#64, { FpFlags.none with i := true }, by decide +kernel⟩
  · exact ⟨0#64, FpFlags.none, by decide +kernel⟩
  · exact ⟨0x5B000000#64, { FpFlags.none with i := true }, by decide +kernel⟩
  · exact ⟨0x7F800000#64, { FpFlags.none with o := true, i := true }, by decide +kernel⟩
  · exact ⟨0x8000000000000000#64, FpFlags.none, by decide +kernel⟩
  · exact ⟨0xC1E0000000000000#64, FpFlags.none, by decide +kernel⟩

/-- A value at each end of the integer range. -/
theorem wit_FpToInteger :
    FpDefaults Config.default
      ∧ fpDefault (.cvt .w .nearest) .d 0#32 0x41DFFFFFFFC00000#64 0#64 = .value 0x7FFFFFFF#64 FpFlags.none
      ∧ fpDefault (.cvt .w .zero) .s 0#32 0xCF000000#64 0#64 = .value 0xFFFFFFFF80000000#64 FpFlags.none
      ∧ fpDefault (.cvt .l .down) .d 0#32 0xC3E0000000000000#64 0#64 = .value 0x8000000000000000#64 FpFlags.none := by
  unfold FpDefaults; decide +kernel

/-- States with a request of each device under way, and with a second one buffered. -/
def KAi (next : Option AiRequest) : State :=
  { K with ai := { K.ai with cur := some ⟨0x100#32, 8#32, 100⟩, next := next, enable := true } }
def KPi (next : Option PiRequest) : State := { K with pi := { K.pi with cur := some ⟨.toCart, 0x100#32, 0x10000000#32, 8⟩, next := next } }
def KSi (next : Option SiRequest) : State := { K with si := { K.si with cur := some ⟨.pifToRdram, 0x100#32⟩, next := next } }

/-- R920: MI_MODE takes the init length, sets init mode and RDRAM register mode and clears DP; MI_VERSION ignores a write. -/
theorem test_mi_registers :
    check (hostCall (.writeReg 0x04300000#32 0x290F#32) { K with mi := { K.mi with intr := 0x21#6, ebusTest := true } }) (fun t =>
        decide (t.slotRead 0 .mi 0 = 0x38F#32 ∧ t.mi.intr = 0x01#6)) = true
      ∧ check (hostCall (.writeReg 0x04300004#32 0x7#32) K) (fun t => decide (t.slotRead 0 .mi 1 = 0x02020102#32)) = true := by
  decide +kernel

/-- D61, D97: a request while one runs is buffered, a third is refused, and a completion starts the buffered one (R942, R952, R967). -/
theorem test_dma :
    refuses (hostCall (.writeReg 0x04500004#32 8#32) (KAi (some ⟨0#32, 8#32, 1⟩))) .requestBufferFull = true
      ∧ check (hostCall (.writeReg 0x04800010#32 0#32) (KSi none)) (fun t => decide (t.si.next = some ⟨.rdramToPif, K.si.dram⟩)) = true
      ∧ (State.onFire .piDma (KPi none)).pi.dram = 0x108#32 ∧ (State.onFire .piDma (KPi none)).pi.cart = 0x10000008#32
      ∧ (State.onFire .piDma (KPi none)).mi.intr = 16#6 ∧ (State.onFire .piDma (KPi none)).pi.cur = none := by decide +kernel

/-- An event due now and one at the last time, each kind of advance, and an advance under way; a request of each device with none, one and
two before it, a length of 0 and a disabled AI. -/
theorem wit_TimerAndScheduler :
    ((⟨[⟨.viHalfline, 1#64, 0⟩], 1⟩ : Scheduler).Wf ∧ (0 : Int) ≤ 0 + 0 ∧ (2 ^ 63 - 1 : Int) + 0 < 2 ^ 63)
      ∧ ((∀ e ∈ State.reset.sched.events, (2975 : Int) < e.remaining) ∧ ∀ e ∈ State.reset.sched.events, 0 ≤ e.remaining)
      ∧ (∃ e rest, ({ K with sched := ⟨[⟨.compareInterrupt, 5#64, 0⟩, ⟨.viHalfline, 6#64, 1⟩], 2⟩ } : State).sched.events = e :: rest
        ∧ e.kind = .compareInterrupt ∧ 0 ≤ e.remaining ∧ e.remaining ≤ 5 ∧ ∀ g ∈ rest, (5 : Int) < g.remaining)
      ∧ ({ K with advancing := true } : State).advancing = true
      ∧ (let s : State := { K with sched := ⟨[⟨.viHalfline, 5#64, 0⟩], 1⟩ };
        ∃ e rest, s.sched.events = e :: rest ∧ 0 ≤ e.remaining ∧ e.remaining ≤ 5
          ∧ ∀ g ∈ (State.onFire e.kind { s with sched := { s.sched with events := rest }.elapse 5 }).sched.events, 0 < g.remaining)
      ∧ (K.mem.wf = true ∧ (0x3FFFFF : Nat) < rdramBytes K.cfg.rdramSize ∧ ¬(0x400000 : Nat) < rdramBytes K.cfg.rdramSize)
      ∧ (7#32 &&& 0x0003FFF8#32 = 0#32 ∧ 8#32 &&& 0x0003FFF8#32 ≠ 0#32 ∧ K.ai.enable = false ∧ (KAi none).ai.enable = true
        ∧ ({ KAi none with ai := { (KAi none).ai with cur := none } } : State).ai.cur = none)
      ∧ ((KAi none).ai.cur ≠ none ∧ (KAi none).ai.next = none ∧ (KAi (some ⟨0#32, 8#32, 1⟩)).ai.next ≠ none)
      ∧ (K.pi.cur = none ∧ (KPi none).pi.cur ≠ none ∧ (KPi none).pi.next = none ∧ (KPi (some ⟨.toRdram, 0#32, 0#32, 1⟩)).pi.next ≠ none)
      ∧ (K.si.cur = none ∧ (KSi none).si.cur ≠ none ∧ (KSi none).si.next = none ∧ (KSi (some ⟨.rdramToPif, 0#32⟩)).si.next ≠ none) := by
  refine ⟨⟨⟨by simp, by simp, by simp⟩, by decide, by decide⟩, by decide +kernel, ?_, rfl, ?_, by decide +kernel, by decide +kernel,
    by decide +kernel, by decide +kernel, by decide +kernel⟩
  · exact ⟨_, _, rfl, rfl, by decide, by decide, by decide⟩
  · exact ⟨⟨.viHalfline, 5#64, 0⟩, [], rfl, by decide +kernel, by decide +kernel, by decide +kernel⟩

/-- The first and the last register of a window, loaded and stored, one beyond the block under mirroring, a window of each collaborator's
kind and the cartridge, a linked and an unusable form, and a write that is refused. -/
theorem wit_DeviceRegisters :
    (K.accessible ∧ K.region 0x04300000#32 = .device .mi ∧ (0x04300000#32).toNat % 0x100000 < 4 * Device.slots .mi
        ∧ K.region 0x04400034#32 = .device .vi ∧ (0x04400034#32).toNat % 0x100000 < 4 * Device.slots .vi
        ∧ ({ K with cfg := { K.cfg with deviceMirroring := true } } : State).region 0x044FFFFC#32 = .device .vi)
      ∧ (let s := { KP 0xFFFFFFFFA4400000#64 with llBit := true };
        (effectiveAddress 4 0x34#16 s).toNat % 4 = 0 ∧ s.llBit = true
          ∧ Machine.translate (effectiveAddress 4 0x34#16 s) .load s = .ok (0x04400034#32, false) s
          ∧ Machine.translate (effectiveAddress 4 0x34#16 s) .store s = .ok (0x04400034#32, false) s
          ∧ s.watchHits .load 0x04400034#32 = false ∧ s.watchHits .store 0x04400034#32 = false
          ∧ busError s.cfg 0x04400034#32 .load = false ∧ busError s.cfg 0x04400034#32 .store = false
          ∧ ∃ u, s.slotWrite s.runCycles.toNat .vi 13 (low32 (s.x 4)) = .ok () u)
      ∧ ((State.withStatus 0x20000000#32 K).cu 1 = true
        ∧ (KSi (some ⟨.rdramToPif, 0#32⟩)).slotWrite 0 .si 1 0#32 = .refuse .requestBufferFull)
      ∧ (let s := KP 0xFFFFFFFFA4040000#64;
        (effectiveAddress 4 0#16 s).toNat % 4 = 0 ∧ s.region 0x04040000#32 = .collab .rsp
          ∧ Machine.translate (effectiveAddress 4 0#16 s) .load s = .ok (0x04040000#32, false) s
          ∧ Machine.translate (effectiveAddress 4 0#16 s) .store s = .ok (0x04040000#32, false) s
          ∧ s.watchHits .load 0x04040000#32 = false ∧ s.watchHits .store 0x04040000#32 = false
          ∧ busError s.cfg 0x04040000#32 .load = false ∧ busError s.cfg 0x04040000#32 .store = false)
      ∧ (let s := KP 0xFFFFFFFFB0000000#64;
        s.region 0x10000000#32 = .cart ∧ Machine.translate (effectiveAddress 4 0#16 s) .load s = .ok (0x10000000#32, false) s
          ∧ Machine.translate (effectiveAddress 4 0#16 s) .store s = .ok (0x10000000#32, false) s)
      ∧ (K.ai.cur = none ∧ (KAi none).ai.cur = some ⟨0x100#32, 8#32, 100⟩
        ∧ ({ KAi none with sched := ⟨[⟨.aiDma, 50#64, 0⟩], 1⟩ } : State).sched.find .aiDma = some ⟨.aiDma, 50#64, 0⟩)
      ∧ bit K.mi.intr 0 = false
      ∧ (∃ u, K.slotWrite 0 .si 1 5#32 = .ok () u) ∧ ∃ u, (KSi none).slotWrite 0 .si 4 5#32 = .ok () u :=
  ⟨⟨⟨by decide +kernel, by decide +kernel⟩, by decide +kernel, by decide, by decide +kernel, by decide, by decide +kernel⟩,
    ⟨by decide +kernel, rfl, rfl, rfl, by decide +kernel, by decide +kernel, by decide +kernel, by decide +kernel, ⟨_, rfl⟩⟩,
    ⟨by decide +kernel, rfl⟩,
    ⟨by decide +kernel, by decide +kernel, rfl, rfl, by decide +kernel, by decide +kernel, by decide +kernel, by decide +kernel⟩,
    ⟨by decide +kernel, rfl, rfl⟩, by decide +kernel, by decide +kernel, ⟨_, rfl⟩, ⟨_, rfl⟩⟩

end Sys2Proof.Tests
end

section
/-! SUPPORT. Every step keeps the invariant of the architectural state (`State.Inv`). One lemma for each operation of the model, named
after it with the ending `_inv` (`_wf` where it is about coprocessor 0 alone); those about instructions and steps are put together from
those about their parts. -/

namespace Sys2Proof.Machine

/-! ### Bits that keep their value -/

/-- A masked write keeps what another mask sees. -/
theorem masked_fixed {n : Nat} {mask m old v c : BitVec n} (hm : mask &&& m = 0#n) (h : old &&& m = c) : masked mask old v &&& m = c :=
  (masked_and_disjoint hm old v).trans h

/-- A write to one bit keeps what a mask without it sees. -/
theorem setBit_fixed {n k : Nat} {m v c : BitVec n} {b : Bool} (hm : m.getLsbD k = false) (h : v &&& m = c) : setBit v k b &&& m = c :=
  (setBit_and_disjoint hm v b).trans h

theorem or_and_eq_zero {n : Nat} {a b m : BitVec n} (ha : a &&& m = 0#n) (hb : b &&& m = 0#n) : (a ||| b) &&& m = 0#n := by
  rw [BitVec.and_comm, BitVec.and_or_distrib_left, BitVec.and_comm m a, BitVec.and_comm m b, ha, hb, BitVec.or_zero]

theorem and_and_eq_zero {n : Nat} {a m : BitVec n} (b : BitVec n) (ha : a &&& m = 0#n) : (a &&& b) &&& m = 0#n := by
  rw [BitVec.and_assoc, BitVec.and_comm b, ← BitVec.and_assoc, ha, BitVec.zero_and]

/-- A field shifted into place has no bit under a mask beside the place. -/
theorem shifted_and_eq_zero {k n lo : Nat} {m : BitVec n} (h : (BitVec.allOnes k).setWidth n <<< lo &&& m = 0#n) (v : BitVec k) :
    v.setWidth n <<< lo &&& m = 0#n := by
  apply BitVec.eq_of_getLsbD_eq
  intro i hi
  have hb : ((BitVec.allOnes k).setWidth n <<< lo &&& m).getLsbD i = (0#n).getLsbD i := by rw [h]
  by_cases hk : i - lo < k
  · simp [hi, hk] at hb ⊢
    exact fun hlo _ => hb hlo
  · simp [BitVec.getLsbD_of_ge v (i - lo) (by omega)]

/-! ### Coprocessor 0 -/

theorem nextRandom_fixed (random wired : Word) : nextRandom random wired &&& 0xFFFFFFE0#32 = 0#32 := by
  unfold nextRandom
  split
  · decide
  · rw [BitVec.and_assoc]; exact BitVec.and_zero

theorem causeAfter_fixed (e : Exc) (bd : Option Bool) (cause : Word) :
    causeAfter e bd cause &&& 0x4FFF7C83#32 = cause &&& 0x4FFF7C83#32 := by
  cases bd with
  | none => exact masked_fixed (by decide) rfl
  | some b => exact setBit_fixed (by decide) (masked_fixed (by decide) rfl)

theorem tagLoOf_fixed (tag : BitVec 20) (valid dirty : Bool) : tagLoOf tag valid dirty &&& 0xF000003F#32 = 0#32 :=
  or_and_eq_zero (or_and_eq_zero (shifted_and_eq_zero (by decide) _) (by cases valid <;> decide)) (by cases dirty <;> decide)

theorem toEntryLo_fixed (g : Bool) (l : TlbHalf) : l.toEntryLo g &&& 0xFFFFFFFFC0000000#64 = 0#64 :=
  have pfnC := or_and_eq_zero (shifted_and_eq_zero (n := 64) (lo := 6) (by decide) l.pfn)
    (shifted_and_eq_zero (lo := 3) (m := 0xFFFFFFFFC0000000#64) (by decide) l.c)
  or_and_eq_zero (or_and_eq_zero (or_and_eq_zero pfnC (by cases l.d <;> decide)) (by cases l.v <;> decide)) (by cases g <;> decide)

theorem toEntryHi_fixed (e : TlbEntry) : e.toEntryHi &&& 0x3FFFFF0000001F00#64 = 0#64 :=
  or_and_eq_zero (or_and_eq_zero (shifted_and_eq_zero (by decide) _) (shifted_and_eq_zero (by decide) _))
    (by simpa using shifted_and_eq_zero (lo := 0) (n := 64) (m := 0x3FFFFF0000001F00#64) (by decide) e.asid)

theorem firstEntry_lt {p : TlbEntry → Bool} {l : List TlbEntry} {i j : Nat} {e : TlbEntry} (h : firstEntry p i l = some (j, e)) :
    j < i + l.length := by
  induction l generalizing i with
  | nil => cases h
  | cons f l ih =>
    unfold firstEntry at h
    split at h
    · cases h; simp
    · have := ih h; simp; omega

/-- Index after a probe: P and a number below 32 (R633). -/
theorem probeIndex_fixed {s : State} {a : DWord} {asid : BitVec 8} {index : Word} (h : index &&& 0x7FFFFFC0#32 = 0#32) :
    probeIndex (s.tlbFind a asid) index &&& 0x7FFFFFC0#32 = 0#32 := by
  have small : ∀ i : Fin 32, BitVec.ofNat 32 i.val &&& 0x7FFFFFC0#32 = 0#32 := by decide
  cases hf : s.tlbFind a asid with
  | none => exact or_and_eq_zero (by decide) (and_and_eq_zero _ h)
  | some r =>
    have hr : r.1 < 32 := by simpa using firstEntry_lt (j := r.1) (e := r.2) hf
    exact small ⟨r.1, hr⟩

theorem recordVaddr_wf {c : Cop0} {a : DWord} (h : c.Wf) : (c.recordVaddr a).Wf :=
  { h with
    context := masked_fixed (by decide) h.context
    xContext := masked_fixed (by decide) (masked_fixed (by decide) h.xContext)
    entryHi := masked_fixed (by decide) h.entryHi }

theorem recorded_wf {c : Cop0} {e : Exc} (h : c.Wf) : (c.recorded e).Wf := by
  unfold Cop0.recorded
  split
  · exact recordVaddr_wf h
  · exact h

theorem entered_wf {c : Cop0} {e : Exc} {pc : DWord} {inSlot : Bool} (h : c.Wf) : (c.entered e pc inSlot).Wf := by
  unfold Cop0.entered
  split
  · exact { h with cause := (causeAfter_fixed _ _ _).trans h.cause }
  · exact { h with
      cause := (causeAfter_fixed _ _ _).trans h.cause
      status := setBit_fixed (by decide) h.status }

/-- A write by number changes only the bits its register's mask selects (R113). -/
theorem written_wf {c : Cop0} {n : Nat} {v : DWord} (h : c.Wf) : (c.written n v).Wf := by
  unfold Cop0.written
  split
  case h_1 => exact { h with index := masked_fixed (by decide) h.index }
  case h_2 => exact { h with entryLo0 := masked_fixed (by decide) h.entryLo0 }
  case h_3 => exact { h with entryLo1 := masked_fixed (by decide) h.entryLo1 }
  case h_4 => exact { h with context := masked_fixed (by decide) h.context }
  case h_5 => exact { h with pageMask := masked_fixed (by decide) h.pageMask }
  case h_6 => exact { h with
      wired := masked_fixed (by decide) h.wired
      random := (by decide : 31#32 &&& 0xFFFFFFE0#32 = 0#32) }
  case h_7 => exact { h with entryHi := masked_fixed (by decide) h.entryHi }
  case h_8 => exact { h with cause := setBit_fixed (by decide) h.cause }
  case h_9 => exact { h with status := masked_fixed (by decide) h.status }
  case h_10 => exact { h with cause := masked_fixed (by decide) h.cause }
  case h_12 => exact { h with config := masked_fixed (by decide) h.config }
  case h_14 => exact { h with watchLo := masked_fixed (by decide) h.watchLo }
  case h_15 => exact { h with watchHi := masked_fixed (by decide) h.watchHi }
  case h_16 => exact { h with xContext := masked_fixed (by decide) h.xContext }
  case h_17 => exact { h with parityError := masked_fixed (by decide) h.parityError }
  case h_18 => exact { h with tagLo := masked_fixed (by decide) h.tagLo }
  -- EPC, LLAddr and ErrorEPC have no fixed bits; the other numbers are not stored
  case h_11 | h_13 | h_19 | h_20 => exact { h with }

theorem readEntry_wf {c : Cop0} {e : TlbEntry} (h : c.Wf) : (c.readEntry e).Wf :=
  { h with
    pageMask := shifted_and_eq_zero (by decide) _
    entryHi := toEntryHi_fixed _
    entryLo0 := toEntryLo_fixed _ _
    entryLo1 := toEntryLo_fixed _ _ }

theorem cop0Reset_wf : Cop0.reset.Wf := by constructor <;> decide

/-! ### FCSR (R138) -/

theorem clearFpCause_fixed {w : Word} (h : w &&& 0xFE7C0000#32 = 0#32) : clearFpCause w &&& 0xFE7C0000#32 = 0#32 :=
  and_and_eq_zero _ h

theorem setFpUnimplemented_fixed {w : Word} (h : w &&& 0xFE7C0000#32 = 0#32) : setFpUnimplemented w &&& 0xFE7C0000#32 = 0#32 :=
  or_and_eq_zero (clearFpCause_fixed h) (by decide)

theorem setFpCause_fixed {fl : FpFlags} {w : Word} (h : w &&& 0xFE7C0000#32 = 0#32) : setFpCause fl w &&& 0xFE7C0000#32 = 0#32 :=
  or_and_eq_zero (clearFpCause_fixed h) (shifted_and_eq_zero (by decide) _)

theorem accrueFpFlags_fixed {fl : FpFlags} {w : Word} (h : w &&& 0xFE7C0000#32 = 0#32) :
    accrueFpFlags fl w &&& 0xFE7C0000#32 = 0#32 :=
  or_and_eq_zero h (shifted_and_eq_zero (by decide) _)

theorem setFcsrC_fixed {b : Bool} {w : Word} (h : w &&& 0xFE7C0000#32 = 0#32) : setFcsrC b w &&& 0xFE7C0000#32 = 0#32 :=
  setBit_fixed (by decide) h

/-! ### TLB entries (R634) -/

theorem normaliseMask_idem (m : BitVec 12) : normaliseMask (normaliseMask m) = normaliseMask m := by
  apply BitVec.eq_of_getLsbD_eq
  intro i hi
  interval_cases i <;> simp [normaliseMask]

theorem tlbEntry_wf (c : Cop0) : c.tlbEntry.Wf where
  mask := normaliseMask_idem _
  vpn2 := by simp [Cop0.tlbEntry, BitVec.and_assoc]

theorem tlbEntryZero_wf : TlbEntry.zero.Wf := by constructor <;> decide

/-! ### Updates of the state -/

variable {s t : State}

/-- The invariant is about five fields only. -/
theorem State.Inv.congr (h : s.Inv)
    (same : t.mem = s.mem ∧ t.gpr = s.gpr ∧ t.cop0 = s.cop0 ∧ t.fcsr = s.fcsr ∧ t.tlb = s.tlb) : t.Inv := by
  obtain ⟨mem, gpr, cop0, fcsr, tlb⟩ := same
  exact ⟨mem ▸ h.mem, gpr ▸ h.gpr0, cop0 ▸ h.cop0, fcsr ▸ h.fcsr, tlb ▸ h.tlb⟩

theorem State.Inv.withMem (h : s.Inv) {m : Memory} (hm : m.wf = true) : State.Inv { s with mem := m } := { h with mem := hm }

theorem setFcsr_inv (h : s.Inv) {w : Word} (hw : w &&& 0xFE7C0000#32 = 0#32) : (s.setFcsr w).Inv := { h with fcsr := hw }

theorem setX_inv {r : RegIdx} {v : DWord} (h : s.Inv) : (s.setX r v).Inv where
  mem := by simpa using h.mem
  gpr0 := by
    unfold State.setX
    split
    · exact h.gpr0
    · have hr : r.val ≠ 0 := fun e => ‹¬r = 0› (Fin.ext e)
      rw [← h.gpr0]
      exact Vector.getElem_set_ne r.isLt _ hr
  cop0 := by simpa using h.cop0
  fcsr := by simpa using h.fcsr
  tlb := by simpa using h.tlb

theorem advance_inv {b : BranchState} {skip : Bool} (h : s.Inv) : (s.advance b skip).Inv := h.congr (by simp)

theorem retire_inv (h : s.Inv) : s.retire.Inv := advance_inv h

theorem addCycles_inv {n : Nat} (h : s.Inv) : (s.addCycles n).Inv := { h with }

theorem takeException_inv {e : Exc} (h : s.Inv) : (takeException e s).Inv := by
  unfold takeException
  split
  · exact h
  · exact { h with cop0 := entered_wf (recorded_wf h.cop0) }

theorem returnFromException_inv (h : s.Inv) : (returnFromException s).Inv := by
  have hs (k : Nat) (hk : (0x00A80000#32).getLsbD k = false) :
      ({ s.cop0 with status := setBit s.status k false } : Cop0).Wf :=
    { h.cop0 with status := setBit_fixed hk h.cop0.status }
  unfold returnFromException
  split
  · exact { h with cop0 := hs 2 rfl }
  · exact { h with cop0 := hs 1 rfl }

theorem endStep_inv (h : s.Inv) : s.endStep.Inv :=
  { h with cop0 := { h.cop0 with random := nextRandom_fixed _ _ } }

theorem scheduleCompare_inv {el : Int} (h : s.Inv) : (s.scheduleCompare el).Inv := { h with }

theorem writeCop0_inv {n : RegIdx} {v : DWord} (h : s.Inv) : (writeCop0 n v s).Inv := by
  have hw : State.Inv { s with cop0 := s.cop0.written n.val v } := { h with cop0 := written_wf h.cop0 }
  unfold writeCop0
  dsimp only
  split
  · exact scheduleCompare_inv { hw with }
  · exact scheduleCompare_inv hw
  · exact hw

theorem tlbWrite_inv {i : Fin 32} (h : s.Inv) : (tlbWrite i s).Inv :=
  { h with
    tlb := fun e he => by
      rw [tlbWrite, Vector.toList_set] at he
      rcases List.mem_or_eq_of_mem_set he with he | rfl
      · exact h.tlb e he
      · exact tlbEntry_wf _ }

theorem tlbProbe_inv (h : s.Inv) : (tlbProbe s).Inv :=
  { h with cop0 := { h.cop0 with index := probeIndex_fixed h.cop0.index } }

theorem reserve_inv {pa : Word} (h : s.Inv) : (s.reserve pa).Inv := { h with cop0 := { h.cop0 with } }

theorem setTagLo_inv (h : s.Inv) {tag : BitVec 20} {valid dirty : Bool} : (s.setTagLo (tagLoOf tag valid dirty)).Inv :=
  { h with cop0 := { h.cop0 with tagLo := tagLoOf_fixed _ _ _ } }

/-- A cold reset keeps memory alone of what the invariant is about (R1001, R1003). -/
theorem coldReset_inv (h : s.Inv) : (coldReset s).Inv where
  mem := h.mem
  gpr0 := by simp [coldReset, State.reset]
  cop0 := cop0Reset_wf
  fcsr := BitVec.zero_and
  tlb := fun e he => by
    have : e = TlbEntry.zero := by simpa [coldReset, State.reset] using he
    exact this ▸ tlbEntryZero_wf

theorem softReset_inv (h : s.Inv) : (softReset s).Inv :=
  { coldReset_inv h with cop0 := { cop0Reset_wf with status := (by decide : 0x00500004#32 &&& 0x00A80000#32 = 0#32) } }

/-! ### Devices and collaborators -/

theorem dmaWrite_inv {a : Nat} {b : Byte} (h : s.Inv) : (s.dmaWrite a b).Inv := by
  unfold State.dmaWrite
  split
  · exact h.withMem (Memory.wf_write _ _ h.mem)
  · exact h

theorem dmaWriteBytes_inv {bs : List Byte} {a : Nat} (h : s.Inv) : (State.dmaWriteBytes a bs s).Inv := by
  induction bs generalizing a s with
  | nil => exact h
  | cons b bs ih => exact ih (dmaWrite_inv h)

/-- What a collaborator may change keeps the invariant, because it writes memory byte by byte (R970). -/
theorem collabCall_inv {el : Int} {c : CollabCall} (h : s.Inv) : (s.collabCall el c).2.Inv := by
  have hw := collabCall_wf el c h.mem
  obtain ⟨mem, mi, sched, outputs, collabState, ht⟩ := collabCall_changed el c s
  rw [ht] at hw ⊢
  exact { h with mem := hw }

theorem setMi_inv {k : MiSource} (h : s.Inv) : (s.setMi k).Inv := { h with }

theorem clearMi_inv {k : MiSource} (h : s.Inv) : (s.clearMi k).Inv := { h with }

theorem addEvent_inv {k : EventKind} {c el : Int} (h : s.Inv) : (s.addEvent k c el).Inv := { h with }

theorem aiCopy_inv {q : AiRequest} (h : s.Inv) : (s.aiCopy q).Inv := by
  rw [aiCopy_eq]
  exact { h with }

theorem aiStart_inv {el : Int} {q : AiRequest} (h : s.Inv) : (s.aiStart el q).Inv := by
  unfold State.aiStart
  extract_lets _ busy timed signalled
  have hb : busy.Inv := { h with }
  have ht : timed.Inv := addEvent_inv hb
  have hs : signalled.Inv := by
    unfold signalled
    split
    · exact setMi_inv ht
    · exact ht
  split
  · exact aiCopy_inv hs
  · exact hs

theorem aiFire_inv (h : s.Inv) : s.aiFire.Inv := by
  unfold State.aiFire
  extract_lets copied signalled
  have hc : copied.Inv := by
    unfold copied
    split
    · exact aiCopy_inv h
    · exact h
  have hs : signalled.Inv := by
    unfold signalled
    split
    · exact hc
    · exact setMi_inv hc
  split
  · exact aiStart_inv { hs with }
  · exact { hs with }

theorem piCopyBytes_inv {el : Int} {d : PiDirection} {n dram : Nat} {cart : Word} (h : s.Inv) :
    (State.piCopyBytes el d n dram cart s).Inv := by
  induction n generalizing dram cart s with
  | zero => exact h
  | succ n ih =>
    cases d with
    | toRdram => exact ih (dmaWrite_inv (collabCall_inv h))
    | toCart => exact ih (collabCall_inv h)

theorem piStart_inv {el : Int} {q : PiRequest} (h : s.Inv) : (s.piStart el q).Inv := by
  unfold State.piStart
  extract_lets _ busy copied
  have hb : busy.Inv := { h with }
  refine addEvent_inv ?_
  unfold copied
  split
  · exact piCopyBytes_inv hb
  · exact hb

theorem piFire_inv (h : s.Inv) : s.piFire.Inv := by
  unfold State.piFire
  extract_lets copied _ idle signalled
  have hc : copied.Inv := by
    unfold copied
    split
    · exact piCopyBytes_inv h
    · exact h
  have hi : idle.Inv := by
    unfold idle
    split
    · exact { hc with }
    · exact hc
  have hs : signalled.Inv := setMi_inv hi
  split
  · exact piStart_inv { hs with }
  · exact hs

theorem siCopy_inv {q : SiRequest} (h : s.Inv) : (s.siCopy q).Inv := by
  have written : ∀ bs, State.Inv { s with mem := s.mem.writeBytes pifRamBase bs } :=
    fun bs => h.withMem (Memory.wf_writeBytes bs _ h.mem)
  unfold State.siCopy
  split
  · exact dmaWriteBytes_inv ((written _).congr ⟨rfl, rfl, rfl, rfl, rfl⟩)
  · exact written _

theorem siStart_inv {el : Int} {q : SiRequest} (h : s.Inv) : (s.siStart el q).Inv := by
  unfold State.siStart
  extract_lets _ busy copied
  have hb : busy.Inv := { h with }
  refine addEvent_inv ?_
  unfold copied
  split
  · exact siCopy_inv hb
  · exact hb

theorem siFire_inv (h : s.Inv) : s.siFire.Inv := by
  unfold State.siFire
  extract_lets copied _ signalled
  have hc : copied.Inv := by
    unfold copied
    split
    · exact siCopy_inv h
    · exact h
  have hs : signalled.Inv := setMi_inv { hc with }
  split
  · exact siStart_inv { hs with }
  · exact hs

theorem viFire_inv (h : s.Inv) : s.viFire.Inv := by
  unfold State.viFire
  extract_lets wrap _ counted told signalled
  have hc : counted.Inv := { h with }
  have ht : told.Inv := by
    unfold told
    split
    · exact { hc with }
    · exact hc
  refine addEvent_inv ?_
  unfold signalled
  split
  · exact setMi_inv ht
  · exact ht

theorem compareFire_inv (h : s.Inv) : s.compareFire.Inv :=
  scheduleCompare_inv { h with cop0 := { h.cop0 with cause := setBit_fixed (by decide) h.cop0.cause } }

/-- The callback of every kind of event (R904). -/
theorem onFire_inv {k : EventKind} (h : s.Inv) : (s.onFire k).Inv := by
  cases k with
  | compareInterrupt => exact compareFire_inv h
  | viHalfline => exact viFire_inv h
  | aiDma => exact aiFire_inv h
  | piDma => exact piFire_inv h
  | siDma => exact siFire_inv h
  | collab n => exact collabCall_inv h

theorem fireDue_inv {n : Nat} (h : s.Inv) : (State.fireDue n s).Inv := by
  induction n generalizing s with
  | zero => exact h
  | succ n ih =>
    unfold State.fireDue
    split
    · split
      · exact ih (onFire_inv { h with })
      · exact h
    · exact h

theorem continueAdvance_inv (h : s.Inv) : s.continueAdvance.Inv := { fireDue_inv h with }

theorem advanceEvents_inv {n : Int} (h : s.Inv) : (s.advanceEvents n).Inv := continueAdvance_inv { h with }

/-! ### Pieces of instructions and their ends -/

/-- However a piece of an instruction answers, the state it hands on satisfies the invariant. -/
def Res.EndsInv {α : Type} : Res α → Prop
  | .ok _ t => t.Inv
  | .raise _ t => t.Inv
  | .refuse _ => True

/-- A next state, if there is one, satisfies the invariant. -/
def Result.EndsInv : Result → Prop
  | .next t => t.Inv
  | .fault _ => True
  | .refused _ => True

theorem Result.EndsInv.inv {r : Result} (h : Result.EndsInv r) (hr : r = .next t) : t.Inv := by
  subst hr; exact h

theorem Res.EndsInv.bind {α β : Type} {r : Res α} {k : α → State → Res β} (hr : r.EndsInv)
    (hk : ∀ a t, t.Inv → (k a t).EndsInv) : (r.bind k).EndsInv := by
  cases r with
  | ok a t => exact hk a t hr
  | raise e t => exact hr
  | refuse q => trivial

theorem Res.EndsInv.finish {α : Type} {r : Res α} {k : α → State → Result} (hr : r.EndsInv)
    (hk : ∀ a t, t.Inv → Result.EndsInv (k a t)) : Result.EndsInv (r.finish k) := by
  cases r with
  | ok a t => exact hk a t hr
  | raise e t => exact takeException_inv hr
  | refuse q => trivial

theorem Res.EndsInv.withAddress {α : Type} {r : Res α} (hr : r.EndsInv) (a : DWord) : (r.withAddress a).EndsInv := by
  cases r with
  | ok v t => exact hr
  | raise e t => exact hr
  | refuse q => trivial

/-! ### Device registers -/

theorem aiRequest_inv {el : Int} {len : Word} (h : s.Inv) : (s.aiRequest el len).EndsInv := by
  unfold State.aiRequest
  split
  · exact h
  · dsimp only
    split
    · exact aiStart_inv h
    · exact { h with }
    · trivial

theorem piRequest_inv {el : Int} {d : PiDirection} {len : Nat} (h : s.Inv) : (s.piRequest el d len).EndsInv := by
  unfold State.piRequest
  dsimp only
  split
  · exact piStart_inv h
  · exact { h with }
  · trivial

theorem siRequest_inv {el : Int} {d : SiDirection} (h : s.Inv) : (s.siRequest el d).EndsInv := by
  unfold State.siRequest
  dsimp only
  split
  · exact siStart_inv h
  · exact { h with }
  · trivial

theorem miModeWrite_inv {v : Word} (h : s.Inv) : (s.miModeWrite v).Inv := by
  unfold State.miModeWrite
  dsimp only
  split
  · exact clearMi_inv { h with }
  · exact { h with }

theorem miWrite_inv {i : Nat} {v : Word} (h : s.Inv) : (s.miWrite i v).Inv := by
  unfold State.miWrite
  split
  · exact miModeWrite_inv h
  · exact { h with }
  · exact h

theorem viWrite_inv {i : Nat} {v : Word} (h : s.Inv) : (s.viWrite i v).Inv := by
  unfold State.viWrite
  split <;> exact { h with }

theorem aiWrite_inv {el : Int} {i : Nat} {v : Word} (h : s.Inv) : (s.aiWrite el i v).EndsInv := by
  unfold State.aiWrite
  split
  case h_2 => exact aiRequest_inv h
  all_goals exact { h with }

theorem piWrite_inv {el : Int} {i : Nat} {v : Word} (h : s.Inv) : (s.piWrite el i v).EndsInv := by
  unfold State.piWrite
  split
  case h_3 | h_4 => exact piRequest_inv h
  case h_5 =>
    split
    · exact clearMi_inv h
    · exact h
  all_goals exact { h with }

theorem siWrite_inv {el : Int} {i : Nat} {v : Word} (h : s.Inv) : (s.siWrite el i v).EndsInv := by
  unfold State.siWrite
  split
  case h_2 | h_3 => exact siRequest_inv h
  all_goals exact { h with }

theorem slotWrite_inv {el : Int} {d : Device} {i : Nat} {v : Word} (h : s.Inv) : (s.slotWrite el d i v).EndsInv := by
  cases d with
  | mi => exact miWrite_inv { h with }
  | vi => exact viWrite_inv { h with }
  | ai => exact aiWrite_inv { h with }
  | pi => exact piWrite_inv { h with }
  | ri => exact { h with }
  | si => exact siWrite_inv { h with }

theorem readReg_inv {el : Int} {d : Device} {pa : Word} (h : s.Inv) : (s.readReg el d pa).EndsInv := by
  unfold State.readReg
  split
  · exact h
  · trivial

theorem writeReg_inv {el : Int} {d : Device} {pa v : Word} (h : s.Inv) : (s.writeReg el d pa v).EndsInv := by
  unfold State.writeReg
  split
  · exact slotWrite_inv h
  · trivial

/-! ### The bus -/

theorem cartReadBytes_inv {pa : Word} {n : Nat} (h : s.Inv) : (s.cartReadBytes pa n).2.Inv := by
  induction n generalizing pa s with
  | zero => exact h
  | succ n ih => exact ih (collabCall_inv h)

theorem cartWriteBytes_inv {pa : Word} {bs : List (Option Byte)} (h : s.Inv) : (s.cartWriteBytes pa bs).Inv := by
  induction bs generalizing pa s with
  | nil => exact h
  | cons b bs ih =>
    cases b with
    | none => exact ih h
    | some b => exact ih (collabCall_inv h)

theorem windowRead_inv {r : Region} {pa : Word} (h : s.Inv) : (s.windowRead r pa).EndsInv := by
  unfold State.windowRead
  split
  · exact readReg_inv h
  · exact collabCall_inv h
  · exact h

theorem windowWrite_inv {r : Region} {pa v : Word} (h : s.Inv) : (s.windowWrite r pa v).EndsInv := by
  unfold State.windowWrite
  split
  · exact writeReg_inv h
  · exact collabCall_inv h
  · exact h

theorem windowReadBytes_inv {r : Region} {pa : Word} {n : Nat} (h : s.Inv) : (s.windowReadBytes r pa n).EndsInv := by
  unfold State.windowReadBytes
  split
  · exact (windowRead_inv h).bind fun _ _ h => (windowRead_inv h).bind fun _ _ h => h
  · exact (windowRead_inv h).bind fun _ _ h => h

theorem physRead_inv {pa : Word} {n : Nat} (h : s.Inv) : (physRead pa n s).EndsInv := by
  unfold physRead
  split
  case h_5 => exact cartReadBytes_inv h
  case h_6 => exact windowReadBytes_inv h
  all_goals exact h

theorem physWrite_inv {whole : Bool} {pa : Word} {bs : List (Option Byte)} (h : s.Inv) : (physWrite whole pa bs s).EndsInv := by
  have hm := h.withMem (Memory.wf_writeSome bs pa.toNat h.mem)
  unfold physWrite
  split
  case h_1 | h_2 => exact hm
  case h_3 | h_4 => exact h
  case h_5 => exact cartWriteBytes_inv h
  case h_6 =>
    split
    · exact windowWrite_inv h
    · trivial

theorem lineRead_inv {pa : Word} {n : Nat} (h : s.Inv) : (lineRead pa n s).EndsInv := by
  unfold lineRead
  split
  case h_5 => exact cartReadBytes_inv h
  case h_6 => trivial
  all_goals exact h

theorem lineWrite_inv {pa : Word} {bs : List Byte} (h : s.Inv) : (lineWrite pa bs s).EndsInv := by
  have hm := h.withMem (Memory.wf_writeSome (bs.map some) pa.toNat h.mem)
  unfold lineWrite
  split
  case h_1 | h_2 => exact hm
  case h_3 | h_4 => exact h
  case h_5 => exact cartWriteBytes_inv h
  case h_6 => trivial

/-! ### The caches -/

theorem setILine_inv {pa : Word} {l : ILine} (h : s.Inv) : (s.setILine pa l).Inv := { h with }

theorem setDLine_inv {pa : Word} {l : DLine} (h : s.Inv) : (s.setDLine pa l).Inv := { h with }

theorem writeBackIf_inv {also : Bool} {pa : Word} (h : s.Inv) : (writeBackIf also pa s).EndsInv := by
  unfold writeBackIf
  split
  · exact (lineWrite_inv h).bind fun _ _ h => addCycles_inv h
  · exact h

theorem iFill_inv {pa : Word} (h : s.Inv) : (iFill pa s).EndsInv :=
  (lineRead_inv h).bind fun _ _ h => addCycles_inv (setILine_inv h)

theorem iEnsure_inv {pa : Word} (h : s.Inv) : (iEnsure pa s).EndsInv := by
  unfold iEnsure
  split
  · trivial
  · split
    · exact addCycles_inv h
    · exact iFill_inv h

theorem cachedFetch_inv {pa : Word} (h : s.Inv) : (cachedFetch pa s).EndsInv := (iEnsure_inv h).bind fun _ _ h => h

theorem dFill_inv {pa : Word} (h : s.Inv) : (dFill pa s).EndsInv :=
  (writeBackIf_inv h).bind fun _ _ h => (lineRead_inv h).bind fun _ _ h => setDLine_inv h

theorem dEnsure_inv {pa : Word} (h : s.Inv) : (dEnsure pa s).EndsInv := by
  unfold dEnsure
  split
  · trivial
  · split
    · exact addCycles_inv h
    · exact (dFill_inv h).bind fun _ _ h => addCycles_inv h

theorem cachedLoad_inv {pa : Word} {n : Nat} (h : s.Inv) : (cachedLoad pa n s).EndsInv := (dEnsure_inv h).bind fun _ _ h => h

theorem cachedStore_inv {pa : Word} {bs : List (Option Byte)} (h : s.Inv) : (cachedStore pa bs s).EndsInv :=
  (dEnsure_inv h).bind fun _ _ h => setDLine_inv h

theorem uncachedLoad_inv {pa : Word} {n : Nat} (h : s.Inv) : (uncachedLoad pa n s).EndsInv := physRead_inv (addCycles_inv h)

theorem uncachedStore_inv {whole : Bool} {pa : Word} {bs : List (Option Byte)} (h : s.Inv) :
    (uncachedStore whole pa bs s).EndsInv := physWrite_inv (addCycles_inv h)

theorem iHitInvalidate_inv {pa : Word} (h : s.Inv) : (iHitInvalidate pa s).Inv := by
  unfold iHitInvalidate
  split
  · exact setILine_inv h
  · exact h

theorem iHitWriteBack_inv {pa : Word} (h : s.Inv) : (iHitWriteBack pa s).EndsInv := by
  unfold iHitWriteBack
  split
  · exact (lineWrite_inv h).bind fun _ _ h => addCycles_inv h
  · exact h

theorem dInvalidate_inv {pa : Word} (h : s.Inv) : (dInvalidate pa s).Inv := setDLine_inv h

theorem dHitInvalidate_inv {pa : Word} (h : s.Inv) : (dHitInvalidate pa s).Inv := by
  unfold dHitInvalidate
  split
  · exact dInvalidate_inv h
  · exact h

theorem dIndexWriteBackInvalidate_inv {pa : Word} (h : s.Inv) : (dIndexWriteBackInvalidate pa s).EndsInv :=
  (writeBackIf_inv h).bind fun _ _ h => dInvalidate_inv h

theorem dCreateDirtyExclusive_inv {pa : Word} (h : s.Inv) : (dCreateDirtyExclusive pa s).EndsInv :=
  (writeBackIf_inv h).bind fun _ _ h => setDLine_inv h

theorem dHitWriteBackInvalidate_inv {pa : Word} (h : s.Inv) : (dHitWriteBackInvalidate pa s).EndsInv := by
  unfold dHitWriteBackInvalidate
  split
  · exact (writeBackIf_inv h).bind fun _ _ h => dInvalidate_inv h
  · exact h

theorem dHitWriteBack_inv {pa : Word} (h : s.Inv) : (dHitWriteBack pa s).EndsInv := by
  unfold dHitWriteBack
  split
  · exact (writeBackIf_inv h).bind fun _ _ h => setDLine_inv h
  · exact h

/-- Every operation of CACHE (R585). -/
theorem cacheOp_inv {op : BitVec 5} {pa : Word} (h : s.Inv) : (cacheOp op pa s).EndsInv := by
  unfold cacheOp
  split
  case h_1 => exact setILine_inv h
  case h_2 => exact dIndexWriteBackInvalidate_inv h
  case h_3 => exact setTagLo_inv h
  case h_4 => exact setTagLo_inv h
  case h_5 => exact setILine_inv h
  case h_6 => exact setDLine_inv h
  case h_7 => exact dCreateDirtyExclusive_inv h
  case h_8 => exact iHitInvalidate_inv h
  case h_9 => exact dHitInvalidate_inv h
  case h_10 => exact iFill_inv h
  case h_11 => exact dHitWriteBackInvalidate_inv h
  case h_12 => exact iHitWriteBack_inv h
  case h_13 => exact dHitWriteBack_inv h
  case h_14 => exact h

/-! ### Gates, translation and memory accesses -/

theorem checkCop_inv {n : BitVec 2} (h : s.Inv) : (checkCop n s).EndsInv := by
  unfold checkCop
  split
  · split
    · exact h
    · trivial
    · split <;> exact h
  · split <;> exact h

theorem require64_inv (h : s.Inv) : (require64 s).EndsInv := by
  unfold require64
  split
  · exact h
  · split <;> exact h
  · split <;> exact h
  · trivial

theorem accessAllowed_inv (h : s.Inv) : (accessAllowed s).EndsInv := by
  unfold accessAllowed
  split
  · trivial
  · split
    · trivial
    · exact h
  · exact h

theorem checkAligned_inv {kind : AccessKind} {a : DWord} {n : Nat} (h : s.Inv) : (checkAligned kind a n s).EndsInv := by
  unfold checkAligned
  split <;> exact h

theorem tlbLookup_inv {a : DWord} {kind : AccessKind} (h : s.Inv) : (tlbLookup a kind s).EndsInv := by
  unfold tlbLookup
  split
  · exact h
  · split
    · exact h
    · split <;> exact h

theorem translate_inv {a : DWord} {kind : AccessKind} (h : s.Inv) : (translate a kind s).EndsInv := by
  unfold translate
  split
  · trivial
  · split
    · exact h
    · split
      · exact h
      · exact h
      · exact tlbLookup_inv h

theorem dataChecks_inv {kind : AccessKind} {pa : Word} (h : s.Inv) : (dataChecks kind pa s).EndsInv := by
  unfold dataChecks
  split
  · exact h
  · split <;> exact h

theorem loadAt_inv {pa : Word} {c : Bool} {n : Nat} (h : s.Inv) : (loadAt pa c n s).EndsInv := by
  refine (dataChecks_inv h).bind fun _ _ h => ?_
  split
  · exact cachedLoad_inv h
  · exact uncachedLoad_inv h

theorem storeAt_inv {whole : Bool} {pa : Word} {c : Bool} {bs : List (Option Byte)} (h : s.Inv) :
    (storeAt whole pa c bs s).EndsInv := by
  refine (dataChecks_inv h).bind fun _ _ h => ?_
  split
  · exact cachedStore_inv h
  · exact uncachedStore_inv h

theorem locate_inv {kind : AccessKind} {a : DWord} {n : Nat} (h : s.Inv) : (locate kind a n s).EndsInv :=
  (accessAllowed_inv h).bind fun _ _ h => (checkAligned_inv h).bind fun _ _ h => translate_inv h

theorem memReadPa_inv {a : DWord} {n : Nat} (h : s.Inv) : (memReadPa a n s).EndsInv :=
  (locate_inv h).bind fun _ _ h => (loadAt_inv h).bind fun _ _ h => h

theorem memRead_inv {a : DWord} {n : Nat} (h : s.Inv) : (memRead a n s).EndsInv := (memReadPa_inv h).bind fun _ _ h => h

theorem memWrite_inv {a : DWord} {n : Nat} {v : DWord} (h : s.Inv) : (memWrite a n v s).EndsInv :=
  (locate_inv h).bind fun _ _ h => storeAt_inv h

theorem memWriteMasked_inv {a : DWord} {n : Nat} {v m : DWord} (h : s.Inv) : (memWriteMasked a n v m s).EndsInv :=
  (locate_inv h).bind fun _ _ h => storeAt_inv h

theorem memWriteConditional_inv {a : DWord} {n : Nat} {v : DWord} (h : s.Inv) : (memWriteConditional a n v s).EndsInv := by
  refine (locate_inv h).bind fun _ _ h => ?_
  split
  · exact (storeAt_inv h).bind fun _ _ h => h
  · exact h

theorem fetchWord_inv {pc : DWord} (h : s.Inv) : (fetchWord pc s).EndsInv := by
  have located : (locateFetch pc s).EndsInv :=
    (accessAllowed_inv h).bind fun _ _ h => (checkAligned_inv h).bind fun _ _ h => translate_inv h
  refine located.bind fun _ _ h => ?_
  split
  · exact h
  · refine Res.EndsInv.bind ?_ fun _ _ h => h
    split
    · exact cachedFetch_inv h
    · exact uncachedLoad_inv h

/-! ### What instructions are made of -/

theorem withCop_inv {n : BitVec 2} {k : State → Result} (h : s.Inv) (hk : ∀ t, t.Inv → Result.EndsInv (k t)) :
    Result.EndsInv (withCop n k s) :=
  (checkCop_inv h).finish fun _ => hk

theorem with64_inv {k : State → Result} (h : s.Inv) (hk : ∀ t, t.Inv → Result.EndsInv (k t)) : Result.EndsInv (with64 k s) :=
  (require64_inv h).finish fun _ => hk

theorem done_inv (h : s.Inv) : Result.EndsInv s.done := retire_inv h

theorem finishWord_inv {rd : RegIdx} {v : Word} (h : s.Inv) : Result.EndsInv (finishWord rd v s) := done_inv (setX_inv h)

theorem finishDouble_inv {rd : RegIdx} {v : DWord} (h : s.Inv) : Result.EndsInv (finishDouble rd v s) := done_inv (setX_inv h)

theorem finishHiLo_inv {hi lo : DWord} (h : s.Inv) : Result.EndsInv (finishHiLo hi lo s) := done_inv { h with }

theorem raiseAlways_inv {e : Exc} (h : s.Inv) : Result.EndsInv (raiseAlways e s) := takeException_inv h

theorem finishTrappingWord_inv {rd : RegIdx} {i : Int} (h : s.Inv) : Result.EndsInv (finishTrappingWord rd i s) := by
  unfold finishTrappingWord
  split
  · exact takeException_inv h
  · exact finishWord_inv h

theorem finishTrappingDouble_inv {rd : RegIdx} {i : Int} (h : s.Inv) : Result.EndsInv (finishTrappingDouble rd i s) := by
  unfold finishTrappingDouble
  split
  · exact takeException_inv h
  · exact finishDouble_inv h

theorem trapIf_inv {c : Bool} (h : s.Inv) : Result.EndsInv (trapIf c s) := by
  unfold trapIf
  split
  · exact takeException_inv h
  · exact done_inv h

theorem branch_inv {c : Bool} {target : DWord} (h : s.Inv) : Result.EndsInv (s.branch c target) := by
  unfold State.branch
  split
  · refine advance_inv ?_
    split <;> exact { h with }
  · exact advance_inv h

theorem branchLikely_inv {c : Bool} {target : DWord} (h : s.Inv) : Result.EndsInv (s.branchLikely c target) := by
  unfold State.branchLikely
  split
  · show State.Inv (if c then _ else _)
    split
    · exact advance_inv { h with }
    · exact advance_inv h
  · exact advance_inv h

theorem loadWith_inv {ext : DWord → DWord} {n : Nat} {rt base : RegIdx} {offset : Half} (h : s.Inv) :
    Result.EndsInv (loadWith ext n rt base offset s) :=
  (memRead_inv h).finish fun _ _ h => finishDouble_inv h

theorem storeWith_inv {n : Nat} {rt base : RegIdx} {offset : Half} (h : s.Inv) :
    Result.EndsInv (storeWith n rt base offset s) :=
  (memWrite_inv h).finish fun _ _ h => done_inv h

theorem loadMerge_inv {merge : Nat → DWord → DWord → DWord} {n : Nat} {rt base : RegIdx} {offset : Half} (h : s.Inv) :
    Result.EndsInv (loadMerge merge n rt base offset s) :=
  ((memRead_inv h).withAddress _).finish fun _ _ h => finishDouble_inv h

theorem storeMasked_inv {place : Nat → DWord → DWord × DWord} {n : Nat} {rt base : RegIdx} {offset : Half} (h : s.Inv) :
    Result.EndsInv (storeMasked place n rt base offset s) :=
  ((memWriteMasked_inv h).withAddress _).finish fun _ _ h => done_inv h

theorem loadLinked_inv {ext : DWord → DWord} {n : Nat} {rt base : RegIdx} {offset : Half} (h : s.Inv) :
    Result.EndsInv (loadLinked ext n rt base offset s) :=
  (memReadPa_inv h).finish fun _ _ h => finishDouble_inv (reserve_inv h)

theorem storeConditional_inv {n : Nat} {rt base : RegIdx} {offset : Half} (h : s.Inv) :
    Result.EndsInv (storeConditional n rt base offset s) :=
  (memWriteConditional_inv h).finish fun _ _ h => finishDouble_inv h

theorem execCache_inv {op : BitVec 5} {base : RegIdx} {offset : Half} (h : s.Inv) : Result.EndsInv (execCache op base offset s) :=
  (checkCop_inv h).finish fun _ _ h => (translate_inv h).finish fun _ _ h => (cacheOp_inv h).finish fun _ _ h => done_inv h

theorem setFgr32_inv {n : RegIdx} {v : Word} (h : s.Inv) : (s.setFgr32 n v).Inv := h.congr (by simp)

theorem setFgr64_inv {n : RegIdx} {v : DWord} (h : s.Inv) : (s.setFgr64 n v).Inv := h.congr (by simp)

theorem fpWrite_inv {f : FpFmt} {n : RegIdx} {v : DWord} (h : s.Inv) : (s.fpWrite f n v).Inv := h.congr (by simp)

theorem fpUnimplementedTrap_inv (h : s.Inv) : (fpUnimplementedTrap s).Inv :=
  takeException_inv (setFcsr_inv h (setFpUnimplemented_fixed h.fcsr))

theorem fpArith_inv {o : FpOutcome} {dst : FpFmt} {fd : RegIdx} (h : s.Inv) : Result.EndsInv (fpArith o dst fd s) := by
  unfold fpArith
  split
  · exact fpUnimplementedTrap_inv h
  · split
    · exact takeException_inv (setFcsr_inv h (setFpCause_fixed h.fcsr))
    · exact retire_inv (fpWrite_inv (setFcsr_inv h (accrueFpFlags_fixed (setFpCause_fixed h.fcsr))))

theorem fpCompare_inv {f : FpFmt} {cond : BitVec 4} {fs ft : RegIdx} (h : s.Inv) : Result.EndsInv (fpCompare f cond fs ft s) := by
  unfold fpCompare
  dsimp only
  split
  · exact takeException_inv (setFcsr_inv h (setFpCause_fixed h.fcsr))
  · exact retire_inv (setFcsr_inv h (setFcsrC_fixed (accrueFpFlags_fixed (setFpCause_fixed h.fcsr))))

theorem writeFcr_inv {n : RegIdx} {v : Word} (h : s.Inv) : Result.EndsInv (writeFcr n v s) := by
  have ht : (s.setFcsr (v &&& 0x0183FFFF#32)).Inv :=
    setFcsr_inv h (by rw [BitVec.and_assoc]; exact BitVec.and_zero)
  unfold writeFcr
  dsimp only
  split
  · split
    · exact takeException_inv ht
    · exact done_inv ht
  · exact done_inv h

/-! ### Instructions -/

/-- Every instruction, by the shared operation it ends in. -/
theorem exec_inv {i : Instr} (h : s.Inv) : Result.EndsInv (exec i s) := by
  cases i
  case add | sub | addi => exact finishTrappingWord_inv h
  case addu | subu | addiu | lui | sll | srl | sra | sllv | srlv | srav => exact finishWord_inv h
  case dadd | dsub | daddi => exact with64_inv h fun _ h => finishTrappingDouble_inv h
  case daddu | dsubu | daddiu | dsll | dsrl | dsra | dsll32 | dsrl32 | dsra32 | dsllv | dsrlv | dsrav =>
    exact with64_inv h fun _ h => finishDouble_inv h
  case and | or | xor | nor | andi | ori | xori | slt | sltu | slti | sltiu | mfhi | mflo => exact finishDouble_inv h
  case mult | multu | div | divu | mthi | mtlo => exact finishHiLo_inv h
  case dmult | dmultu | ddiv | ddivu => exact with64_inv h fun _ h => finishHiLo_inv h
  case j | jr | beq | bne | blez | bgtz | bltz | bgez => exact branch_inv h
  case jal | jalr | bltzal | bgezal => exact branch_inv (setX_inv h)
  case beql | bnel | blezl | bgtzl | bltzl | bgezl => exact branchLikely_inv h
  case bltzall | bgezall => exact branchLikely_inv (setX_inv h)
  case lb | lbu | lh | lhu | lw => exact loadWith_inv h
  case lwu | ld => exact with64_inv h fun _ h => loadWith_inv h
  case sb | sh | sw => exact storeWith_inv h
  case sd => exact with64_inv h fun _ h => storeWith_inv h
  case lwl | lwr => exact loadMerge_inv h
  case ldl | ldr => exact with64_inv h fun _ h => loadMerge_inv h
  case swl | swr => exact storeMasked_inv h
  case sdl | sdr => exact with64_inv h fun _ h => storeMasked_inv h
  case ll => exact loadLinked_inv h
  case lld => exact with64_inv h fun _ h => loadLinked_inv h
  case sc => exact storeConditional_inv h
  case scd => exact with64_inv h fun _ h => storeConditional_inv h
  case sync => exact done_inv h
  case cache => exact execCache_inv h
  case syscall | brk => exact raiseAlways_inv h
  case tge | tgeu | tlt | tltu | teq | tne | tgei | tgeiu | tlti | tltiu | teqi | tnei => exact trapIf_inv h
  case mfc0 | mfc1 | cfc1 => exact withCop_inv h fun _ h => finishWord_inv h
  case dmfc0 | dmfc1 => exact withCop_inv h fun _ h => with64_inv h fun _ h => finishDouble_inv h
  case mtc0 => exact withCop_inv h fun _ h => done_inv (writeCop0_inv h)
  case dmtc0 => exact withCop_inv h fun _ h => with64_inv h fun _ h => done_inv (writeCop0_inv h)
  case tlbr => exact withCop_inv h fun _ h => done_inv { h with cop0 := readEntry_wf h.cop0 }
  case tlbwi | tlbwr => exact withCop_inv h fun _ h => done_inv (tlbWrite_inv h)
  case tlbp => exact withCop_inv h fun _ h => done_inv (tlbProbe_inv h)
  case eret => exact withCop_inv h fun _ h => returnFromException_inv h
  case lwc1 => exact withCop_inv h fun _ h => (memRead_inv h).finish fun _ _ h => done_inv (setFgr32_inv h)
  case ldc1 => exact withCop_inv h fun _ h => (memRead_inv h).finish fun _ _ h => done_inv (setFgr64_inv h)
  case swc1 | sdc1 => exact withCop_inv h fun _ h => (memWrite_inv h).finish fun _ _ h => done_inv h
  case mtc1 => exact withCop_inv h fun _ h => done_inv (setFgr32_inv h)
  case dmtc1 => exact withCop_inv h fun _ h => with64_inv h fun _ h => done_inv (setFgr64_inv h)
  case ctc1 => exact withCop_inv h fun _ h => writeFcr_inv h
  case bc1f | bc1t => exact withCop_inv h fun _ h => branch_inv h
  case bc1fl | bc1tl => exact withCop_inv h fun _ h => branchLikely_inv h
  case addS | addD | subS | subD | mulS | mulD | divS | divD | sqrtS | sqrtD | absS | absD | negS | negD | roundLS | roundLD
      | truncLS | truncLD | ceilLS | ceilLD | floorLS | floorLD | roundWS | roundWD | truncWS | truncWD | ceilWS | ceilWD
      | floorWS | floorWD | cvtSD | cvtSW | cvtSL | cvtDS | cvtDW | cvtDL | cvtWS | cvtWD | cvtLS | cvtLD =>
    exact withCop_inv h fun _ h => fpArith_inv h
  case movS | movD => exact withCop_inv h fun _ h => done_inv (fpWrite_inv h)
  case cFS | cFD | cUnS | cUnD | cEqS | cEqD | cUeqS | cUeqD | cOltS | cOltD | cUltS | cUltD | cOleS | cOleD | cUleS | cUleD
      | cSfS | cSfD | cNgleS | cNgleD | cSeqS | cSeqD | cNglS | cNglD | cLtS | cLtD | cNgeS | cNgeD | cLeS | cLeD | cNgtS
      | cNgtD =>
    exact withCop_inv h fun _ h => fpCompare_inv h
  case cop2 | lwc2 | ldc2 | swc2 | sdc2 => exact withCop_inv h fun _ h => raiseAlways_inv h

theorem execReserved_inv {r : Reject} (h : s.Inv) : Result.EndsInv (execReserved r s) := by
  cases r with
  | reservedMajor | reservedSpecial | reservedRegimm => exact raiseAlways_inv h
  | reservedCop0 | reservedCop1 => exact withCop_inv h fun _ h => raiseAlways_inv h
  | unimplementedCop1 => exact withCop_inv h fun _ h => fpUnimplementedTrap_inv h

/-! ### The CPU's step and the run loop -/

theorem onNext_inv {f : State → State} {r : Result} (hr : Result.EndsInv r) (hf : ∀ t, t.Inv → (f t).Inv) :
    Result.EndsInv (onNext f r) := by
  cases r with
  | next t => exact hf t hr
  | fault e => trivial
  | refused q => trivial

theorem executeWord_inv {w : Word} (h : s.Inv) : Result.EndsInv (executeWord w s) := by
  refine onNext_inv ?_ fun _ h => h.congr (by simp)
  split
  · exact exec_inv h
  · exact execReserved_inv h

theorem stepBody_inv (h : s.Inv) : Result.EndsInv (stepBody s) := by
  unfold stepBody
  split
  · exact takeException_inv h
  · exact (fetchWord_inv h).finish fun _ _ h => executeWord_inv h

theorem atBoundary_inv (h : s.Inv) : s.atBoundary.Inv := by
  have hr : s.resolveBranch.Inv := h.congr (by simp)
  exact { hr with }

theorem cpuStep_inv (h : s.Inv) (hs : cpuStep s = .next t) : t.Inv := by
  obtain ⟨-, u, hu, rfl⟩ := cpuStep_next hs
  exact endStep_inv ((stepBody_inv (atBoundary_inv h)).inv hu)

theorem runRsp_inv {n : Nat} (h : s.Inv) : (runRsp n s).Inv := by
  unfold runRsp
  split
  · exact { collabCall_inv h with }
  · exact h

theorem endIteration_inv (h : s.Inv) : (endIteration s).Inv := { advanceEvents_inv (runRsp_inv h) with }

theorem afterStep_inv (h : s.Inv) : (afterStep s).Inv := by
  unfold afterStep
  split
  · exact endIteration_inv h
  · exact h

/-! ### Calls of the host -/

theorem hostAccess_inv {α : Type} {r : Res α} {k : α → State → State} (hr : r.EndsInv) (hk : ∀ a t, t.Inv → (k a t).Inv) :
    Result.EndsInv (hostAccess r k s) := by
  cases r with
  | ok a t => exact { hk a t hr with }
  | raise e t => trivial
  | refuse q => trivial

theorem outsideRun_inv (h : s.Inv) : s.outsideRun.Inv := { h with }

theorem hostReadReg_inv {pa : Word} (h : s.Inv) : (hostReadReg pa s).EndsInv := by
  unfold hostReadReg
  split
  · exact readReg_inv h
  · trivial

theorem hostWriteReg_inv {pa v : Word} (h : s.Inv) : (hostWriteReg pa v s).EndsInv := by
  unfold hostWriteReg
  split
  · exact writeReg_inv h
  · trivial

theorem powerOn_inv (h : s.Inv) : (powerOn s).Inv := by
  unfold powerOn
  split
  · exact coldReset_inv h
  · exact h

theorem raiseInterrupt_inv {src : IntrSource} (h : s.Inv) : (raiseInterrupt src s).Inv := by
  cases src <;> exact { h with }

theorem clearInterrupt_inv {src : IntrSource} (h : s.Inv) : (clearInterrupt src s).Inv := by
  cases src <;> exact { h with }

theorem loadFirmware_inv {image : List Byte} (h : s.Inv) : (loadFirmware image s).Inv := by
  have hm := h.withMem (Memory.wf_writeBytes image pifRomBase h.mem)
  unfold loadFirmware
  split
  · exact hm.congr ⟨rfl, rfl, rfl, rfl, rfl⟩
  · exact { h with }

theorem hostCall_inv {c : HostCall} (h : s.Inv) : Result.EndsInv (hostCall c s) := by
  have ho := outsideRun_inv h
  cases c with
  | readVirtual w a => exact hostAccess_inv (memRead_inv ho) fun _ _ h => { h with }
  | writeVirtual w a v => exact hostAccess_inv (memWrite_inv ho) fun _ _ h => h
  | powerOn => exact powerOn_inv h
  | softReset => exact softReset_inv h
  | raiseInterrupt src => exact raiseInterrupt_inv h
  | clearInterrupt src => exact clearInterrupt_inv h
  | readReg pa => exact hostAccess_inv (hostReadReg_inv ho) fun _ _ h => { h with }
  | writeReg pa v => exact hostAccess_inv (hostWriteReg_inv ho) fun _ _ h => h
  | setPad b => exact { h with }
  | setStop b => exact { h with }
  | loadFirmware image => exact loadFirmware_inv h

/-- Settles O4: each of the four things a step can be keeps the invariant, the rest of an advance, a call of the host, the end of an
iteration, and a CPU step with what the run loop does after it. -/
theorem stepKeepsInv : Obligations.StepKeepsInv := by
  intro s t h hs
  rcases step_cases hs with ⟨-, rfl⟩ | ⟨-, c, rest, -, hc⟩ | ⟨-, -, -, -, rfl⟩ | ⟨-, -, -, -, u, hu, rfl⟩
  · exact continueAdvance_inv h
  · have hr : State.Inv { s with inputs := rest } := { h with }
    exact (hostCall_inv hr).inv hc
  · exact endIteration_inv h
  · exact afterStep_inv (cpuStep_inv h hu)

end Sys2Proof.Machine
end

section
/-! SUPPORT. The low half of a word, its fields, the masks that are a run of ones, and the four bytes of a word, as numbers. -/

namespace Sys2Proof.Machine

/-! ### Words and their low halves -/

@[simp] theorem low32_sext32 (w : Word) : low32 (sext32 w) = w := by
  apply BitVec.eq_of_getLsbD_eq
  intro i hi
  simp [low32, sext32, BitVec.getLsbD_signExtend, hi]
  omega

theorem low32_eq_ofNat (a : DWord) : low32 a = BitVec.ofNat 32 (a.toNat % 2 ^ 32) := by
  apply BitVec.eq_of_toNat_eq
  simp [low32_toNat]

theorem low32_sub {a : DWord} {k : Nat} (hk : k < 2 ^ 32) (h : k ≤ a.toNat % 2 ^ 32) :
    low32 a - BitVec.ofNat 32 k = BitVec.ofNat 32 (a.toNat % 2 ^ 32 - k) := by
  have hk' : (BitVec.ofNat 32 k).toNat = k := Nat.mod_eq_of_lt hk
  apply BitVec.eq_of_toNat_eq
  rw [BitVec.toNat_sub_of_le (by rwa [BitVec.le_def, hk', low32_toNat]), hk', low32_toNat, BitVec.toNat_ofNat]
  omega

theorem toNat_bitField {n : Nat} (v : BitVec n) (lo len : Nat) : (bitField v lo len).toNat = v.toNat / 2 ^ lo % 2 ^ len := by
  rw [BitVec.extractLsb'_toNat, Nat.shiftRight_eq_div_pow]

/-! ### Masks that are a window of ones -/

/-- Under the ones of bits `l` to `h - 1` a word is a multiple of `2 ^ l` below `2 ^ h`. -/
theorem toNat_and_window {n : Nat} (a : BitVec n) {l h : Nat} (hl : l ≤ h) (hh : h ≤ n) :
    (a &&& BitVec.ofNat n (2 ^ h - 2 ^ l)).toNat = a.toNat % 2 ^ h / 2 ^ l * 2 ^ l := by
  have hw : 2 ^ h - 2 ^ l = 2 ^ l * (2 ^ (h - l) - 1) := by rw [Nat.mul_sub, ← pow_add, Nat.add_sub_cancel' hl, mul_one]
  rw [BitVec.toNat_and, BitVec.toNat_ofNat, hw]
  apply Nat.eq_of_testBit_eq
  intro i
  simp only [Nat.testBit_and, Nat.testBit_mod_two_pow, Nat.testBit_two_pow_mul, Nat.testBit_two_pow_sub_one,
    Nat.testBit_mul_two_pow, Nat.testBit_div_two_pow]
  by_cases hi : l ≤ i
  · have hb : i - l < h - l ↔ i < h := by omega
    by_cases hih : i < h
    · simp [hi, hb, hih, show i < n by omega]
    · simp [hi, hb, hih]
  · simp [hi]

/-- Two words agree on bits `l` to `h - 1`. -/
theorem and_window_eq_iff {n : Nat} (a b : BitVec n) {l h : Nat} (hl : l ≤ h) (hh : h ≤ n) :
    a &&& BitVec.ofNat n (2 ^ h - 2 ^ l) = b &&& BitVec.ofNat n (2 ^ h - 2 ^ l)
      ↔ a.toNat % 2 ^ h / 2 ^ l = b.toNat % 2 ^ h / 2 ^ l := by
  rw [← BitVec.toNat_inj, toNat_and_window a hl hh, toNat_and_window b hl hh]
  exact Nat.mul_left_inj (by positivity)

/-! ### Bytes of a word (R201) -/

theorem setWidth_append_byte {n : Nat} (v : BitVec n) (b : Byte) :
    (v.setWidth 64 <<< 8) ||| b.setWidth 64 = (v ++ b).setWidth 64 := by
  apply BitVec.eq_of_getLsbD_eq
  intro i hi
  by_cases h : i < 8
  · simp [BitVec.getLsbD_append, hi, h]
  · simp [BitVec.getLsbD_append, hi, h, BitVec.getLsbD_of_ge b i (by omega)]

theorem low32_ofBytes_four (f : Nat → Byte) : low32 (ofBytes ((List.range 4).map f)) = f 0 ++ f 1 ++ f 2 ++ f 3 := by
  have h : ofBytes ((List.range 4).map f) = (f 0 ++ f 1 ++ f 2 ++ f 3).setWidth 64 := by
    show (((0#64 <<< 8 ||| (f 0).setWidth 64) <<< 8 ||| (f 1).setWidth 64) <<< 8 ||| (f 2).setWidth 64) <<< 8 ||| (f 3).setWidth 64 = _
    rw [BitVec.zero_shiftLeft, BitVec.zero_or, setWidth_append_byte, setWidth_append_byte,
      setWidth_append_byte]
  rw [h]
  exact BitVec.setWidth_setWidth_of_le _ (by decide)

end Sys2Proof.Machine
end

section
/-! SUPPORT. An instruction fetch: through the instruction cache or from the region of its address, and what a misaligned one
raises (`20_memory.md` R203, R207, R242; `42_control.md` R503). -/

namespace Sys2Proof.Machine

/-! ### Instruction lines (R242) -/

theorem lineBytes_eq_map {k : Nat} (d : Vector Byte k) {off n : Nat} (h : off + n ≤ k) :
    lineBytes d off n = (List.range n).map fun i => d.toList.getD (off + i) 0#8 := by
  apply List.ext_getElem
  · simp [lineBytes]; omega
  · intro i _ hi
    have hlt : off + i < k := by
      rw [List.length_map, List.length_range] at hi
      omega
    simp [lineBytes, hlt]

theorem toNat_iLineBase (pa : Word) : (iLineBase pa).toNat = pa.toNat - pa.toNat % 32 := by
  have h : (iLineBase pa).toNat = pa.toNat % 2 ^ 32 / 2 ^ 5 * 2 ^ 5 := toNat_and_window pa (l := 5) (h := 32) (by decide) (by decide)
  have := pa.isLt
  omega

/-- The byte at `a` of the line of `pa` in memory, or of unclaimed addresses (R247, log entry 22). -/
def State.lineByte (pa : Word) (s : State) (a : Nat) : Byte := if s.region pa = .openBus then s.openByte a else s.mem.read a

variable {pa : Word} {s : State}

theorem setILine_iLine (pa : Word) (l : ILine) (s : State) : (s.setILine pa l).iLine pa = l := by
  simp [State.setILine, State.iLine]

theorem setILine_other (pa : Word) (l : ILine) (s : State) {i : Fin 512} (h : i ≠ iIndex pa) :
    (s.setILine pa l).icache[i.val] = s.icache[i.val] := by
  have : (iIndex pa).val ≠ i.val := fun e => h (Fin.ext e.symm)
  simp [State.setILine, Vector.getElem_set_ne _ _ this]

/-- What filling the instruction line of `pa` leaves: the line's bytes of memory under the tag of `pa`, and nothing else but cycles. -/
structure ILineFilled (pa : Word) (s t : State) : Prop where
  frame : t = { s with icache := t.icache, stepCycles := t.stepCycles }
  cycles : t.stepCycles = s.stepCycles + s.cfg.costs.icacheMiss
  others : ∀ i : Fin 512, i ≠ iIndex pa → t.icache[i.val] = s.icache[i.val]
  valid : (t.iLine pa).valid = true
  tag : (t.iLine pa).tag = cacheTag pa
  data : ∀ i : Nat, i < 32 → (t.iLine pa).data.toList.getD i 0#8 = s.lineByte pa ((iLineBase pa).toNat + i)

/-- Filling an instruction line from a plain region (R242, R247). -/
theorem iFill_plain (hp : (s.region pa).isPlain = true) : ∃ t, iFill pa s = .ok () t ∧ ILineFilled pa s t := by
  have hr : s.region (iLineBase pa) = s.region pa := route_line (.inr rfl) (toNat_iLineBase pa)
  have hlt : (iLineBase pa).toNat + 32 ≤ 2 ^ 32 := by
    have := pa.isLt
    rw [toNat_iLineBase]
    omega
  have hread : lineRead (iLineBase pa) 32 s
      = .ok ((List.range 32).map fun i => s.lineByte pa ((iLineBase pa).toNat + i)) s := by
    rw [lineRead_plain (by rwa [hr]) hlt, hr]
    rfl
  rw [iFill, hread, bind_ok]
  refine ⟨_, rfl, rfl, rfl, fun i => setILine_other pa _ s, ?_, ?_, fun i hi => ?_⟩
  all_goals rw [show ∀ n t, (State.addCycles n t).iLine pa = t.iLine pa from fun _ _ => rfl, setILine_iLine]
  rw [lineData_toList (by simp), getD_map_range hi]

theorem iEnsure_hit (hp : (s.region pa).isPlain = true) (hh : (s.iLine pa).hits pa = true) :
    iEnsure pa s = .ok () (s.addCycles s.cfg.costs.icacheHit) := by
  rw [iEnsure, isWindow_of_plain hp, if_neg Bool.false_ne_true, if_pos hh]

theorem iEnsure_miss (hp : (s.region pa).isPlain = true) (hh : (s.iLine pa).hits pa = false) : iEnsure pa s = iFill pa s := by
  rw [iEnsure, isWindow_of_plain hp, if_neg Bool.false_ne_true, hh, if_neg Bool.false_ne_true]

theorem iEnsure_window (hw : (s.region pa).isWindow = true) : iEnsure pa s = .refuse .cachedWindow := if_pos hw

/-- A fetch that may be made and meets no bus error reads the instruction line or the region of its address (R503). -/
theorem fetchWord_located {pc : DWord} {cacheable : Bool} (ha : s.accessible) (hz : pc.toNat % 4 = 0)
    (ht : translate pc .fetch s = .ok (pa, cacheable) s) (hb : busError s.cfg pa .fetch = false) :
    fetchWord pc s = (if cacheable then cachedFetch pa s else uncachedLoad pa 4 s).bind fun bs s => .ok (low32 (ofBytes bs)) s := by
  simp [fetchWord, locateFetch, checkAligned, accessAllowed_ok ha, hz, ht, hb]

theorem isPlain_of_reaches_cached {kind : AccessKind} {n : Nat} (h : s.reaches kind pa n true) : (s.region pa).isPlain = true := by
  rcases h with h | ⟨_, _, _, hc, _⟩
  · exact h
  · cases hc

theorem uncachedCost_four (pa : Word) (s : State) : s.uncachedCost pa 4 = s.cfg.costs.uncached4 := by
  unfold State.uncachedCost
  split <;> rfl

/-- A cached fetch from a line that is present (R242). -/
theorem cachedFetch_present {t : State} (ha : pa.toNat % 4 = 0) (h : iEnsure pa s = .ok () t) :
    cachedFetch pa s = .ok ((List.range 4).map fun k => (t.iLine pa).data.toList.getD (pa.toNat % 32 + k) 0#8) t := by
  rw [cachedFetch, h, bind_ok, lineBytes_eq_map _ (by omega)]

/-- Settles O10, by the three ways of a fetch: uncached, from a line that hits, and from a line that is filled. -/
theorem fetchReadsWord : Obligations.FetchReadsWord := by
  unfold Obligations.FetchReadsWord
  intro s pa cacheable ha hz ht hb
  have hfetch := fetchWord_located ha hz ht hb
  have hpa : pa.toNat % 4 = 0 := by
    have := translate_mod ht
    omega
  refine ⟨fun hc hw => ?_, fun hr => ?_⟩
  · have hw : (s.region pa).isWindow = true := by
      rcases hw with ⟨_, hw⟩ | ⟨_, hw⟩ <;> rw [hw] <;> rfl
    rw [hfetch, hc, if_pos rfl, cachedFetch, iEnsure_window hw]
    rfl
  · dsimp only
    cases cacheable with
    | false =>
      have hread : uncachedLoad pa 4 s = .ok (s.seenBytes false pa 4) (s.addCycles s.cfg.costs.uncached4) := by
        rw [uncachedLoad, uncachedCost_four]
        exact physRead_reaches (s := s.addCycles s.cfg.costs.uncached4) (by decide) hpa hr
      refine ⟨s.addCycles s.cfg.costs.uncached4, ?_, rfl, fun _ => ⟨rfl, rfl⟩, nofun, nofun⟩
      rw [hfetch, if_neg Bool.false_ne_true, hread, bind_ok, State.seenBytes, low32_ofBytes_four]
      simp
    | true =>
      have hp := isPlain_of_reaches_cached hr
      cases hh : (s.iLine pa).hits pa with
      | true =>
        refine ⟨s.addCycles s.cfg.costs.icacheHit, ?_, rfl, nofun, fun _ _ => ⟨rfl, rfl⟩, nofun⟩
        rw [hfetch, if_pos rfl, cachedFetch_present hpa (iEnsure_hit hp hh), bind_ok, low32_ofBytes_four]
        rfl
      | false =>
        obtain ⟨t, hfill, hl⟩ := iFill_plain hp
        refine ⟨t, ?_, hl.frame, nofun, nofun, fun _ _ => ⟨hl.cycles, hl.others, hl.valid, hl.tag, hl.data⟩⟩
        have hbyte : ∀ k < 4, (t.iLine pa).data.toList.getD (pa.toNat % 32 + k) 0#8 = s.lineByte pa (pa.toNat + k) := by
          intro k hk
          rw [hl.data _ (by omega), toNat_iLineBase]
          congr 1
          omega
        rw [hfetch, if_pos rfl, cachedFetch_present hpa ((iEnsure_miss hp hh).trans hfill), bind_ok, low32_ofBytes_four,
          hbyte 0 (by decide), hbyte 1 (by decide), hbyte 2 (by decide), hbyte 3 (by decide)]
        rfl

/-! ### A misaligned fetch (R207) -/

@[simp] theorem atBoundary_cop0 (s : State) : s.atBoundary.cop0 = s.cop0 := resolveBranch_cop0 s

/-- Whether 64-bit addresses are in use is a function of coprocessor 0 (R801). -/
theorem is64_of_cop0 {s t : State} (h : t.cop0 = s.cop0) : t.is64 = s.is64 := by
  unfold State.is64 State.kx State.sx State.ux State.status
  rw [mode_of_cop0 h, h]

/-- Whether an access is allowed is a function of coprocessor 0 (D4, D6). -/
theorem accessible_of_cop0 {s t : State} (h : t.cop0 = s.cop0) (ha : s.accessible) : t.accessible := by
  unfold State.accessible State.re State.status
  rw [mode_of_cop0 h, h]
  exact ha

theorem fetchWord_misaligned {pc : DWord} {s : State} (ha : s.accessible) (hm : pc.toNat % 4 ≠ 0) :
    fetchWord pc s = .raise (.adel (s.adjusted pc)) s := by
  simp [fetchWord, locateFetch, checkAligned, accessAllowed_ok ha, hm, addressError]

/-- A CPU step whose fetch raises takes that exception (R503). -/
theorem step_fetch_raises {s : State} {e : Exc} (hr : s.Running) (hi : s.atBoundary.interruptPending = false)
    (hf : fetchWord s.atBoundary.pc s.atBoundary = .raise e s.atBoundary) :
    step s = .next (afterStep (takeException e s.atBoundary).endStep) := by
  simp [step_running hr, runLoopStep, cpuStep_eq hr.mode, stepBody, hi, fetchAndExecute, hf]

/-- Settles O14: the alignment check of the fetch raises AdEL in the boundary state, where the latch is clear and one cycle is charged. -/
theorem misalignedFetch : Obligations.MisalignedFetch := by
  unfold Obligations.MisalignedFetch
  intro s hr ha hi hm
  have hf := fetchWord_misaligned (accessible_of_cop0 (atBoundary_cop0 s) ha) hm
  have htaken := takeException_taken (.adel (s.atBoundary.adjusted s.atBoundary.pc)) s.atBoundary rfl
  have hrec : s.atBoundary.adjusted s.atBoundary.pc
      = if s.is64 = true then s.atBoundary.pc else sext32 (low32 s.atBoundary.pc) := by
    rw [State.adjusted, is64_of_cop0 (atBoundary_cop0 s)]
  rw [← hrec]
  exact ⟨_, htaken, htaken.cycles, step_fetch_raises hr hi hf⟩

end Sys2Proof.Machine
end

section
/-! SUPPORT. The segment maps: each strategy's map by the ranges of its addresses (`20_memory.md` R211 to R218). -/

namespace Sys2Proof.Machine

/-! ### Translation by the place of an address (R211, R212, R218) -/

/-- What an access to an address meets at its place in a segment map (R218). -/
def Place.access (a : DWord) (kind : AccessKind) (s : State) : Place → Res (Word × Bool)
  | .addressError => .raise (Sys2Proof.Machine.addressError kind a) s
  | .unmapped pa c => .ok (pa, c) s
  | .mapped => tlbLookup a kind s

@[simp] theorem access_addressError (a : DWord) (kind : AccessKind) (s : State) :
    Place.addressError.access a kind s = .raise (if kind = .store then .ades a else .adel a) s := by
  cases kind <;> rfl

@[simp] theorem access_unmapped (a : DWord) (kind : AccessKind) (s : State) (pa : Word) (c : Bool) :
    (Place.unmapped pa c).access a kind s = .ok (pa, c) s := rfl

@[simp] theorem access_mapped (a : DWord) (kind : AccessKind) (s : State) :
    Place.mapped.access a kind s = tlbLookup a kind s := rfl

variable {a : DWord} {kind : AccessKind} {s : State}

theorem mode_of_is64 (h : s.is64 = true) : s.mode ≠ .reserved := by
  intro hm
  simp [State.is64, hm] at h

/-- In a 64-bit strategy the address itself is looked up in the map. -/
theorem translate_wide (h : s.is64 = true) : translate a kind s = (s.mapOf a).access a kind s := by
  have hs : s.strictError a = false := by simp [State.strictError, h]
  unfold translate
  rw [if_neg (mode_of_is64 h), hs, if_neg Bool.false_ne_true, State.adjusted, if_pos h]
  rfl

/-- In a 32-bit strategy the sign-extended low word is. -/
theorem translate_narrow (hm : s.mode ≠ .reserved) (h : s.is64 = false) (ha : s.cfg.addr32Strict = false ∨ a = sext32 (low32 a)) :
    translate a kind s = (s.mapOf (sext32 (low32 a))).access (sext32 (low32 a)) kind s := by
  have hadj : s.adjusted a = sext32 (low32 a) := by simp [State.adjusted, h]
  have hs : s.strictError a = false := by
    rcases ha with ha | ha
    · simp [State.strictError, ha]
    · simp [State.strictError, hadj, ← ha]
  unfold translate
  rw [if_neg hm, hs, if_neg Bool.false_ne_true, hadj]
  rfl

/-- ADDR32_STRICT makes an address that is not sign-extended an address error (R212). -/
theorem translate_strict (hm : s.mode ≠ .reserved) (hc : s.cfg.addr32Strict = true) (h : s.is64 = false)
    (ha : a ≠ sext32 (low32 a)) :
    translate a kind s = Place.addressError.access (sext32 (low32 a)) kind s := by
  have hadj : s.adjusted a = sext32 (low32 a) := by simp [State.adjusted, h]
  have hs : s.strictError a = true := by simp [State.strictError, hadj, hc, h, Ne.symm ha]
  unfold translate
  rw [if_neg hm, if_pos hs, hadj]
  rfl

/-! ### The maps by ranges (R213 to R217) -/

variable {erl k0 : Bool}

theorem kernel32_kuseg (h : a.toNat % 2 ^ 32 < 0x80000000) :
    kernel32 erl k0 (low32 a) = if erl then .unmapped (BitVec.ofNat 32 (a.toNat % 2 ^ 32)) false else .mapped := by
  rw [kernel32, if_pos (by rwa [low32_toNat]), low32_eq_ofNat]

theorem kernel32_kseg0 (h1 : 0x80000000 ≤ a.toNat % 2 ^ 32) (h2 : a.toNat % 2 ^ 32 < 0xA0000000) :
    kernel32 erl k0 (low32 a) = .unmapped (BitVec.ofNat 32 (a.toNat % 2 ^ 32 - 0x80000000)) k0 := by
  rw [kernel32, low32_toNat, if_neg (by omega), if_pos h2, low32_sub (by decide) h1]

theorem kernel32_kseg1 (h1 : 0xA0000000 ≤ a.toNat % 2 ^ 32) (h2 : a.toNat % 2 ^ 32 < 0xC0000000) :
    kernel32 erl k0 (low32 a) = .unmapped (BitVec.ofNat 32 (a.toNat % 2 ^ 32 - 0xA0000000)) false := by
  rw [kernel32, low32_toNat, if_neg (by omega), if_neg (by omega), if_pos h2, low32_sub (by decide) h1]

theorem kernel32_upper (h : 0xC0000000 ≤ a.toNat % 2 ^ 32) : kernel32 erl k0 (low32 a) = .mapped := by
  rw [kernel32, low32_toNat, if_neg (by omega), if_neg (by omega), if_neg (by omega)]

theorem user32_eq : user32 (low32 a) = if a.toNat % 2 ^ 32 < 0x80000000 then .mapped else .addressError := by
  rw [user32, low32_toNat]

theorem supervisor32_mapped
    (h : a.toNat % 2 ^ 32 < 0x80000000 ∨ (0xC0000000 ≤ a.toNat % 2 ^ 32 ∧ a.toNat % 2 ^ 32 < 0xE0000000)) :
    supervisor32 (low32 a) = .mapped := by
  rw [supervisor32, low32_toNat]
  rcases h with h | h
  · rw [if_pos h]
  · rw [if_neg (by omega), if_pos h]

theorem supervisor32_error
    (h : (0x80000000 ≤ a.toNat % 2 ^ 32 ∧ a.toNat % 2 ^ 32 < 0xC0000000) ∨ 0xE0000000 ≤ a.toNat % 2 ^ 32) :
    supervisor32 (low32 a) = .addressError := by
  rw [supervisor32, low32_toNat, if_neg (by omega), if_neg (by omega)]

theorem supervisor64_mapped
    (h : a.toNat < 2 ^ 40 ∨ (2 ^ 62 ≤ a.toNat ∧ a.toNat < 2 ^ 62 + 2 ^ 40)
      ∨ (0xFFFFFFFFC0000000 ≤ a.toNat ∧ a.toNat < 0xFFFFFFFFE0000000)) :
    supervisor64 a = .mapped := by
  unfold supervisor64
  rcases h with h | h | h
  · exact if_pos h
  · exact (if_neg (by omega)).trans (if_pos h)
  · exact (if_neg (by omega)).trans ((if_neg (by omega)).trans (if_pos h))

theorem supervisor64_error
    (h : (2 ^ 40 ≤ a.toNat ∧ a.toNat < 2 ^ 62) ∨ (2 ^ 62 + 2 ^ 40 ≤ a.toNat ∧ a.toNat < 0xFFFFFFFFC0000000)
      ∨ 0xFFFFFFFFE0000000 ≤ a.toNat) :
    supervisor64 a = .addressError :=
  (if_neg (by omega)).trans ((if_neg (by omega)).trans (if_neg (by omega)))

theorem xkphys_eq :
    xkphys a = if a.toNat / 2 ^ 32 % 2 ^ 27 = 0 then .unmapped (low32 a) (decide (a.toNat / 2 ^ 59 % 8 ≠ 2)) else .addressError := by
  have hz : bitField a 32 27 ≠ 0#27 ↔ a.toNat / 2 ^ 32 % 2 ^ 27 ≠ 0 := by
    rw [← BitVec.toNat_ne_iff_ne, toNat_bitField]
    rfl
  have hc : bitField a 59 3 ≠ 2#3 ↔ a.toNat / 2 ^ 59 % 8 ≠ 2 := by
    rw [← BitVec.toNat_ne_iff_ne, toNat_bitField]
    rfl
  simp only [xkphys, hz, hc, ite_not]

theorem kernel64_erl (h : a.toNat < 2 ^ 31) : kernel64 true k0 a = .unmapped (BitVec.ofNat 32 a.toNat) false := by
  have hu : low32 a = BitVec.ofNat 32 a.toNat := by rw [low32_eq_ofNat, Nat.mod_eq_of_lt (by omega)]
  rw [← hu]
  exact (if_pos (by omega)).trans (if_pos (by simpa using h))

theorem kernel64_xkuseg (h : a.toNat < 2 ^ 40) (he : erl = false ∨ 2 ^ 31 ≤ a.toNat) : kernel64 erl k0 a = .mapped := by
  refine (if_pos h).trans (if_neg ?_)
  rcases he with he | he
  · simp [he]
  · simpa using fun _ => he

theorem kernel64_xkphys (h1 : 2 ^ 63 ≤ a.toNat) (h2 : a.toNat < 0xC000000000000000) : kernel64 erl k0 a = xkphys a :=
  (if_neg (by omega)).trans ((if_neg (by omega)).trans (if_pos ⟨h1, h2⟩))

theorem kernel64_mapped
    (h : (2 ^ 62 ≤ a.toNat ∧ a.toNat < 2 ^ 62 + 2 ^ 40) ∨ (0xC000000000000000 ≤ a.toNat ∧ a.toNat < 0xC00000FF80000000)
      ∨ 0xFFFFFFFFC0000000 ≤ a.toNat) :
    kernel64 erl k0 a = .mapped := by
  unfold kernel64
  dsimp only
  rcases h with h | h | h
  · rw [if_neg (by omega), if_pos (by omega)]
  · rw [if_neg (by omega), if_neg (by omega), if_neg (by omega), if_pos h]
  · rw [if_neg (by omega), if_neg (by omega), if_neg (by omega), if_neg (by omega), if_neg (by omega), if_neg (by omega), if_pos h]

theorem kernel64_ckseg0 (h1 : 0xFFFFFFFF80000000 ≤ a.toNat) (h2 : a.toNat < 0xFFFFFFFFA0000000) :
    kernel64 erl k0 a = .unmapped (BitVec.ofNat 32 (a.toNat % 2 ^ 32 - 0x80000000)) k0 := by
  rw [← low32_sub (by decide) (by omega)]
  unfold kernel64
  dsimp only
  rw [if_neg (by omega), if_neg (by omega), if_neg (by omega), if_neg (by omega), if_pos ⟨h1, h2⟩]

theorem kernel64_ckseg1 (h1 : 0xFFFFFFFFA0000000 ≤ a.toNat) (h2 : a.toNat < 0xFFFFFFFFC0000000) :
    kernel64 erl k0 a = .unmapped (BitVec.ofNat 32 (a.toNat % 2 ^ 32 - 0xA0000000)) false := by
  rw [← low32_sub (by decide) (by omega)]
  unfold kernel64
  dsimp only
  rw [if_neg (by omega), if_neg (by omega), if_neg (by omega), if_neg (by omega), if_neg (by omega), if_pos ⟨h1, h2⟩]

theorem kernel64_error
    (h : (2 ^ 40 ≤ a.toNat ∧ a.toNat < 2 ^ 62) ∨ (2 ^ 62 + 2 ^ 40 ≤ a.toNat ∧ a.toNat < 2 ^ 63)
      ∨ (0xC00000FF80000000 ≤ a.toNat ∧ a.toNat < 0xFFFFFFFF80000000)) :
    kernel64 erl k0 a = .addressError := by
  unfold kernel64
  dsimp only
  rw [if_neg (by omega), if_neg (by omega), if_neg (by omega), if_neg (by omega), if_neg (by omega), if_neg (by omega),
    if_neg (by omega)]

/-! ### The strategy of a mode (R211) -/

theorem mapOf_kernel (h : s.mode = .kernel) (x : DWord) :
    s.mapOf x = if s.kx then kernel64 s.erl s.kseg0Cacheable x else kernel32 s.erl s.kseg0Cacheable (low32 x) := by
  rw [State.mapOf, h]

theorem mapOf_supervisor (h : s.mode = .supervisor) (x : DWord) :
    s.mapOf x = if s.sx then supervisor64 x else supervisor32 (low32 x) := by
  rw [State.mapOf, h]

theorem mapOf_user (h : s.mode = .user) (x : DWord) : s.mapOf x = if s.ux then user64 x else user32 (low32 x) := by
  rw [State.mapOf, h]

theorem is64_kernel (h : s.mode = .kernel) : s.is64 = s.kx := by rw [State.is64, h]
theorem is64_supervisor (h : s.mode = .supervisor) : s.is64 = s.sx := by rw [State.is64, h]
theorem is64_user (h : s.mode = .user) : s.is64 = s.ux := by rw [State.is64, h]

theorem translate_kernel32 (hm : s.mode = .kernel) (hx : s.kx = false) (ha : s.cfg.addr32Strict = false ∨ a = sext32 (low32 a)) :
    translate a kind s = (kernel32 s.erl s.kseg0Cacheable (low32 a)).access (sext32 (low32 a)) kind s := by
  rw [translate_narrow (by simp [hm]) ((is64_kernel hm).trans hx) ha, mapOf_kernel hm, hx, low32_sext32]
  rfl

theorem translate_user32 (hm : s.mode = .user) (hx : s.ux = false) (ha : s.cfg.addr32Strict = false ∨ a = sext32 (low32 a)) :
    translate a kind s = (user32 (low32 a)).access (sext32 (low32 a)) kind s := by
  rw [translate_narrow (by simp [hm]) ((is64_user hm).trans hx) ha, mapOf_user hm, hx, low32_sext32]
  rfl

theorem translate_supervisor32 (hm : s.mode = .supervisor) (hx : s.sx = false)
    (ha : s.cfg.addr32Strict = false ∨ a = sext32 (low32 a)) :
    translate a kind s = (supervisor32 (low32 a)).access (sext32 (low32 a)) kind s := by
  rw [translate_narrow (by simp [hm]) ((is64_supervisor hm).trans hx) ha, mapOf_supervisor hm, hx, low32_sext32]
  rfl

theorem translate_user64 (hm : s.mode = .user) (hx : s.ux = true) : translate a kind s = (user64 a).access a kind s := by
  rw [translate_wide ((is64_user hm).trans hx), mapOf_user hm, hx]
  rfl

theorem translate_supervisor64 (hm : s.mode = .supervisor) (hx : s.sx = true) :
    translate a kind s = (supervisor64 a).access a kind s := by
  rw [translate_wide ((is64_supervisor hm).trans hx), mapOf_supervisor hm, hx]
  rfl

theorem translate_kernel64 (hm : s.mode = .kernel) (hx : s.kx = true) :
    translate a kind s = (kernel64 s.erl s.kseg0Cacheable a).access a kind s := by
  rw [translate_wide ((is64_kernel hm).trans hx), mapOf_kernel hm, hx]
  rfl

/-! ### The statements -/

/-- Settles O40, range by range of the Kernel-32 map. -/
theorem kernel32Map : Obligations.Kernel32Map := by
  unfold Obligations.Kernel32Map
  intro a kind s hm hk ha
  rw [translate_kernel32 hm hk ha]
  refine ⟨fun h he => ?_, fun h he => ?_, fun h1 h2 => ?_, fun h1 h2 => ?_, fun h => ?_⟩
  · rw [kernel32_kuseg (by omega), he]
    rfl
  · rw [kernel32_kuseg (by omega), he]
    rfl
  · rw [kernel32_kseg0 h1 (by omega)]
    rfl
  · rw [kernel32_kseg1 h1 (by omega)]
    rfl
  · rw [kernel32_upper h]
    rfl

/-- Settles O41, strategy by strategy and range by range. -/
theorem otherSegmentMaps : Obligations.OtherSegmentMaps := by
  unfold Obligations.OtherSegmentMaps
  intro a kind s
  dsimp only
  refine ⟨fun hc hm h32 ha => ?strict, fun ha => ⟨fun hm hx => ?user32, fun hm hx => ?supervisor32⟩, fun hm hx => ?user64,
    fun hm hx => ?supervisor64, fun hm hx => ?kernel64⟩
  case strict => rw [translate_strict hm hc h32 ha, access_addressError]
  case user32 =>
    rw [translate_user32 hm hx ha, user32_eq]
    exact ⟨fun h => by rw [if_pos h, access_mapped], fun h => by rw [if_neg (by omega), access_addressError]⟩
  case supervisor32 =>
    rw [translate_supervisor32 hm hx ha]
    exact ⟨fun h => by rw [supervisor32_mapped h, access_mapped], fun h => by rw [supervisor32_error h, access_addressError]⟩
  case user64 =>
    rw [translate_user64 hm hx, user64]
    exact ⟨fun h => by rw [if_pos (by omega), access_mapped], fun h => by rw [if_neg (by omega), access_addressError]⟩
  case supervisor64 =>
    rw [translate_supervisor64 hm hx]
    exact ⟨fun h => by rw [supervisor64_mapped h, access_mapped], fun h => by rw [supervisor64_error h, access_addressError]⟩
  case kernel64 =>
    rw [translate_kernel64 hm hx]
    refine ⟨fun h he => ?_, fun h he => ?_, fun h => ?_, fun h1 h2 h3 => ?_, fun h1 h2 h3 => ?_, fun h1 h2 => ?_, fun h1 h2 => ?_,
      fun h => ?_⟩
    · rw [he, kernel64_erl h, access_unmapped]
    · rw [kernel64_xkuseg (by omega) (.inl he), access_mapped]
    · rcases h with h | h
      · rw [kernel64_xkuseg h.2 (.inr h.1), access_mapped]
      · rw [kernel64_mapped h, access_mapped]
    · rw [kernel64_xkphys h1 h2, xkphys_eq, if_pos h3, low32_eq_ofNat, access_unmapped]
    · rw [kernel64_xkphys h1 h2, xkphys_eq, if_neg h3, access_addressError]
    · rw [kernel64_ckseg0 h1 h2]
      rfl
    · rw [kernel64_ckseg1 h1 h2, access_unmapped]
    · rw [kernel64_error h, access_addressError]

end Sys2Proof.Machine
end

section
/-! SUPPORT. The TLB: the pages of an entry, and the entry a lookup uses (`20_memory.md` R219, R220; `10_state.md` R140, R141). -/

namespace Sys2Proof.Machine

/-! ### The masks of an entry for pages of 2 ^ (12 + 2 * k) bytes (R141) -/

section
variable {e : TlbEntry} {k : Nat} (hk : k ≤ 6) (hm : e.mask.toNat = 4 ^ k - 1)

include hm in
theorem TlbEntry.mask_eq : e.mask = BitVec.ofNat 12 (4 ^ k - 1) := by
  rw [← hm, BitVec.ofNat_toNat, BitVec.setWidth_eq]

include hk hm

theorem TlbEntry.offsetMask_eq : e.offsetMask = BitVec.ofNat 64 (2 ^ (12 + 2 * k) - 2 ^ 0) := by
  rw [TlbEntry.offsetMask, TlbEntry.pm, TlbEntry.mask_eq hm]
  interval_cases k <;> rfl

theorem TlbEntry.not_offsetMask_eq : ~~~e.offsetMask = BitVec.ofNat 64 (2 ^ 64 - 2 ^ (12 + 2 * k)) := by
  rw [TlbEntry.offsetMask, TlbEntry.pm, TlbEntry.mask_eq hm]
  interval_cases k <;> rfl

theorem TlbEntry.selectBit_eq : e.selectBit = BitVec.twoPow 64 (12 + 2 * k) := by
  rw [TlbEntry.selectBit, TlbEntry.offsetMask, TlbEntry.pm, TlbEntry.mask_eq hm]
  interval_cases k <;> rfl

theorem TlbEntry.compareMask_eq : e.compareMask = BitVec.ofNat 64 (2 ^ 40 - 2 ^ (13 + 2 * k)) := by
  rw [TlbEntry.compareMask, TlbEntry.pm, TlbEntry.mask_eq hm]
  interval_cases k <;> rfl

theorem TlbEntry.compareMask_low : e.compareMask &&& 0xFFFFE000#64 = BitVec.ofNat 64 (2 ^ 32 - 2 ^ (13 + 2 * k)) := by
  rw [TlbEntry.compareMask, TlbEntry.pm, TlbEntry.mask_eq hm]
  interval_cases k <;> rfl

/-- An entry hits in a 64-bit strategy within its pair of pages, its region and its address space (R219). -/
theorem TlbEntry.hits_wide_iff (a : DWord) (asid : BitVec 8) :
    e.hits true asid a = true ↔ a.toNat % 2 ^ 40 / 2 ^ (13 + 2 * k) = e.vpn2.toNat * 8192 / 2 ^ (13 + 2 * k)
      ∧ a.toNat / 2 ^ 62 = e.r.toNat ∧ (e.g = true ∨ e.asid = asid) := by
  have hv : (e.vpn2.setWidth 64 <<< 13).toNat % 2 ^ 40 = e.vpn2.toNat * 8192 := by
    have := e.vpn2.isLt
    simp [Nat.shiftLeft_eq]
    omega
  have hr : bitField a 62 2 = e.r ↔ a.toNat / 2 ^ 62 = e.r.toNat := by
    have := a.isLt
    rw [← BitVec.toNat_inj, toNat_bitField, Nat.mod_eq_of_lt (by omega)]
  rw [← hv, ← and_window_eq_iff a _ (by omega) (by decide), ← TlbEntry.compareMask_eq hk hm, ← hr]
  simp [TlbEntry.hits, and_assoc]

/-- In a 32-bit strategy only the low 32 bits count, and the region does not. -/
theorem TlbEntry.hits_narrow_iff (a : DWord) (asid : BitVec 8) :
    e.hits false asid a = true ↔ a.toNat % 2 ^ 32 / 2 ^ (13 + 2 * k) = e.vpn2.toNat * 8192 % 2 ^ 32 / 2 ^ (13 + 2 * k)
      ∧ (e.g = true ∨ e.asid = asid) := by
  have hv : (e.vpn2.setWidth 64 <<< 13).toNat % 2 ^ 32 = e.vpn2.toNat * 8192 % 2 ^ 32 := by
    have := e.vpn2.isLt
    simp [Nat.shiftLeft_eq]
  rw [← hv, ← and_window_eq_iff a _ (by omega) (by decide), ← TlbEntry.compareMask_low hk hm]
  simp [TlbEntry.hits]

/-- The odd page of the pair is chosen by the bit above the offset (R219). -/
theorem TlbEntry.half_eq (a : DWord) : e.half a = if a.toNat / 2 ^ (12 + 2 * k) % 2 = 1 then e.lo1 else e.lo0 := by
  have hb : a &&& e.selectBit ≠ 0#64 ↔ a.toNat / 2 ^ (12 + 2 * k) % 2 = 1 := by
    rw [TlbEntry.selectBit_eq hk hm, BitVec.and_twoPow, BitVec.getLsbD, Nat.testBit_eq_decide_div_mod_eq]
    have hz : BitVec.twoPow 64 (12 + 2 * k) ≠ 0#64 := by interval_cases k <;> decide
    by_cases h : a.toNat / 2 ^ (12 + 2 * k) % 2 = 1 <;> simp [h, hz]
  simp only [TlbEntry.half, hb]

/-- The physical address is the frame, cut to whole pages, and the offset in the page (R219). -/
theorem TlbEntry.toNat_physical (a : DWord) :
    (e.physical a).toNat
      = ((e.half a).pfn.toNat * 4096 / 2 ^ (12 + 2 * k) * 2 ^ (12 + 2 * k) + a.toNat % 2 ^ (12 + 2 * k)) % 2 ^ 32 := by
  have hf : ((e.half a).pfn.setWidth 64 <<< 12).toNat % 2 ^ 64 = (e.half a).pfn.toNat * 4096 := by
    have := (e.half a).pfn.isLt
    simp [Nat.shiftLeft_eq]
    omega
  have ho : (a &&& e.offsetMask).toNat = a.toNat % 2 ^ (12 + 2 * k) := by
    rw [TlbEntry.offsetMask_eq hk hm, toNat_and_window a (Nat.zero_le _) (by omega), pow_zero, Nat.div_one, mul_one]
  rw [TlbEntry.physical, low32_toNat, BitVec.toNat_or, ho, TlbEntry.not_offsetMask_eq hk hm, toNat_and_window _ (by omega) le_rfl, hf,
    ← Nat.shiftLeft_eq, ← Nat.shiftLeft_add_eq_or_of_lt (Nat.mod_lt _ (by positivity))]

end

/-! ### The first entry that hits (R219) -/

theorem firstEntry_none {p : TlbEntry → Bool} {l : List TlbEntry} (h : ∀ e ∈ l, p e = false) (i : Nat) : firstEntry p i l = none := by
  induction l generalizing i with
  | nil => rfl
  | cons e l ih =>
    rw [firstEntry, h e List.mem_cons_self, if_neg Bool.false_ne_true]
    exact ih (fun e he => h e (List.mem_cons_of_mem _ he)) _

theorem firstEntry_some {p : TlbEntry → Bool} {l : List TlbEntry} {j : Nat} (hj : j < l.length) (hp : p l[j] = true)
    (hb : ∀ m (hm : m < j), p l[m] = false) (i : Nat) : firstEntry p i l = some (i + j, l[j]) := by
  induction l generalizing i j with
  | nil => simp at hj
  | cons e l ih =>
    cases j with
    | zero => exact if_pos hp
    | succ j =>
      have h0 : p e = false := hb 0 j.succ_pos
      rw [firstEntry, h0, if_neg Bool.false_ne_true,
        ih (by simpa using hj) hp (fun m hm => hb (m + 1) (Nat.succ_lt_succ hm)), List.getElem_cons_succ, Nat.add_right_comm, Nat.add_assoc]

section
variable {a : DWord} {asid : BitVec 8} {s : State}

theorem tlbFind_none (h : ∀ i : Fin 32, s.tlb[i.val].hits s.is64 asid a = false) : s.tlbFind a asid = none := by
  refine firstEntry_none (fun e he => ?_) 0
  obtain ⟨i, hi, rfl⟩ := List.mem_iff_getElem.mp he
  exact h ⟨i, by simpa using hi⟩

theorem tlbFind_first {i : Fin 32} (h : s.tlb[i.val].hits s.is64 asid a = true)
    (hb : ∀ j : Fin 32, j < i → s.tlb[j.val].hits s.is64 asid a = false) : s.tlbFind a asid = some (i.val, s.tlb[i.val]) := by
  have := firstEntry_some (p := TlbEntry.hits s.is64 asid a) (l := s.tlb.toList) (j := i.val) (by simp) h
    (fun m hm => hb ⟨m, by omega⟩ hm) 0
  rw [State.tlbFind, this, Nat.zero_add]
  rfl

end

theorem tlbError_eq (kind : AccessKind) (a : DWord) (refill xtlb : Bool) :
    tlbError kind a refill xtlb = if kind = .store then .tlbs a refill xtlb else .tlbl a refill xtlb := by
  cases kind <;> rfl

/-- Settles O42: the masks of an entry are runs of ones, so comparing, selecting and composing under them is division by the page size, and
the lookup follows its first hit. -/
theorem tlbPages : Obligations.TlbPages := by
  unfold Obligations.TlbPages
  constructor
  · intro e k a asid hk hm
    have hp : 4096 * 4 ^ k = 2 ^ (12 + 2 * k) := by rw [pow_add, pow_mul]; norm_num
    have h2p : 2 * (4096 * 4 ^ k) = 2 ^ (13 + 2 * k) := by rw [hp, ← pow_succ']; congr 1; omega
    dsimp only
    rw [h2p, hp]
    exact ⟨TlbEntry.hits_wide_iff hk hm a asid, TlbEntry.hits_narrow_iff hk hm a asid, TlbEntry.half_eq hk hm a, TlbEntry.toNat_physical hk hm a⟩
  · intro a kind s
    constructor
    · intro h
      have hfind : s.tlbFind a s.asid = none := tlbFind_none h
      rw [tlbLookup, hfind, ← tlbError_eq]
    · intro i h hb
      have hfind : s.tlbFind a s.asid = some (i.val, s.tlb[i.val]) := tlbFind_first h hb
      rw [tlbLookup, hfind, ← tlbError_eq]
      dsimp only
      refine ⟨fun hv => ?_, fun hv hk hd => ?_, fun hv hd => ?_⟩
      · rw [hv]; rfl
      · rw [hv, hd, hk]; rfl
      · rw [hv, if_neg (by simp), if_neg]
        rcases hd with hd | hd <;> simp [hd]

end Sys2Proof.Machine
end

section
/-! SUPPORT. The data cache against a flat memory (`20_memory.md` R240 to R248). A clean line that differs
from memory refutes O38; where every clean line agrees with memory, what it says holds. -/

namespace Sys2Proof.Machine

/-! ### A clean line that differs from memory -/

/-- The reset machine with a clean data line that holds, for addresses 0 to 15, other bytes than memory does. -/
def staleLine : State :=
  { State.reset with dcache := State.reset.dcache.set 0 ⟨true, false, 0#20, Vector.replicate 16 1#8⟩ }

theorem staleLine_dcache (i : Fin 512) :
    staleLine.dcache[i.val] = if i = 0 then ⟨true, false, 0#20, Vector.replicate 16 1#8⟩ else DLine.empty := by
  by_cases h : i = 0
  · subst h; rfl
  · have h0 : 0 ≠ i.val := fun e => h (Fin.ext e.symm)
    simp [staleLine, State.reset, Vector.getElem_set_ne _ _ h0, h]

theorem staleLine_consistent : staleLine.LinesConsistent := by
  refine ⟨fun i => ?_, fun i => ?_⟩ <;> rw [staleLine_dcache]
  · split
    next h => exact fun _ => h ▸ rfl
    next => nofun
  · split <;> nofun

/-- Loading from 0x2000 replaces the clean line of address 0 without writing it back, so address 0 is seen in memory from then on. -/
theorem runCached_staleLine : ∃ t, runCached [.load 0x2000#32 1] staleLine = .ok [[0#8]] t ∧ t.viewByte 0#32 = 0#8 :=
  ⟨_, rfl, rfl⟩

/-- Refutes O38: its premises let a clean line differ from memory, and a load elsewhere that evicts the line changes what is seen there
(address 0 of `staleLine`: 1 before the load from 0x2000, 0 after it). `runCached_flat` holds where clean lines agree with memory. -/
theorem not_cacheTransparency : ¬ Obligations.CacheTransparency := by
  unfold Obligations.CacheTransparency
  intro h
  obtain ⟨t, ht, -, -, -, hview⟩ := h [.load 0x2000#32 1] staleLine rfl staleLine_consistent (by
    intro a ha
    rw [List.mem_singleton.mp ha]
    exact ⟨by decide, by decide⟩)
  obtain ⟨u, hu, hread⟩ := runCached_staleLine
  rw [hu] at ht
  injection ht with _ hut
  have hkept : t.viewByte 0#32 = staleLine.viewByte 0#32 := hview 0#32 (by decide)
  have hline : staleLine.viewByte 0#32 = 1#8 := rfl
  rw [← hut, hread, hline] at hkept
  exact absurd hkept (by decide)

/-! ### Index, tag and home of a data line (R241, R243) -/

theorem dIndex_val (pa : Word) : (dIndex pa).val = pa.toNat / 16 % 512 := toNat_bitField pa 4 9

theorem toNat_cacheTag (pa : Word) : (cacheTag pa).toNat = pa.toNat / 4096 := by
  have := pa.isLt
  rw [cacheTag, toNat_bitField]
  omega

theorem dIndex_eq_iff {p q : Word} : dIndex p = dIndex q ↔ p.toNat / 16 % 512 = q.toNat / 16 % 512 := by
  rw [Fin.ext_iff, dIndex_val, dIndex_val]

theorem cacheTag_eq_iff {p q : Word} : cacheTag p = cacheTag q ↔ p.toNat / 4096 = q.toNat / 4096 := by
  rw [← BitVec.toNat_inj, toNat_cacheTag, toNat_cacheTag]

theorem dLine_of_index {p q : Word} (s : State) (h : dIndex p = dIndex q) : s.dLine p = s.dLine q := by
  simp only [State.dLine, h]

/-- A line is written back to the addresses of its index and tag (R243). -/
theorem dWritebackAddress_home {pa v : Word} {l : DLine} (hi : dIndex v = dIndex pa) (ht : cacheTag v = l.tag) :
    dWritebackAddress pa l = dLineBase v := by
  have hf : bitField v 4 9 = bitField pa 4 9 := BitVec.toFin_inj.mp hi
  rw [dWritebackAddress, ← ht, ← hf, dLineBase]
  apply BitVec.eq_of_getLsbD_eq
  intro i h32
  have hm : ∀ i < 32, (0xFFFFFFF0#32).getLsbD i = decide (4 ≤ i) := by decide
  rw [BitVec.getLsbD_and, hm i h32, BitVec.getLsbD_or, BitVec.getLsbD_append, BitVec.getLsbD_shiftLeft, BitVec.getLsbD_setWidth]
  by_cases h12 : i < 12
  · by_cases h4 : i < 4
    · simp [h12, h4]
    · simp [h12, h4, h32, show i - 4 < 9 by omega, show i - 4 < 32 by omega, show 4 + (i - 4) = i by omega, show 4 ≤ i by omega]
  · by_cases h13 : i = 12
    · subst h13
      simp [cacheTag]
    · simp [cacheTag, h12, show ¬ i - 4 < 9 by omega, show i - 12 < 20 by omega, show 12 + (i - 12) = i by omega, show 4 ≤ i by omega]

variable {pa q : Word} {s t : State}

/-- A valid line at the index of its tag holds some address of that tag and index. -/
theorem State.LinesConsistent.exists_home (hc : s.LinesConsistent) (hv : (s.dLine pa).valid = true) :
    ∃ v : Word, dIndex v = dIndex pa ∧ cacheTag v = (s.dLine pa).tag := by
  have hhome : (s.dLine pa).tag.toNat % 2 = (dIndex pa).val / 256 := hc.home (dIndex pa) hv
  have hlt := (s.dLine pa).tag.isLt
  rw [dIndex_val] at hhome
  refine ⟨BitVec.ofNat 32 ((s.dLine pa).tag.toNat * 4096 + pa.toNat % 4096), dIndex_eq_iff.mpr ?_, BitVec.eq_of_toNat_eq ?_⟩
  · rw [BitVec.toNat_ofNat]
    omega
  · rw [toNat_cacheTag, BitVec.toNat_ofNat]
    omega

theorem page_lt_rdramBytes {size : RdramSize} {n : Nat} : n / 4096 * 4096 < rdramBytes size ↔ n < rdramBytes size := by
  cases size <;> simp only [rdramBytes] <;> omega

/-- A dirty line of a consistent state is written back to RDRAM. -/
theorem State.LinesConsistent.region_victim (hc : s.LinesConsistent) (hv : (s.dLine pa).valid = true) (hd : (s.dLine pa).dirty = true) :
    s.region (dWritebackAddress pa (s.dLine pa)) = .rdram := by
  obtain ⟨v, hi, ht⟩ := hc.exists_home hv
  have hlt : v.toNat / 4096 * 4096 < rdramBytes s.cfg.rdramSize := by
    rw [← toNat_cacheTag, ht]
    exact hc.dirty (dIndex pa) hv hd
  rw [dWritebackAddress_home hi ht, State.region, route_dLineBase]
  exact route_rdram.mpr (page_lt_rdramBytes.mp hlt)

theorem State.LinesConsistent.victimOk (hc : s.LinesConsistent) (pa : Word) : s.victimOk pa := by
  cases hd : (s.dLine pa).valid && (s.dLine pa).dirty with
  | false => exact .inr (.inl hd)
  | true =>
    obtain ⟨hv, hd⟩ := Bool.and_eq_true_iff.mp hd
    exact .inr (.inr (by rw [hc.region_victim hv hd]; rfl))

/-- Giving the line of an RDRAM address the tag of that address keeps the lines consistent. -/
theorem State.LinesConsistent.of_line (hs : s.LinesConsistent) (hc : t.cfg = s.cfg) (hp : pa.toNat < rdramBytes s.cfg.rdramSize)
    (ho : ∀ i : Fin 512, i ≠ dIndex pa → t.dcache[i.val] = s.dcache[i.val]) (ht : (t.dLine pa).tag = cacheTag pa) :
    t.LinesConsistent := by
  have htag : (t.dcache[(dIndex pa).val]).tag.toNat = pa.toNat / 4096 := (congrArg BitVec.toNat ht).trans (toNat_cacheTag pa)
  refine ⟨fun i => ?_, fun i => ?_⟩
  · by_cases hi : i = dIndex pa
    · subst hi
      have hv := dIndex_val pa
      rw [htag]
      omega
    · rw [ho i hi]
      exact hs.home i
  · by_cases hi : i = dIndex pa
    · subst hi
      rw [htag, hc]
      exact fun _ _ => page_lt_rdramBytes.mpr hp
    · rw [ho i hi, hc]
      exact hs.dirty i

/-! ### Coherence: what the line of an address and memory say of its byte -/

/-- A clean line agrees with memory on RDRAM. -/
def State.CleanLinesAgree (s : State) : Prop :=
  ∀ q : Word, q.toNat < rdramBytes s.cfg.rdramSize → (s.dLine q).hits q = true → (s.dLine q).dirty = false →
    (s.dLine q).data.toList.getD (q.toNat % 16) 0#8 = s.mem.read q.toNat

/-- The premises of O38 and the agreement of clean lines with memory. -/
structure State.Coherent (s : State) : Prop where
  mem : s.mem.wf = true
  lines : s.LinesConsistent
  clean : s.CleanLinesAgree

theorem viewByte_hit (h : (s.dLine q).hits q = true) : s.viewByte q = (s.dLine q).data.toList.getD (q.toNat % 16) 0#8 := if_pos h

theorem viewByte_miss (h : (s.dLine q).hits q = false) : s.viewByte q = s.mem.read q.toNat := if_neg (by simp [h])

/-- Where the line of `pa` does not hold `q`, evicting it leaves the byte of memory at `q` alone. -/
theorem memAfterEvict_elsewhere (hc : s.LinesConsistent) (h : dIndex q ≠ dIndex pa ∨ (s.dLine pa).hits q = false) :
    s.memAfterEvict true pa q.toNat = s.mem.read q.toNat := by
  refine if_neg fun hin => ?_
  obtain ⟨he, -, hlo, hhi⟩ := hin
  have hv : (s.dLine pa).valid = true := by
    simp only [State.evicts, Bool.and_eq_true] at he
    exact he.1.2
  obtain ⟨v, hi, ht⟩ := hc.exists_home hv
  rw [dWritebackAddress_home hi ht, toNat_dLineBase] at hlo hhi
  have hq : dIndex q = dIndex pa := (dIndex_eq_iff.mpr (by omega)).trans hi
  have hhit : (s.dLine pa).hits q = true := by
    have htag : cacheTag q = cacheTag v := cacheTag_eq_iff.mpr (by omega)
    simp [DLine.hits, hv, htag, ht]
  rcases h with h | h
  · exact h hq
  · rw [hhit] at h
    cases h

/-- Evicting the line of `pa` puts into memory what was seen at the addresses of its index. -/
theorem memAfterEvict_view (hs : s.Coherent) (hm : (s.dLine pa).hits pa = false) (hr : q.toNat < rdramBytes s.cfg.rdramSize)
    (hi : dIndex q = dIndex pa) : s.memAfterEvict true pa q.toNat = s.viewByte q := by
  have hl := dLine_of_index s hi
  cases hq : (s.dLine q).hits q with
  | false =>
    rw [viewByte_miss hq]
    exact memAfterEvict_elsewhere hs.lines (.inr (hl ▸ hq))
  | true =>
    obtain ⟨hv, htag⟩ := hits_tag hq
    rw [viewByte_hit hq]
    cases hd : (s.dLine q).dirty with
    | false =>
      rw [hs.clean q hr hq hd]
      exact if_neg (by simp [State.evicts, ← hl, hd])
    | true =>
      have hreg := hs.lines.region_victim (pa := pa) (hl ▸ hv) (hl ▸ hd)
      have hw := toNat_dLineBase q
      rw [State.memAfterEvict, hreg, ← hl, dWritebackAddress_home hi htag.symm, if_pos]
      · congr 1
        omega
      · refine ⟨by simp [State.evicts, hm, hl ▸ hv, hl ▸ hd], rfl, ?_, ?_⟩ <;> omega

theorem reset_coherent : State.reset.Coherent := by
  have hempty : ∀ i : Fin 512, State.reset.dcache[i.val] = DLine.empty := fun i => Vector.getElem_replicate i.isLt
  refine ⟨rfl, ⟨fun i hv => ?_, fun i hv => ?_⟩, fun q _ hq => ?_⟩
  · rw [hempty] at hv
    cases hv
  · rw [hempty] at hv
    cases hv
  · rw [State.dLine, hempty] at hq
    cases hq

/-! ### Making a line present keeps what is seen -/

theorem LinePresent.cfg (h : LinePresent pa s t) : t.cfg = s.cfg := by rw [h.frame]

theorem LinePresent.unchanged_of_hit (h : LinePresent pa s t) (hm : (s.dLine pa).hits pa = true) :
    (∀ q, t.dLine q = s.dLine q) ∧ ∀ a, t.mem.read a = s.mem.read a := by
  have he : s.evicts true pa = false := by simp [State.evicts, hm]
  refine ⟨fun q => ?_, fun a => ?_⟩
  · rw [State.dLine, h.memory.lineHit hm, State.dLine]
  · rw [h.memory.memory, State.memAfterEvict, he]
    simp

theorem LinePresent.dLine_other (h : LinePresent pa s t) (hi : dIndex q ≠ dIndex pa) : t.dLine q = s.dLine q :=
  h.memory.otherLines (dIndex q) hi

/-- After a miss on RDRAM the line of `pa` is clean and agrees with memory. -/
theorem LinePresent.filled (h : LinePresent pa s t) (hp : pa.toNat < rdramBytes s.cfg.rdramSize)
    (hm : (s.dLine pa).hits pa = false) (hi : dIndex q = dIndex pa) (hq : (t.dLine q).hits q = true) :
    (t.dLine q).data.toList.getD (q.toNat % 16) 0#8 = t.mem.read q.toNat := by
  have htag : cacheTag q = cacheTag pa := by
    rw [← (hits_tag hq).2, dLine_of_index t hi, (hits_tag h.hit).2]
  have hbase : (dLineBase pa).toNat + q.toNat % 16 = q.toNat := by
    have := dIndex_eq_iff.mp hi
    have := cacheTag_eq_iff.mp htag
    rw [toNat_dLineBase]
    omega
  have hreg : s.region pa = .rdram := route_rdram.mpr hp
  rw [dLine_of_index t hi, h.data _ (Nat.mod_lt _ (by decide)), State.seenInLine, hm, hreg, hbase, h.memory.memory]
  simp

theorem LinePresent.viewByte (h : LinePresent pa s t) (hs : s.Coherent) (hp : pa.toNat < rdramBytes s.cfg.rdramSize)
    (hr : q.toNat < rdramBytes s.cfg.rdramSize) : t.viewByte q = s.viewByte q := by
  have hread := h.memory.memory q.toNat
  cases hm : (s.dLine pa).hits pa with
  | true =>
    obtain ⟨hl, hmem⟩ := h.unchanged_of_hit hm
    rw [State.viewByte, hl, hmem, State.viewByte]
  | false =>
    by_cases hi : dIndex q = dIndex pa
    · rw [← memAfterEvict_view hs hm hr hi, ← hread]
      cases hq : (t.dLine q).hits q with
      | false => exact viewByte_miss hq
      | true => rw [viewByte_hit hq, h.filled hp hm hi hq]
    · rw [memAfterEvict_elsewhere hs.lines (.inl hi)] at hread
      simp only [State.viewByte, h.dLine_other hi, hread]

theorem LinePresent.coherent (h : LinePresent pa s t) (hs : s.Coherent) (hp : pa.toNat < rdramBytes s.cfg.rdramSize) :
    t.Coherent := by
  refine ⟨h.wf, hs.lines.of_line h.cfg hp h.memory.otherLines (hits_tag h.hit).2, fun q hr hq hd => ?_⟩
  rw [h.cfg] at hr
  cases hm : (s.dLine pa).hits pa with
  | true =>
    obtain ⟨hl, hmem⟩ := h.unchanged_of_hit hm
    rw [hl] at hq hd ⊢
    rw [hmem]
    exact hs.clean q hr hq hd
  | false =>
    by_cases hi : dIndex q = dIndex pa
    · exact h.filled hp hm hi hq
    · rw [h.dLine_other hi] at hq hd ⊢
      rw [h.memory.memory, memAfterEvict_elsewhere hs.lines (.inl hi)]
      exact hs.clean q hr hq hd

/-! ### One access -/

theorem isPlain_of_rdram (hp : pa.toNat < rdramBytes s.cfg.rdramSize) : (s.region pa).isPlain = true := by
  rw [State.region, route_rdram.mpr hp]
  rfl

theorem toNat_inLine {n i : Nat} (hn : pa.toNat % 16 + n ≤ 16) (hi : i < n) : (pa + BitVec.ofNat 32 i).toNat = pa.toNat + i := by
  have := pa.isLt
  rw [BitVec.toNat_add, BitVec.toNat_ofNat]
  omega

theorem inLine_lt_rdramBytes {size : RdramSize} {n i : Nat} (hp : pa.toNat < rdramBytes size) (hn : pa.toNat % 16 + n ≤ 16)
    (hi : i < n) :
    (pa + BitVec.ofNat 32 i).toNat < rdramBytes size := by
  rw [← page_lt_rdramBytes] at hp ⊢
  rwa [toNat_inLine hn hi, show (pa.toNat + i) / 4096 = pa.toNat / 4096 by omega]

/-- A cached load from RDRAM reads what is seen, and everything seen in RDRAM stays (R244). -/
theorem cachedLoad_coherent {n : Nat} (hs : s.Coherent) (hp : pa.toNat < rdramBytes s.cfg.rdramSize) (hn : pa.toNat % 16 + n ≤ 16) :
    ∃ t, cachedLoad pa n s = .ok ((List.range n).map fun i => s.viewByte (pa + BitVec.ofNat 32 i)) t ∧ t.Coherent ∧ t.cfg = s.cfg
      ∧ ∀ q : Word, q.toNat < rdramBytes s.cfg.rdramSize → t.viewByte q = s.viewByte q := by
  obtain ⟨t, ht, h⟩ := dEnsure_present hs.mem (isPlain_of_rdram hp) (hs.lines.victimOk pa)
  refine ⟨t, ?_, h.coherent hs hp, h.cfg, fun q hr => h.viewByte hs hp hr⟩
  rw [cachedLoad, ht, bind_ok, lineBytes_eq_map _ hn]
  congr 1
  apply List.map_congr_left
  intro i hi
  have hi := List.mem_range.mp hi
  have hq := toNat_inLine hn hi
  have hr := inLine_lt_rdramBytes hp hn hi
  have hl : t.dLine (pa + BitVec.ofNat 32 i) = t.dLine pa := dLine_of_index t (dIndex_eq_iff.mpr (by omega))
  have hhit : (t.dLine (pa + BitVec.ofNat 32 i)).hits (pa + BitVec.ofNat 32 i) = true := by
    have htag : cacheTag (pa + BitVec.ofNat 32 i) = cacheTag pa := cacheTag_eq_iff.mpr (by omega)
    rw [hl, DLine.hits, htag]
    exact h.hit
  rw [← h.viewByte hs hp hr, viewByte_hit hhit, hl, hq]
  congr 1
  omega

/-- A store within one line reaches no byte of another line. -/
theorem storedByte_other_line {bs : List (Option Byte)} (hn : pa.toNat % 16 + bs.length ≤ 16)
    (h : ¬(dIndex q = dIndex pa ∧ cacheTag q = cacheTag pa)) : storedByte pa.toNat bs q.toNat = none := by
  refine storedByte_outside _ _ _ fun hin => h ?_
  rw [dIndex_eq_iff, cacheTag_eq_iff]
  omega

/-- Within a line a store is placed by the offsets in the line. -/
theorem storedByte_same_line {bs : List (Option Byte)} (hi : dIndex q = dIndex pa) (ht : cacheTag q = cacheTag pa) :
    storedByte (pa.toNat % 16) bs (q.toNat % 16) = storedByte pa.toNat bs q.toNat := by
  rw [dIndex_eq_iff] at hi
  rw [cacheTag_eq_iff] at ht
  have hle : pa.toNat % 16 ≤ q.toNat % 16 ↔ pa.toNat ≤ q.toNat := by omega
  have hsub : q.toNat % 16 - pa.toNat % 16 = q.toNat - pa.toNat := by omega
  simp only [storedByte, hle, hsub]

/-- The state after a store into the line of `pa`. -/
def State.storedLine (pa : Word) (bs : List (Option Byte)) (s : State) : State := s.setDLine pa ((s.dLine pa).stored pa bs)

theorem storedLine_same (bs : List (Option Byte)) (hi : dIndex q = dIndex pa) :
    (s.storedLine pa bs).dLine q = (s.dLine pa).stored pa bs := by
  rw [dLine_of_index _ hi, State.storedLine, setDLine_dLine]

theorem storedLine_other (bs : List (Option Byte)) (hi : dIndex q ≠ dIndex pa) : (s.storedLine pa bs).dLine q = s.dLine q :=
  setDLine_other pa _ s (dIndex q) hi

/-- Storing into a line that is present keeps coherence: the line is dirty (R245). -/
theorem storedLine_coherent (bs : List (Option Byte)) (hs : s.Coherent) (hh : (s.dLine pa).hits pa = true)
    (hp : pa.toNat < rdramBytes s.cfg.rdramSize) : (s.storedLine pa bs).Coherent := by
  have htag : ((s.storedLine pa bs).dLine pa).tag = cacheTag pa := by
    rw [storedLine_same bs rfl]
    exact (hits_tag hh).2
  refine ⟨hs.mem, hs.lines.of_line rfl hp (fun i hi => setDLine_other pa _ s i hi) htag, fun q hr hq hd => ?_⟩
  by_cases hi : dIndex q = dIndex pa
  · rw [storedLine_same bs hi] at hd
    cases hd
  · rw [storedLine_other bs hi] at hq hd ⊢
    exact hs.clean q hr hq hd

/-- Storing into a line that is present puts the stored bytes over what is seen (R245, R551). -/
theorem storedLine_viewByte {bs : List (Option Byte)} (hh : (s.dLine pa).hits pa = true) (hn : pa.toNat % 16 + bs.length ≤ 16)
    (q : Word) : (s.storedLine pa bs).viewByte q = (storedByte pa.toNat bs q.toNat).getD (s.viewByte q) := by
  obtain ⟨hv, htag⟩ := hits_tag hh
  by_cases hi : dIndex q = dIndex pa
  · have hl := storedLine_same (s := s) bs hi
    have hls := dLine_of_index s hi
    by_cases ht : cacheTag q = cacheTag pa
    · have hq : (s.dLine q).hits q = true := by simp [DLine.hits, hls, hv, htag, ht]
      have hq' : ((s.storedLine pa bs).dLine q).hits q = true := by
        rw [hl, ← hls]
        exact hq
      rw [viewByte_hit hq', viewByte_hit hq, hl, hls, ← storedByte_same_line hi ht]
      exact getD_lineStore _ _ _ _ (Nat.mod_lt _ (by decide)) (by omega)
    · have hq : (s.dLine q).hits q = false := by simp [DLine.hits, hls, htag, Ne.symm ht]
      have hq' : ((s.storedLine pa bs).dLine q).hits q = false := by
        rw [hl, ← hls]
        exact hq
      rw [viewByte_miss hq', viewByte_miss hq, storedByte_other_line hn (fun h => ht h.2)]
      rfl
  · rw [storedByte_other_line hn (fun h => hi h.1), State.viewByte, storedLine_other bs hi]
    rfl

/-- A cached store to RDRAM puts the stored bytes over what is seen in RDRAM (R245, R551). -/
theorem cachedStore_coherent {bs : List (Option Byte)} (hs : s.Coherent) (hp : pa.toNat < rdramBytes s.cfg.rdramSize)
    (hn : pa.toNat % 16 + bs.length ≤ 16) :
    ∃ t, cachedStore pa bs s = .ok () t ∧ t.Coherent ∧ t.cfg = s.cfg
      ∧ ∀ q : Word, q.toNat < rdramBytes s.cfg.rdramSize →
        t.viewByte q = (storedByte pa.toNat bs q.toNat).getD (s.viewByte q) := by
  obtain ⟨t, ht, h⟩ := dEnsure_present hs.mem (isPlain_of_rdram hp) (hs.lines.victimOk pa)
  refine ⟨t.storedLine pa bs, ?_, storedLine_coherent bs (h.coherent hs hp) h.hit (h.cfg ▸ hp), h.cfg, fun q hr => ?_⟩
  · rw [cachedStore, ht]
    rfl
  · rw [storedLine_viewByte h.hit hn, h.viewByte hs hp hr]

/-! ### Any sequence of accesses (R248) -/

/-- What O38 says holds of the coherent states: where clean lines agree with memory, any sequence of cacheable accesses to RDRAM behaves as
on a flat memory, and the state stays coherent. -/
theorem runCached_flat (accesses : List CachedAccess) (f : Word → Byte) (hs : s.Coherent)
    (hfit : ∀ a ∈ accesses, a.fits s.cfg.rdramSize) (hf : ∀ q : Word, q.toNat < rdramBytes s.cfg.rdramSize → s.viewByte q = f q) :
    ∃ t, runCached accesses s = .ok (runFlat accesses f).1 t ∧ t.Coherent ∧ t.cfg = s.cfg
      ∧ ∀ q : Word, q.toNat < rdramBytes s.cfg.rdramSize → t.viewByte q = (runFlat accesses f).2 q := by
  induction accesses generalizing s f with
  | nil => exact ⟨s, rfl, hs, rfl, hf⟩
  | cons a rest ih =>
    have ha := hfit a List.mem_cons_self
    have hrest := fun b hb => hfit b (List.mem_cons_of_mem a hb)
    cases a with
    | load pa n =>
      obtain ⟨hp, hn⟩ := ha
      obtain ⟨u, hu, huc, hcfg, hview⟩ := cachedLoad_coherent hs hp hn
      obtain ⟨t, ht, htc, htcfg, htv⟩ := ih f huc (hcfg ▸ hrest) (fun q hr => (hview q (hcfg ▸ hr)).trans (hf q (hcfg ▸ hr)))
      refine ⟨t, ?_, htc, htcfg.trans hcfg, hcfg ▸ htv⟩
      have hread : (List.range n).map (fun i => s.viewByte (pa + BitVec.ofNat 32 i))
          = (List.range n).map fun i => f (pa + BitVec.ofNat 32 i) :=
        List.map_congr_left fun i hi => hf _ (inLine_lt_rdramBytes hp hn (List.mem_range.mp hi))
      rw [runCached, hu, bind_ok, ht, bind_ok, hread, runFlat]
    | store pa bs =>
      obtain ⟨hp, hn⟩ := ha
      obtain ⟨u, hu, huc, hcfg, hview⟩ := cachedStore_coherent hs hp hn
      obtain ⟨t, ht, htc, htcfg, htv⟩ := ih (fun q => (storedByte pa.toNat bs q.toNat).getD (f q)) huc (hcfg ▸ hrest)
        (fun q hr => by rw [hview q (hcfg ▸ hr), hf q (hcfg ▸ hr)])
      refine ⟨t, ?_, htc, htcfg.trans hcfg, hcfg ▸ htv⟩
      rw [runCached, hu, bind_ok, ht, runFlat]

end Sys2Proof.Machine
end

section
/-! SUPPORT. What an access to memory, a device or a collaborator leaves alone, said once for every access: general registers, coprocessors,
the TLB, the instruction cache, the pc and the branch state (`20_memory.md` R230 to R247; `60_exceptions.md` R911, R970). One lemma for each
operation, named after it with the ending `_processor`. -/

namespace Sys2Proof.Machine

/-! ### The part of the state that no data access changes -/

/-- The state with everything blanked that a data access may change: memory and the data cache, the devices and the scheduler, what the
collaborators and the host are told, and the cycles of the step. -/
def State.processor (s : State) : State :=
  { s with
    stepCycles := 0
    dcache := State.reset.dcache
    mem := []
    sched := State.reset.sched
    mi := State.reset.mi
    vi := State.reset.vi
    ai := State.reset.ai
    pi := State.reset.pi
    ri := State.reset.ri
    si := State.reset.si
    outputs := []
    collabState := 0 }

theorem tlb_of_processor {s t : State} (h : t.processor = s.processor) : t.tlb = s.tlb :=
  show t.processor.tlb = s.processor.tlb from congrArg State.tlb h

theorem icache_of_processor {s t : State} (h : t.processor = s.processor) : t.icache = s.icache :=
  show t.processor.icache = s.processor.icache from congrArg State.icache h

theorem cop0_of_processor {s t : State} (h : t.processor = s.processor) : t.cop0 = s.cop0 :=
  show t.processor.cop0 = s.processor.cop0 from congrArg State.cop0 h

/-- However a piece of an instruction answers, it has changed nothing but what a data access may change. -/
def Res.KeepsProcessor {α : Type} (s : State) : Res α → Prop
  | .ok _ t => t.processor = s.processor
  | .raise _ t => t.processor = s.processor
  | .refuse _ => True

theorem Res.KeepsProcessor.bind {α β : Type} {s : State} {r : Res α} {k : α → State → Res β} (hr : r.KeepsProcessor s)
    (hk : ∀ a t, (k a t).KeepsProcessor t) : (r.bind k).KeepsProcessor s := by
  cases r with
  | ok a t =>
    have hkt := hk a t
    show (k a t).KeepsProcessor s
    cases hc : k a t with
    | ok b u =>
      rw [hc] at hkt
      exact hkt.trans hr
    | raise e u =>
      rw [hc] at hkt
      exact hkt.trans hr
    | refuse q => trivial
  | raise e t => exact hr
  | refuse q => trivial

theorem Res.KeepsProcessor.withAddress {α : Type} {s : State} {r : Res α} (hr : r.KeepsProcessor s) (a : DWord) :
    (r.withAddress a).KeepsProcessor s := by
  cases r with
  | ok v t => exact hr
  | raise e t => exact hr
  | refuse q => trivial

variable (s : State)

/-! ### Devices and collaborators -/

theorem dmaWrite_processor (a : Nat) (b : Byte) : (s.dmaWrite a b).processor = s.processor := by
  unfold State.dmaWrite
  split <;> rfl

theorem dmaWriteBytes_processor (a : Nat) (bs : List Byte) : (State.dmaWriteBytes a bs s).processor = s.processor := by
  induction bs generalizing a s with
  | nil => rfl
  | cons b bs ih => exact (ih _ _).trans (dmaWrite_processor s a b)

theorem collabCall_processor (el : Int) (c : CollabCall) : (s.collabCall el c).2.processor = s.processor := by
  obtain ⟨_, _, _, _, _, ht⟩ := collabCall_changed el c s
  rw [ht]
  rfl

theorem aiStart_processor (el : Int) (q : AiRequest) : (s.aiStart el q).processor = s.processor := by
  unfold State.aiStart
  dsimp only
  split <;> split <;> rfl

theorem piCopyBytes_processor (el : Int) (d : PiDirection) (n dram : Nat) (cart : Word) :
    (State.piCopyBytes el d n dram cart s).processor = s.processor := by
  induction n generalizing dram cart s with
  | zero => rfl
  | succ n ih =>
    cases d with
    | toRdram => exact (ih _ _ _).trans ((dmaWrite_processor _ _ _).trans (collabCall_processor s el _))
    | toCart => exact (ih _ _ _).trans (collabCall_processor s el _)

theorem piStart_processor (el : Int) (q : PiRequest) : (s.piStart el q).processor = s.processor := by
  unfold State.piStart
  dsimp only
  split
  · exact piCopyBytes_processor _ _ _ _ _ _
  · rfl

theorem siCopy_processor (q : SiRequest) : (s.siCopy q).processor = s.processor := by
  have stored (m : Memory) (n : Nat) : State.processor { s with mem := m, collabState := n } = s.processor := rfl
  unfold State.siCopy
  split
  · exact (dmaWriteBytes_processor _ _ _).trans (stored _ _)
  · exact stored _ _

theorem siStart_processor (el : Int) (q : SiRequest) : (s.siStart el q).processor = s.processor := by
  unfold State.siStart
  dsimp only
  split
  · exact siCopy_processor _ _
  · rfl

/-! ### Device registers (R911) -/

theorem aiRequest_processor (el : Int) (len : Word) : (s.aiRequest el len).KeepsProcessor s := by
  unfold State.aiRequest
  split
  · rfl
  · dsimp only
    split
    · exact aiStart_processor _ _ _
    · rfl
    · trivial

theorem piRequest_processor (el : Int) (d : PiDirection) (len : Nat) : (s.piRequest el d len).KeepsProcessor s := by
  unfold State.piRequest
  dsimp only
  split
  · exact piStart_processor _ _ _
  · rfl
  · trivial

theorem siRequest_processor (el : Int) (d : SiDirection) : (s.siRequest el d).KeepsProcessor s := by
  unfold State.siRequest
  dsimp only
  split
  · exact siStart_processor _ _ _
  · rfl
  · trivial

theorem miWrite_processor (i : Nat) (v : Word) : (s.miWrite i v).processor = s.processor := by
  unfold State.miWrite
  split
  · unfold State.miModeWrite
    dsimp only
    split <;> rfl
  · rfl
  · rfl

theorem viWrite_processor (i : Nat) (v : Word) : (s.viWrite i v).processor = s.processor := by
  unfold State.viWrite
  split <;> rfl

theorem aiWrite_processor (el : Int) (i : Nat) (v : Word) : (s.aiWrite el i v).KeepsProcessor s := by
  unfold State.aiWrite
  split
  case h_2 => exact aiRequest_processor _ _ _
  all_goals rfl

theorem piWrite_processor (el : Int) (i : Nat) (v : Word) : (s.piWrite el i v).KeepsProcessor s := by
  unfold State.piWrite
  split
  case h_3 | h_4 => exact piRequest_processor _ _ _ _
  case h_5 => split <;> rfl
  all_goals rfl

theorem siWrite_processor (el : Int) (i : Nat) (v : Word) : (s.siWrite el i v).KeepsProcessor s := by
  unfold State.siWrite
  split
  case h_2 | h_3 => exact siRequest_processor _ _ _
  all_goals rfl

theorem slotWrite_processor (el : Int) (d : Device) (i : Nat) (v : Word) : (s.slotWrite el d i v).KeepsProcessor s := by
  cases d with
  | mi => exact miWrite_processor _ _ _
  | vi => exact viWrite_processor _ _ _
  | ai => exact aiWrite_processor { s with ai := _ } _ _ _
  | pi => exact piWrite_processor { s with pi := _ } _ _ _
  | ri => rfl
  | si => exact siWrite_processor { s with si := _ } _ _ _

theorem readReg_processor (el : Int) (d : Device) (pa : Word) : (s.readReg el d pa).KeepsProcessor s := by
  unfold State.readReg
  split
  · rfl
  · trivial

theorem writeReg_processor (el : Int) (d : Device) (pa v : Word) : (s.writeReg el d pa v).KeepsProcessor s := by
  unfold State.writeReg
  split
  · exact slotWrite_processor _ _ _ _ _
  · trivial

/-! ### The bus (R230) -/

theorem cartReadBytes_processor (pa : Word) (n : Nat) : (s.cartReadBytes pa n).2.processor = s.processor := by
  induction n generalizing pa s with
  | zero => rfl
  | succ n ih => exact (ih _ _).trans (collabCall_processor s _ _)

theorem cartWriteBytes_processor (pa : Word) (bs : List (Option Byte)) : (s.cartWriteBytes pa bs).processor = s.processor := by
  induction bs generalizing pa s with
  | nil => rfl
  | cons b bs ih =>
    cases b with
    | none => exact ih _ _
    | some b => exact (ih _ _).trans (collabCall_processor s _ _)

theorem windowRead_processor (r : Region) (pa : Word) : (s.windowRead r pa).KeepsProcessor s := by
  unfold State.windowRead
  split
  · exact readReg_processor _ _ _ _
  · exact collabCall_processor _ _ _
  · rfl

theorem windowWrite_processor (r : Region) (pa v : Word) : (s.windowWrite r pa v).KeepsProcessor s := by
  unfold State.windowWrite
  split
  · exact writeReg_processor _ _ _ _ _
  · exact collabCall_processor _ _ _
  · rfl

theorem windowReadBytes_processor (r : Region) (pa : Word) (n : Nat) : (s.windowReadBytes r pa n).KeepsProcessor s := by
  unfold State.windowReadBytes
  split
  · exact (windowRead_processor _ _ _).bind fun _ _ => (windowRead_processor _ _ _).bind fun _ _ => rfl
  · exact (windowRead_processor _ _ _).bind fun _ _ => rfl

theorem physRead_processor (pa : Word) (n : Nat) : (physRead pa n s).KeepsProcessor s := by
  unfold physRead
  split
  case h_5 => exact cartReadBytes_processor _ _ _
  case h_6 => exact windowReadBytes_processor _ _ _ _
  all_goals rfl

theorem physWrite_processor (whole : Bool) (pa : Word) (bs : List (Option Byte)) : (physWrite whole pa bs s).KeepsProcessor s := by
  unfold physWrite
  split
  case h_5 => exact cartWriteBytes_processor _ _ _
  case h_6 =>
    split
    · exact windowWrite_processor _ _ _ _
    · trivial
  all_goals rfl

theorem lineRead_processor (pa : Word) (n : Nat) : (lineRead pa n s).KeepsProcessor s := by
  unfold lineRead
  split
  case h_5 => exact cartReadBytes_processor _ _ _
  case h_6 => trivial
  all_goals rfl

theorem lineWrite_processor (pa : Word) (bs : List Byte) : (lineWrite pa bs s).KeepsProcessor s := by
  unfold lineWrite
  split
  case h_5 => exact cartWriteBytes_processor _ _ _
  case h_6 => trivial
  all_goals rfl

/-! ### The data cache (R243 to R246) -/

theorem writeBackIf_processor (also : Bool) (pa : Word) : (writeBackIf also pa s).KeepsProcessor s := by
  unfold writeBackIf
  split
  · exact (lineWrite_processor _ _ _).bind fun _ _ => rfl
  · rfl

theorem dEnsure_processor (pa : Word) : (dEnsure pa s).KeepsProcessor s := by
  have filled : (dFill pa s).KeepsProcessor s :=
    (writeBackIf_processor _ _ _).bind fun _ _ => (lineRead_processor _ _ _).bind fun _ _ => rfl
  unfold dEnsure
  split
  · trivial
  · split
    · rfl
    · exact filled.bind fun _ _ => rfl

theorem cachedLoad_processor (pa : Word) (n : Nat) : (cachedLoad pa n s).KeepsProcessor s :=
  (dEnsure_processor _ _).bind fun _ _ => rfl

theorem cachedStore_processor (pa : Word) (bs : List (Option Byte)) : (cachedStore pa bs s).KeepsProcessor s :=
  (dEnsure_processor _ _).bind fun _ _ => rfl

theorem uncachedLoad_processor (pa : Word) (n : Nat) : (uncachedLoad pa n s).KeepsProcessor s :=
  physRead_processor (s.addCycles _) _ _

theorem uncachedStore_processor (whole : Bool) (pa : Word) (bs : List (Option Byte)) :
    (uncachedStore whole pa bs s).KeepsProcessor s := physWrite_processor (s.addCycles _) _ _ _

/-! ### Data accesses (R550, R551, R580) -/

theorem translate_processor (a : DWord) (kind : AccessKind) : (translate a kind s).KeepsProcessor s := by
  have looked (b : DWord) : (tlbLookup b kind s).KeepsProcessor s := by
    unfold tlbLookup
    split
    · rfl
    · split
      · rfl
      · split <;> rfl
  unfold translate
  split
  · trivial
  · split
    · rfl
    · split
      · rfl
      · rfl
      · exact looked _

theorem locate_processor (kind : AccessKind) (a : DWord) (n : Nat) : (locate kind a n s).KeepsProcessor s := by
  have allowed : (accessAllowed s).KeepsProcessor s := by
    unfold accessAllowed
    split
    · trivial
    · split
      · trivial
      · rfl
    · rfl
  have aligned (t : State) : (checkAligned kind a n t).KeepsProcessor t := by
    unfold checkAligned
    split <;> rfl
  exact allowed.bind fun _ t => (aligned t).bind fun _ t => translate_processor t a kind

theorem dataChecks_processor (kind : AccessKind) (pa : Word) : (dataChecks kind pa s).KeepsProcessor s := by
  unfold dataChecks
  split
  · rfl
  · split <;> rfl

theorem loadAt_processor (pa : Word) (c : Bool) (n : Nat) : (loadAt pa c n s).KeepsProcessor s := by
  refine (dataChecks_processor _ _ _).bind fun _ t => ?_
  split
  · exact cachedLoad_processor _ _ _
  · exact uncachedLoad_processor _ _ _

theorem storeAt_processor (whole : Bool) (pa : Word) (c : Bool) (bs : List (Option Byte)) :
    (storeAt whole pa c bs s).KeepsProcessor s := by
  refine (dataChecks_processor _ _ _).bind fun _ t => ?_
  split
  · exact cachedStore_processor _ _ _
  · exact uncachedStore_processor _ _ _ _

theorem memReadPa_processor (a : DWord) (n : Nat) : (memReadPa a n s).KeepsProcessor s :=
  (locate_processor _ _ _ _).bind fun _ _ => (loadAt_processor _ _ _ _).bind fun _ _ => rfl

theorem memRead_processor (a : DWord) (n : Nat) : (memRead a n s).KeepsProcessor s :=
  (memReadPa_processor _ _ _).bind fun _ _ => rfl

theorem memWrite_processor (a : DWord) (n : Nat) (v : DWord) : (memWrite a n v s).KeepsProcessor s :=
  (locate_processor _ _ _ _).bind fun _ _ => storeAt_processor _ _ _ _ _

theorem memWriteMasked_processor (a : DWord) (n : Nat) (v m : DWord) : (memWriteMasked a n v m s).KeepsProcessor s :=
  (locate_processor _ _ _ _).bind fun _ _ => storeAt_processor _ _ _ _ _

theorem memWriteConditional_processor (a : DWord) (n : Nat) (v : DWord) : (memWriteConditional a n v s).KeepsProcessor s := by
  refine (locate_processor _ _ _ _).bind fun _ t => ?_
  split
  · exact (storeAt_processor _ _ _ _ _).bind fun _ _ => rfl
  · rfl

end Sys2Proof.Machine
end

section
/-! SUPPORT. Isolation of User mode: whatever an instruction does, the TLB, the instruction cache and the privileged registers of
coprocessor 0 stay, and Kernel mode is entered through an exception vector only (`60_exceptions.md` R800 to R825). -/

namespace Sys2Proof.Machine

/-! ### The two relations -/

/-- What an instruction of User mode has done before it ends: the TLB, the instruction cache and coprocessor 0 are as they were. -/
structure Shielded (s t : State) : Prop where
  tlb : t.tlb = s.tlb
  icache : t.icache = s.icache
  cop0 : t.cop0 = s.cop0

/-- Still in User mode, or in Kernel mode at one of the six vectors, with no branch pending. -/
def ModeKeptOrTrapped (s t : State) : Prop :=
  (t.cop0.status = s.cop0.status ∧ t.mode = .user)
    ∨ (t.cop0.status = setBit s.cop0.status 1 true ∧ t.mode = .kernel ∧ t.branchState = .noBranch
      ∧ t.pc ∈ [0xFFFFFFFF80000000#64, 0xFFFFFFFF80000080#64, 0xFFFFFFFF80000180#64,
          0xFFFFFFFFBFC00200#64, 0xFFFFFFFFBFC00280#64, 0xFFFFFFFFBFC00380#64])

/-- What an instruction of User mode has done when it ends: what O47 says. -/
structure UserIsolated (s t : State) : Prop where
  tlb : t.tlb = s.tlb
  icache : t.icache = s.icache
  cop0 : t.cop0 = { s.cop0 with
    status := t.cop0.status
    cause := t.cop0.cause
    epc := t.cop0.epc
    badVAddr := t.cop0.badVAddr
    context := t.cop0.context
    xContext := t.cop0.xContext
    entryHi := t.cop0.entryHi
    llAddr := t.cop0.llAddr }
  asid : bitField t.cop0.entryHi 0 8 = bitField s.cop0.entryHi 0 8
  ip : bitField t.cop0.cause 8 8 = bitField s.cop0.cause 8 8
  outcome : ModeKeptOrTrapped s t

/-- A next state, if there is one, is isolated. -/
def Result.Isolated (s : State) : Result → Prop
  | .next t => UserIsolated s t
  | .fault _ => True
  | .refused _ => True

theorem Shielded.refl (s : State) : Shielded s s := ⟨rfl, rfl, rfl⟩

/-- A step of an instruction that leaves the three alone. -/
theorem Shielded.congr {s t u : State} (h : Shielded s t) (same : u.tlb = t.tlb ∧ u.icache = t.icache ∧ u.cop0 = t.cop0) :
    Shielded s u := by
  obtain ⟨tlb, icache, cop0⟩ := same
  exact ⟨tlb.trans h.tlb, icache.trans h.icache, cop0.trans h.cop0⟩

theorem Shielded.of_processor {s t u : State} (h : Shielded s t) (hp : u.processor = t.processor) : Shielded s u :=
  h.congr ⟨tlb_of_processor hp, icache_of_processor hp, cop0_of_processor hp⟩

theorem Shielded.setX {s t : State} (h : Shielded s t) (r : RegIdx) (v : DWord) : Shielded s (t.setX r v) := h.congr (by simp)

/-! ### The ends of an instruction -/

/-- Words that agree under a mask agree on a field of the mask. -/
theorem bitField_eq_of_and_eq {n : Nat} {a b m : BitVec n} {lo len : Nat} (hm : bitField m lo len = BitVec.allOnes len)
    (h : a &&& m = b &&& m) : bitField a lo len = bitField b lo len := by
  have hf : bitField (a &&& m) lo len = bitField (b &&& m) lo len := by rw [h]
  unfold bitField at hm hf ⊢
  rwa [BitVec.extractLsb'_and, BitVec.extractLsb'_and, hm, BitVec.and_allOnes, BitVec.and_allOnes] at hf

theorem vectorOf_mem (bev refill xtlb : Bool) : vectorOf bev refill xtlb ∈
    [0xFFFFFFFF80000000#64, 0xFFFFFFFF80000080#64, 0xFFFFFFFF80000180#64,
      0xFFFFFFFFBFC00200#64, 0xFFFFFFFFBFC00280#64, 0xFFFFFFFFBFC00380#64] := by
  cases bev <;> cases refill <;> cases xtlb <;> decide

/-- With EXL set the mode is Kernel (R800). -/
theorem mode_of_exl {s : State} (h : s.exl = true) : s.mode = .kernel := by
  simp [State.mode, h]

/-- An exception taken is isolated: it records, sets EXL and goes to a vector (R820). -/
theorem ExceptionTaken.isolated {e : Exc} {s t u : State} (h : Shielded s u) (ht : ExceptionTaken e u t) : UserIsolated s t where
  tlb := ht.frame.tlb.trans h.tlb
  icache := by
    obtain ⟨-, -, hic⟩ := ht.frame.memory
    exact hic.trans h.icache
  cop0 := by
    have hc := ht.frame.cop0
    unfold SameCop0ButTrap at hc
    rw [hc, h.cop0]
  asid := by
    rw [← h.cop0]
    cases ha : e.vaddr with
    | none =>
      obtain ⟨-, -, -, he⟩ := ht.noAddress ha
      rw [he]
    | some a => exact bitField_eq_of_and_eq (by decide) (ht.address a ha).entryHiRest
  ip := by
    rw [← h.cop0]
    exact bitField_eq_of_and_eq (by decide) ht.causeRest
  outcome := by
    refine .inr ⟨by rw [ht.status, h.cop0], mode_of_exl ?_, ht.branch, ht.pc ▸ vectorOf_mem _ _ _⟩
    rw [State.exl, State.status, ht.status]
    exact bit_setBit_self (by decide) _ _

section
variable {s t : State} (hu : s.mode = .user)
include hu

/-- An instruction that ends with the three as they were, or with LLAddr changed, is isolated. -/
theorem UserIsolated.of_llAddr (htlb : t.tlb = s.tlb) (hic : t.icache = s.icache)
    (hc : t.cop0 = { s.cop0 with llAddr := t.cop0.llAddr }) : UserIsolated s t := by
  have hmode : t.mode = s.mode := by
    unfold State.mode State.exl State.erl State.ksu State.status
    rw [hc]
  refine ⟨htlb, hic, ?_, ?_, ?_, .inl ⟨?_, hmode.trans hu⟩⟩ <;> rw [hc]

theorem Shielded.isolated (h : Shielded s t) : UserIsolated s t :=
  .of_llAddr hu h.tlb h.icache (by rw [h.cop0])

theorem Shielded.raise (h : Shielded s t) (e : Exc) : UserIsolated s (takeException e t) := by
  cases hl : t.excLatch with
  | true =>
    rw [takeException, if_pos hl]
    exact h.isolated hu
  | false => exact (takeException_taken e t hl).isolated h

theorem Shielded.done (h : Shielded s t) : Result.Isolated s t.done := Shielded.isolated hu (h.congr (by simp))

/-! ### Gates and accesses -/

/-- A piece of an instruction that changes only what a data access may change, and its continuation. -/
theorem Res.KeepsProcessor.isolated {α : Type} {r : Res α} {k : α → State → Result} (hr : r.KeepsProcessor t) (h : Shielded s t)
    (hk : ∀ a u, Shielded s u → Result.Isolated s (k a u)) : Result.Isolated s (r.finish k) := by
  cases r with
  | ok a u => exact hk a u (h.of_processor hr)
  | raise e u => exact (h.of_processor hr).raise hu e
  | refuse q => trivial

end

theorem checkCop_processor (n : BitVec 2) (s : State) : (checkCop n s).KeepsProcessor s := by
  unfold checkCop
  split
  · split
    · rfl
    · trivial
    · split <;> rfl
  · split <;> rfl

theorem require64_processor (s : State) : (require64 s).KeepsProcessor s := by
  unfold require64
  split
  · rfl
  · split <;> rfl
  · split <;> rfl
  · trivial

section
variable {s t : State} {k : State → Result} (hu : s.mode = .user)
include hu

theorem withCop_isolated {n : BitVec 2} (h : Shielded s t) (hk : ∀ u, Shielded s u → Result.Isolated s (k u)) :
    Result.Isolated s (withCop n k t) := (checkCop_processor n t).isolated hu h fun _ => hk

theorem with64_isolated (h : Shielded s t) (hk : ∀ u, Shielded s u → Result.Isolated s (k u)) :
    Result.Isolated s (with64 k t) := (require64_processor t).isolated hu h fun _ => hk

/-- Without CU0 an instruction that checks coprocessor 0 first takes CpU, whatever it would do (R802). -/
theorem withCop0_isolated (hc : s.cu 0 = false) : Result.Isolated s (withCop 0#2 k s) := by
  rw [withCop0_denied ⟨.inr hu, hc⟩]
  exact (Shielded.refl s).raise hu _

/-! ### What instructions end in -/

theorem finishWord_isolated {rd : RegIdx} {v : Word} (h : Shielded s t) : Result.Isolated s (finishWord rd v t) :=
  (h.setX rd _).done hu

theorem finishDouble_isolated {rd : RegIdx} {v : DWord} (h : Shielded s t) : Result.Isolated s (finishDouble rd v t) :=
  (h.setX rd _).done hu

theorem finishHiLo_isolated {hi lo : DWord} (h : Shielded s t) : Result.Isolated s (finishHiLo hi lo t) :=
  Shielded.done hu (h.congr (by simp))

theorem finishTrappingWord_isolated {rd : RegIdx} {i : Int} (h : Shielded s t) : Result.Isolated s (finishTrappingWord rd i t) := by
  unfold finishTrappingWord
  split
  · exact h.raise hu _
  · exact finishWord_isolated hu h

theorem finishTrappingDouble_isolated {rd : RegIdx} {i : Int} (h : Shielded s t) :
    Result.Isolated s (finishTrappingDouble rd i t) := by
  unfold finishTrappingDouble
  split
  · exact h.raise hu _
  · exact finishDouble_isolated hu h

theorem trapIf_isolated {c : Bool} (h : Shielded s t) : Result.Isolated s (trapIf c t) := by
  unfold trapIf
  split
  · exact h.raise hu _
  · exact h.done hu

theorem branch_isolated {c : Bool} {target : DWord} (h : Shielded s t) : Result.Isolated s (t.branch c target) := by
  unfold State.branch
  split
  · refine Shielded.isolated hu (h.congr ?_)
    cases c <;> simp
  · exact Shielded.isolated hu (h.congr (by simp))

theorem branchLikely_isolated {c : Bool} {target : DWord} (h : Shielded s t) : Result.Isolated s (t.branchLikely c target) := by
  unfold State.branchLikely
  split
  · refine Shielded.isolated hu (h.congr ?_)
    cases c <;> simp
  · exact Shielded.isolated hu (h.congr (by simp))

theorem loadWith_isolated {ext : DWord → DWord} {n : Nat} {rt base : RegIdx} {offset : Half} (h : Shielded s t) :
    Result.Isolated s (loadWith ext n rt base offset t) :=
  (memRead_processor t _ _).isolated hu h fun _ _ h => finishDouble_isolated hu h

theorem storeWith_isolated {n : Nat} {rt base : RegIdx} {offset : Half} (h : Shielded s t) :
    Result.Isolated s (storeWith n rt base offset t) :=
  (memWrite_processor t _ _ _).isolated hu h fun _ _ h => h.done hu

theorem loadMerge_isolated {merge : Nat → DWord → DWord → DWord} {n : Nat} {rt base : RegIdx} {offset : Half} (h : Shielded s t) :
    Result.Isolated s (loadMerge merge n rt base offset t) :=
  ((memRead_processor t _ _).withAddress _).isolated hu h fun _ _ h => finishDouble_isolated hu h

theorem storeMasked_isolated {place : Nat → DWord → DWord × DWord} {n : Nat} {rt base : RegIdx} {offset : Half} (h : Shielded s t) :
    Result.Isolated s (storeMasked place n rt base offset t) :=
  ((memWriteMasked_processor t _ _ _ _).withAddress _).isolated hu h fun _ _ h => h.done hu

/-- A load-linked changes LLAddr of coprocessor 0 and nothing else of it (R578). -/
theorem loadLinked_isolated {ext : DWord → DWord} {n : Nat} {rt base : RegIdx} {offset : Half} (h : Shielded s t) :
    Result.Isolated s (loadLinked ext n rt base offset t) := by
  refine (memReadPa_processor t _ _).isolated hu h fun r u h => UserIsolated.of_llAddr hu ?_ ?_ ?_
  · simpa using h.tlb
  · simpa using h.icache
  · rw [retire_cop0, setX_cop0, ← h.cop0]
    rfl

theorem storeConditional_isolated {n : Nat} {rt base : RegIdx} {offset : Half} (h : Shielded s t) :
    Result.Isolated s (storeConditional n rt base offset t) :=
  (memWriteConditional_processor t _ _ _).isolated hu h fun _ _ h => finishDouble_isolated hu h

theorem fpArith_isolated {o : FpOutcome} {dst : FpFmt} {fd : RegIdx} (h : Shielded s t) : Result.Isolated s (fpArith o dst fd t) := by
  unfold fpArith
  split
  · exact Shielded.raise hu (h.congr (by simp)) _
  · split
    · exact Shielded.raise hu (h.congr (by simp)) _
    · exact Shielded.isolated hu (h.congr (by simp))

theorem fpCompare_isolated {f : FpFmt} {cond : BitVec 4} {fs ft : RegIdx} (h : Shielded s t) :
    Result.Isolated s (fpCompare f cond fs ft t) := by
  unfold fpCompare
  dsimp only
  split
  · exact Shielded.raise hu (h.congr (by simp)) _
  · exact Shielded.isolated hu (h.congr (by simp))

theorem writeFcr_isolated {n : RegIdx} {v : Word} (h : Shielded s t) : Result.Isolated s (writeFcr n v t) := by
  have hf : Shielded s (t.setFcsr (v &&& 0x0183FFFF#32)) := h.congr (by simp)
  unfold writeFcr
  dsimp only
  split
  · split
    · exact hf.raise hu _
    · exact hf.done hu
  · exact h.done hu

/-! ### Instructions -/

/-- Every instruction in User mode with CU0 = 0, by the shared operation it ends in; those of coprocessor 0 end at their check. -/
theorem exec_isolated {i : Instr} (hc : s.cu 0 = false) : Result.Isolated s (exec i s) := by
  have h := Shielded.refl s
  cases i
  case add | sub | addi => exact finishTrappingWord_isolated hu h
  case addu | subu | addiu | lui | sll | srl | sra | sllv | srlv | srav => exact finishWord_isolated hu h
  case dadd | dsub | daddi => exact with64_isolated hu h fun _ h => finishTrappingDouble_isolated hu h
  case daddu | dsubu | daddiu | dsll | dsrl | dsra | dsll32 | dsrl32 | dsra32 | dsllv | dsrlv | dsrav =>
    exact with64_isolated hu h fun _ h => finishDouble_isolated hu h
  case and | or | xor | nor | andi | ori | xori | slt | sltu | slti | sltiu | mfhi | mflo => exact finishDouble_isolated hu h
  case mult | multu | div | divu | mthi | mtlo => exact finishHiLo_isolated hu h
  case dmult | dmultu | ddiv | ddivu => exact with64_isolated hu h fun _ h => finishHiLo_isolated hu h
  case j | jr | beq | bne | blez | bgtz | bltz | bgez => exact branch_isolated hu h
  case jal | jalr | bltzal | bgezal => exact branch_isolated hu (h.setX _ _)
  case beql | bnel | blezl | bgtzl | bltzl | bgezl => exact branchLikely_isolated hu h
  case bltzall | bgezall => exact branchLikely_isolated hu (h.setX _ _)
  case lb | lbu | lh | lhu | lw => exact loadWith_isolated hu h
  case lwu | ld => exact with64_isolated hu h fun _ h => loadWith_isolated hu h
  case sb | sh | sw => exact storeWith_isolated hu h
  case sd => exact with64_isolated hu h fun _ h => storeWith_isolated hu h
  case lwl | lwr => exact loadMerge_isolated hu h
  case ldl | ldr => exact with64_isolated hu h fun _ h => loadMerge_isolated hu h
  case swl | swr => exact storeMasked_isolated hu h
  case sdl | sdr => exact with64_isolated hu h fun _ h => storeMasked_isolated hu h
  case ll => exact loadLinked_isolated hu h
  case lld => exact with64_isolated hu h fun _ h => loadLinked_isolated hu h
  case sc => exact storeConditional_isolated hu h
  case scd => exact with64_isolated hu h fun _ h => storeConditional_isolated hu h
  case sync => exact h.done hu
  case syscall | brk => exact h.raise hu _
  case tge | tgeu | tlt | tltu | teq | tne | tgei | tgeiu | tlti | tltiu | teqi | tnei => exact trapIf_isolated hu h
  case cache => exact withCop0_isolated hu hc
  case mfc0 | dmfc0 | mtc0 | dmtc0 | tlbr | tlbwi | tlbwr | tlbp | eret => exact withCop0_isolated hu hc
  case mfc1 | cfc1 => exact withCop_isolated hu h fun _ h => finishWord_isolated hu h
  case dmfc1 => exact withCop_isolated hu h fun _ h => with64_isolated hu h fun _ h => finishDouble_isolated hu h
  case lwc1 | ldc1 =>
    exact withCop_isolated hu h fun u h => (memRead_processor u _ _).isolated hu h fun _ _ h => Shielded.done hu (h.congr (by simp))
  case swc1 | sdc1 =>
    exact withCop_isolated hu h fun u h => (memWrite_processor u _ _ _).isolated hu h fun _ _ h => h.done hu
  case mtc1 => exact withCop_isolated hu h fun _ h => Shielded.done hu (h.congr (by simp))
  case dmtc1 => exact withCop_isolated hu h fun _ h => with64_isolated hu h fun _ h => Shielded.done hu (h.congr (by simp))
  case ctc1 => exact withCop_isolated hu h fun _ h => writeFcr_isolated hu h
  case bc1f | bc1t => exact withCop_isolated hu h fun _ h => branch_isolated hu h
  case bc1fl | bc1tl => exact withCop_isolated hu h fun _ h => branchLikely_isolated hu h
  case addS | addD | subS | subD | mulS | mulD | divS | divD | sqrtS | sqrtD | absS | absD | negS | negD | roundLS | roundLD
      | truncLS | truncLD | ceilLS | ceilLD | floorLS | floorLD | roundWS | roundWD | truncWS | truncWD | ceilWS | ceilWD
      | floorWS | floorWD | cvtSD | cvtSW | cvtSL | cvtDS | cvtDW | cvtDL | cvtWS | cvtWD | cvtLS | cvtLD =>
    exact withCop_isolated hu h fun _ h => fpArith_isolated hu h
  case movS | movD => exact withCop_isolated hu h fun _ h => Shielded.done hu (h.congr (by simp))
  case cFS | cFD | cUnS | cUnD | cEqS | cEqD | cUeqS | cUeqD | cOltS | cOltD | cUltS | cUltD | cOleS | cOleD | cUleS | cUleD
      | cSfS | cSfD | cNgleS | cNgleD | cSeqS | cSeqD | cNglS | cNglD | cLtS | cLtD | cNgeS | cNgeD | cLeS | cLeD | cNgtS
      | cNgtD =>
    exact withCop_isolated hu h fun _ h => fpCompare_isolated hu h
  case cop2 | lwc2 | ldc2 | swc2 | sdc2 => exact withCop_isolated hu h fun _ h => h.raise hu _

end

/-- Settles O47: an instruction of User mode with CU0 = 0 ends having changed nothing privileged, or in the entry of an exception. -/
theorem userIsolation : Obligations.UserIsolation := by
  intro i s t hu hc ht
  have h : Result.Isolated s (exec i s) := exec_isolated hu hc
  rw [ht] at h
  exact ⟨h.tlb, h.icache, h.cop0, h.asid, h.ip, h.outcome⟩

end Sys2Proof.Machine
end

section
/-! SUPPORT. Decoding undoes encoding: a word that holds every field of an instruction's row in the opcode table decodes to it, and the word
the encoder builds holds them (`30_encoding.md` R301 to R325). -/

namespace Sys2Proof.Laws.FixedBits

/-- The encoder's word of every instruction holds the fields of its row. -/
theorem encode_fields (i : Instr) : Statement i := by
  cases i
  exacts [add _ _ _, addu _ _ _, sub _ _ _, subu _ _ _, addi _ _ _, addiu _ _ _, dadd _ _ _, daddu _ _ _, dsub _ _ _, dsubu _ _ _,
    daddi _ _ _, daddiu _ _ _, and _ _ _, or _ _ _, xor _ _ _, nor _ _ _, andi _ _ _, ori _ _ _, xori _ _ _, lui _ _, slt _ _ _,
    sltu _ _ _, slti _ _ _, sltiu _ _ _, sll _ _ _, srl _ _ _, sra _ _ _, sllv _ _ _, srlv _ _ _, srav _ _ _, dsll _ _ _, dsrl _ _ _,
    dsra _ _ _, dsll32 _ _ _, dsrl32 _ _ _, dsra32 _ _ _, dsllv _ _ _, dsrlv _ _ _, dsrav _ _ _, mult _ _, multu _ _, div _ _, divu _ _,
    dmult _ _, dmultu _ _, ddiv _ _, ddivu _ _, mfhi _, mthi _, mflo _, mtlo _, j _, jal _, jr _, jalr _ _, beq _ _ _, bne _ _ _,
    blez _ _, bgtz _ _, bltz _ _, bgez _ _, bltzal _ _, bgezal _ _, beql _ _ _, bnel _ _ _, blezl _ _, bgtzl _ _, bltzl _ _, bgezl _ _,
    bltzall _ _, bgezall _ _, lb _ _ _, lbu _ _ _, lh _ _ _, lhu _ _ _, lw _ _ _, lwu _ _ _, ld _ _ _, sb _ _ _, sh _ _ _, sw _ _ _,
    sd _ _ _, lwl _ _ _, lwr _ _ _, ldl _ _ _, ldr _ _ _, swl _ _ _, swr _ _ _, sdl _ _ _, sdr _ _ _, ll _ _ _, lld _ _ _, sc _ _ _,
    scd _ _ _, sync _, cache _ _ _, syscall _, brk _, tge _ _ _, tgeu _ _ _, tlt _ _ _, tltu _ _ _, teq _ _ _, tne _ _ _, tgei _ _,
    tgeiu _ _, tlti _ _, tltiu _ _, teqi _ _, tnei _ _, mfc0 _ _, dmfc0 _ _, mtc0 _ _, dmtc0 _ _, tlbr, tlbwi, tlbwr, tlbp, eret,
    lwc1 _ _ _, ldc1 _ _ _, swc1 _ _ _, sdc1 _ _ _, mfc1 _ _, dmfc1 _ _, cfc1 _ _, mtc1 _ _, dmtc1 _ _, ctc1 _ _, bc1f _, bc1t _,
    bc1fl _, bc1tl _, addS _ _ _, addD _ _ _, subS _ _ _, subD _ _ _, mulS _ _ _, mulD _ _ _, divS _ _ _, divD _ _ _, sqrtS _ _,
    sqrtD _ _, absS _ _, absD _ _, movS _ _, movD _ _, negS _ _, negD _ _, roundLS _ _, roundLD _ _, truncLS _ _, truncLD _ _,
    ceilLS _ _, ceilLD _ _, floorLS _ _, floorLD _ _, roundWS _ _, roundWD _ _, truncWS _ _, truncWD _ _, ceilWS _ _, ceilWD _ _,
    floorWS _ _, floorWD _ _, cvtSD _ _, cvtSW _ _, cvtSL _ _, cvtDS _ _, cvtDW _ _, cvtDL _ _, cvtWS _ _, cvtWD _ _, cvtLS _ _,
    cvtLD _ _, cFS _ _, cFD _ _, cUnS _ _, cUnD _ _, cEqS _ _, cEqD _ _, cUeqS _ _, cUeqD _ _, cOltS _ _, cOltD _ _, cUltS _ _,
    cUltD _ _, cOleS _ _, cOleD _ _, cUleS _ _, cUleD _ _, cSfS _ _, cSfD _ _, cNgleS _ _, cNgleD _ _, cSeqS _ _, cSeqD _ _, cNglS _ _,
    cNglD _ _, cLtS _ _, cLtD _ _, cNgeS _ _, cNgeD _ _, cLeS _ _, cLeD _ _, cNgtS _ _, cNgtD _ _, cop2, lwc2 _ _ _, ldc2 _ _ _,
    swc2 _ _ _, sdc2 _ _ _]

end Sys2Proof.Laws.FixedBits

namespace Sys2Proof

open Laws.FixedBits

/-! ### Operands -/

theorem reg_eq_iff {w : Word} {lo : Nat} {r : RegIdx} : reg w lo = r ↔ field w lo 5 = r.val := Fin.ext_iff

theorem imm16_eq_iff {w : Word} {v : Half} : imm16 w = v ↔ field w 0 16 = v.toNat := by
  simp [imm16, field, ← BitVec.toNat_inj]

theorem target_eq_iff {w : Word} {v : BitVec 26} : w.setWidth 26 = v ↔ field w 0 26 = v.toNat := by
  simp [field, ← BitVec.toNat_inj]

/-- Bit 25 is the top bit of the rs field. -/
theorem bit25_of_rs (w : Word) : field w 25 1 = field w 21 5 / 16 := by
  unfold field
  omega

/-! ### The opcode map a word is looked up in (R320 to R325) -/

section
variable {w : Word}

theorem decode_special (h : field w 26 6 = 0) : decode w = decodeSpecial w := by simp [decode, h]

theorem decode_regimm (h : field w 26 6 = 1) : decode w = decodeRegimm w := by simp [decode, h]

theorem decode_co (h : field w 26 6 = 16) (hb : field w 25 1 = 1) : decode w = decodeCo w := by simp [decode, h, hb]

theorem decode_cop0Move (h : field w 26 6 = 16) (hb : field w 25 1 ≠ 1) : decode w = decodeCop0Move w := by simp [decode, h, hb]

theorem decode_cop1 (h : field w 26 6 = 17) : decode w = decodeCop1 w := by simp [decode, h]

theorem decodeCop1_s (h : field w 21 5 = 16) : decodeCop1 w = decodeCop1S w := by simp [decodeCop1, h]

theorem decodeCop1_d (h : field w 21 5 = 17) : decodeCop1 w = decodeCop1D w := by simp [decodeCop1, h]

end

/-! ### The instruction a word decodes to -/

/-- A word that holds every field of an instruction's row decodes to it, whatever its other bits are (R308). In each group the word is
looked up in its map, the field that selects a row there is made the row's number, and what is left are the operands. -/
theorem decode_of_fields {w : Word} {i : Instr} (h : ∀ f ∈ tableFields i, field w f.1 f.2.1 = f.2.2) : decode w = .ok i := by
  cases i
  all_goals simp only [tableFields, List.forall_mem_cons, List.not_mem_nil, false_implies, implies_true, and_true] at h
  case add | addu | sub | subu | dadd | daddu | dsub | dsubu | and | or | xor | nor | slt | sltu | sll | srl | sra | sllv | srlv | srav
      | dsll | dsrl | dsra | dsll32 | dsrl32 | dsra32 | dsllv | dsrlv | dsrav | mult | multu | div | divu | dmult | dmultu | ddiv | ddivu
      | mfhi | mthi | mflo | mtlo | jr | jalr | sync | syscall | brk | tge | tgeu | tlt | tltu | teq | tne =>
    rw [decode_special h.1, decodeSpecial]
    conv in field w 0 6 => simp only [h]
    show Except.ok _ = _
    simp [reg_eq_iff, h]
  case bltz | bgez | bltzal | bgezal | bltzl | bgezl | bltzall | bgezall | tgei | tgeiu | tlti | tltiu | teqi | tnei =>
    rw [decode_regimm h.1, decodeRegimm]
    conv in field w 16 5 => simp only [h]
    show Except.ok _ = _
    simp [reg_eq_iff, imm16_eq_iff, h]
  case tlbr | tlbwi | tlbwr | tlbp | eret =>
    simp [decode_co, decodeCo, h]
  case mfc0 | dmfc0 | mtc0 | dmtc0 =>
    simp [decode_cop0Move, bit25_of_rs, decodeCop0Move, reg_eq_iff, h]
  case mfc1 | dmfc1 | cfc1 | mtc1 | dmtc1 | ctc1 =>
    simp [decode_cop1, decodeCop1, reg_eq_iff, h]
  case bc1f | bc1t | bc1fl | bc1tl =>
    simp [decode_cop1, decodeCop1, decodeBc1, imm16_eq_iff, h]
  case addS | subS | mulS | divS | sqrtS | absS | movS | negS | roundLS | truncLS | ceilLS | floorLS | roundWS | truncWS | ceilWS
      | floorWS | cvtDS | cvtWS | cvtLS | cFS | cUnS | cEqS | cUeqS | cOltS | cUltS | cOleS | cUleS | cSfS | cNgleS | cSeqS | cNglS
      | cLtS | cNgeS | cLeS | cNgtS =>
    rw [decode_cop1 h.1, decodeCop1_s h.2.1, decodeCop1S]
    conv in field w 0 6 => simp only [h]
    show Except.ok _ = _
    simp [reg_eq_iff, h]
  case addD | subD | mulD | divD | sqrtD | absD | movD | negD | roundLD | truncLD | ceilLD | floorLD | roundWD | truncWD | ceilWD
      | floorWD | cvtSD | cvtWD | cvtLD | cFD | cUnD | cEqD | cUeqD | cOltD | cUltD | cOleD | cUleD | cSfD | cNgleD | cSeqD | cNglD
      | cLtD | cNgeD | cLeD | cNgtD =>
    rw [decode_cop1 h.1, decodeCop1_d h.2.1, decodeCop1D]
    conv in field w 0 6 => simp only [h]
    show Except.ok _ = _
    simp [reg_eq_iff, h]
  case cvtSW | cvtSL | cvtDW | cvtDL =>
    simp [decode_cop1, decodeCop1, decodeCop1W, decodeCop1L, reg_eq_iff, h]
  -- the instructions with a major opcode of their own
  case addi | addiu | daddi | daddiu | andi | ori | xori | lui | slti | sltiu | j | jal | beq | bne | blez | bgtz | beql | bnel | blezl
      | bgtzl | lb | lbu | lh | lhu | lw | lwu | ld | sb | sh | sw | sd | lwl | lwr | ldl | ldr | swl | swr | sdl | sdr | ll | lld | sc
      | scd | cache | lwc1 | ldc1 | swc1 | sdc1 | cop2 | lwc2 | ldc2 | swc2 | sdc2 =>
    rw [decode]
    conv in field w 26 6 => simp only [h]
    show Except.ok _ = _
    simp [reg_eq_iff, imm16_eq_iff, target_eq_iff, h]

end Sys2Proof

namespace Sys2Proof.Machine

/-- Settles O6: the encoder puts every field of the row in its place, and the decoder looks at no others. -/
theorem decodeEncode : Obligations.DecodeEncode := fun i hw => decode_of_fields (Laws.FixedBits.encode_fields i hw)

/-- Settles O7: sixteen closed words, each decoded. -/
theorem decodeWords : Obligations.DecodeWords := by
  unfold Obligations.DecodeWords
  decide

end Sys2Proof.Machine
end

section
/-! SUPPORT. What decoding rejects and what executing it raises: the reserved encodings of each opcode map, and that what decodes is well
formed (`30_encoding.md` R320 to R331; `44_system.md` R650). -/

namespace Sys2Proof

variable {w : Word} {r : Reject}

/-! ### What decodes is well formed (R301) -/

/-- A decoder's answer, if it is an instruction, is a well-formed one. -/
def AnswersWf : Except Reject Instr → Prop
  | .ok i => i.wf = true
  | .error _ => True

theorem shiftAmountOk_field (w : Word) (lo : Nat) : shiftAmountOk (field w lo 5) = true :=
  decide_eq_true (Nat.mod_lt _ (by decide))

/-- The only operand that could be out of range is a shift amount, and it is read from a field of 5 bits. -/
theorem decodeSpecial_wf (w : Word) : AnswersWf (decodeSpecial w) := by
  unfold decodeSpecial
  split
  case h_1 | h_2 | h_3 | h_47 | h_48 | h_49 | h_50 | h_51 | h_52 => exact shiftAmountOk_field w 6
  case h_53 => trivial
  all_goals rfl

theorem decodeCop1_wf (w : Word) : AnswersWf (decodeCop1 w) := by
  unfold decodeCop1
  split
  case h_7 => unfold decodeBc1; split <;> trivial
  case h_8 => unfold decodeCop1S; split <;> trivial
  case h_9 => unfold decodeCop1D; split <;> trivial
  case h_10 => unfold decodeCop1W; split <;> trivial
  case h_11 => unfold decodeCop1L; split <;> trivial
  all_goals trivial

theorem decode_answersWf (w : Word) : AnswersWf (decode w) := by
  unfold decode
  split
  case h_1 => exact decodeSpecial_wf w
  case h_2 => unfold decodeRegimm; split <;> trivial
  case h_17 =>
    split
    · unfold decodeCo; split <;> trivial
    · unfold decodeCop0Move; split <;> trivial
  case h_18 => exact decodeCop1_wf w
  all_goals trivial

theorem decode_wf {i : Instr} (h : decode w = .ok i) : i.wf = true := by
  have hw := decode_answersWf w
  rwa [h] at hw

/-! ### What each map rejects (R331, R325)

A word in a row of the map decodes, and the row's number is not among the rejected ones; in the last case the field is no row's number,
and the rejected ones are those that are left of its values. -/

theorem field_lt (w : Word) (lo len : Nat) : field w lo len < 2 ^ len := Nat.mod_lt _ (by positivity)

theorem decodeSpecial_error : decodeSpecial w = .error r
    ↔ r = .reservedSpecial ∧ field w 0 6 ∈ [1, 5, 10, 11, 14, 21, 40, 41, 53, 55, 57, 61] := by
  have hlt := field_lt w 0 6
  unfold decodeSpecial
  split
  case h_53 =>
    simp only [List.mem_cons, List.not_mem_nil, Except.error.injEq]
    grind
  all_goals simp [*]

theorem decodeRegimm_error : decodeRegimm w = .error r ↔ r = .reservedRegimm
    ∧ field w 16 5 ∈ [4, 5, 6, 7, 13, 15, 20, 21, 22, 23, 24, 25, 26, 27, 28, 29, 30, 31] := by
  have hlt := field_lt w 16 5
  unfold decodeRegimm
  split
  case h_15 =>
    simp only [List.mem_cons, List.not_mem_nil, Except.error.injEq]
    grind
  all_goals simp [*]

theorem decodeCo_error : decodeCo w = .error r ↔ r = .reservedCop0 ∧ field w 0 6 ∉ [1, 2, 6, 8, 24] := by
  unfold decodeCo
  split
  case h_6 =>
    simp only [List.mem_cons, List.not_mem_nil, Except.error.injEq]
    grind
  all_goals simp [*]

theorem decodeCop0Move_error : decodeCop0Move w = .error r ↔ r = .reservedCop0 ∧ field w 21 5 ∉ [0, 1, 4, 5] := by
  unfold decodeCop0Move
  split
  case h_5 =>
    simp only [List.mem_cons, List.not_mem_nil, Except.error.injEq]
    grind
  all_goals simp [*]

theorem decodeBc1_error : decodeBc1 w ≠ .error r := by
  unfold decodeBc1
  split <;> nofun

theorem decodeCop1S_error : decodeCop1S w = .error r
    ↔ r = .unimplementedCop1 ∧ 16 ≤ field w 0 6 ∧ field w 0 6 < 48 ∧ field w 0 6 ∉ [33, 36, 37] := by
  have hlt := field_lt w 0 6
  unfold decodeCop1S
  split
  case h_36 =>
    simp only [List.mem_cons, List.not_mem_nil, Except.error.injEq]
    grind
  all_goals simp [*]

theorem decodeCop1D_error : decodeCop1D w = .error r
    ↔ r = .unimplementedCop1 ∧ 16 ≤ field w 0 6 ∧ field w 0 6 < 48 ∧ field w 0 6 ∉ [32, 36, 37] := by
  have hlt := field_lt w 0 6
  unfold decodeCop1D
  split
  case h_36 =>
    simp only [List.mem_cons, List.not_mem_nil, Except.error.injEq]
    grind
  all_goals simp [*]

theorem decodeCop1W_error : decodeCop1W w = .error r ↔ r = .unimplementedCop1 ∧ field w 0 6 ∉ [32, 33] := by
  unfold decodeCop1W
  split
  case h_3 =>
    simp only [List.mem_cons, List.not_mem_nil, Except.error.injEq]
    grind
  all_goals simp [*]

theorem decodeCop1L_error : decodeCop1L w = .error r ↔ r = .unimplementedCop1 ∧ field w 0 6 ∉ [32, 33] := by
  unfold decodeCop1L
  split
  case h_3 =>
    simp only [List.mem_cons, List.not_mem_nil, Except.error.injEq]
    grind
  all_goals simp [*]

/-- COP1 rejects an rs value of its own, or its format's map rejects (R324, R325). -/
theorem decodeCop1_error : decodeCop1 w = .error r
    ↔ (r = .reservedCop1 ∧ field w 21 5 ∉ [0, 1, 2, 4, 5, 6, 8, 16, 17, 20, 21])
      ∨ (field w 21 5 = 16 ∧ decodeCop1S w = .error r) ∨ (field w 21 5 = 17 ∧ decodeCop1D w = .error r)
      ∨ (field w 21 5 = 20 ∧ decodeCop1W w = .error r) ∨ (field w 21 5 = 21 ∧ decodeCop1L w = .error r) := by
  unfold decodeCop1
  split
  case h_7 => simp [*, decodeBc1_error]
  case h_12 =>
    simp only [List.mem_cons, List.not_mem_nil, Except.error.injEq]
    grind
  all_goals simp [*]

/-- A word is rejected by its major opcode or by its major opcode's map (R320, R331). -/
theorem decode_error : decode w = .error r
    ↔ (r = .reservedMajor ∧ field w 26 6 ∈ [19, 28, 29, 30, 31, 51, 59])
      ∨ (field w 26 6 = 0 ∧ decodeSpecial w = .error r) ∨ (field w 26 6 = 1 ∧ decodeRegimm w = .error r)
      ∨ (field w 26 6 = 16 ∧ (if field w 25 1 = 1 then decodeCo w else decodeCop0Move w) = .error r)
      ∨ (field w 26 6 = 17 ∧ decodeCop1 w = .error r) := by
  have hlt := field_lt w 26 6
  unfold decode
  split
  case h_58 =>
    simp only [List.mem_cons, List.not_mem_nil, Except.error.injEq]
    grind
  all_goals simp [*]

end Sys2Proof

namespace Sys2Proof.Machine

variable {w : Word} {s : State}

/-! ### The fields of a word as the statements write them (R13) -/

theorem toNat_bitField_eq_field (w : Word) (lo len : Nat) : (bitField w lo len).toNat = field w lo len := toNat_bitField w lo len

theorem bitField_eq_iff_field {lo len : Nat} {v : BitVec len} : bitField w lo len = v ↔ field w lo len = v.toNat := by
  rw [← BitVec.toNat_inj, toNat_bitField_eq_field]

theorem bit_iff_field {k : Nat} : bit w k = true ↔ field w k 1 = 1 := by
  simp [bit, field, BitVec.getLsbD, Nat.testBit_eq_decide_div_mod_eq]

/-- The words of each kind of rejection, by their fields (R325, R331). -/
theorem decode_rejects (w : Word) :
    (decode w = .error .reservedMajor ↔ field w 26 6 ∈ [19, 28, 29, 30, 31, 51, 59])
      ∧ (decode w = .error .reservedSpecial ↔ field w 26 6 = 0
          ∧ field w 0 6 ∈ [1, 5, 10, 11, 14, 21, 40, 41, 53, 55, 57, 61])
      ∧ (decode w = .error .reservedRegimm ↔ field w 26 6 = 1
          ∧ field w 16 5 ∈ [4, 5, 6, 7, 13, 15, 20, 21, 22, 23, 24, 25, 26, 27, 28, 29, 30, 31])
      ∧ (decode w = .error .reservedCop0 ↔ field w 26 6 = 16
          ∧ if field w 25 1 = 1 then field w 0 6 ∉ [1, 2, 6, 8, 24] else field w 21 5 ∉ [0, 1, 4, 5])
      ∧ (decode w = .error .reservedCop1 ↔ field w 26 6 = 17 ∧ field w 21 5 ∉ [0, 1, 2, 4, 5, 6, 8, 16, 17, 20, 21])
      ∧ (decode w = .error .unimplementedCop1 ↔ field w 26 6 = 17
          ∧ ((field w 21 5 = 16 ∧ (16 ≤ field w 0 6 ∧ field w 0 6 < 48 ∧ field w 0 6 ∉ [33, 36, 37]))
            ∨ (field w 21 5 = 17 ∧ (16 ≤ field w 0 6 ∧ field w 0 6 < 48 ∧ field w 0 6 ∉ [32, 36, 37]))
            ∨ (field w 21 5 ∈ [20, 21] ∧ field w 0 6 ∉ [32, 33]))) := by
  have cop0 {r : Reject} : (if field w 25 1 = 1 then decodeCo w else decodeCop0Move w) = .error r
      ↔ r = .reservedCop0 ∧ if field w 25 1 = 1 then field w 0 6 ∉ [1, 2, 6, 8, 24] else field w 21 5 ∉ [0, 1, 4, 5] := by
    split
    · exact decodeCo_error
    · exact decodeCop0Move_error
  refine ⟨?_, ?_, ?_, ?_, ?_, ?_⟩
  all_goals
    rw [decode_error, decodeSpecial_error, decodeRegimm_error, cop0, decodeCop1_error, decodeCop1S_error, decodeCop1D_error,
      decodeCop1W_error, decodeCop1L_error]
    simp only [reduceCtorEq, false_and, and_false, false_or, or_false, true_and]
  -- the unimplemented operations are rejected by the maps of four formats, of which W and L reject the same
  simp only [List.mem_cons, List.not_mem_nil]
  grind

/-! ### What executing a rejected word does (R650, R703) -/

/-- A rejected word that raises `e` at `u` is charged nothing (R823). -/
theorem executeWord_raises {r : Reject} {e : Exc} {u : State} (hd : decode w = .error r)
    (he : execReserved r s = .next (takeException e u)) (hl : u.excLatch = false) :
    ∃ t, executeWord w s = .next t ∧ ExceptionTaken e u t := by
  have ht := takeException_taken e u hl
  refine ⟨takeException e u, ?_, ht⟩
  unfold executeWord
  rw [hd]
  dsimp only
  rw [he, onNext_next, chargeExtra_raised w ht.latch]

/-- Settles O8: what each map rejects, put together, and for each kind of rejection the gate that is open or denied. -/
theorem reservedEncodings : Obligations.ReservedEncodings := by
  refine ⟨fun w i h => decode_wf h, fun w => ?_, fun w s hl => ⟨?_, ?_, ?_, ?_⟩⟩
  · simp only [bitField_eq_iff_field, toNat_bitField_eq_field, bit_iff_field]
    exact decode_rejects w
  · rintro r hd (rfl | rfl | rfl) <;> exact executeWord_raises hd rfl hl
  · intro hd
    exact ⟨fun h => executeWord_raises hd (withCop0_open h) hl, fun h => executeWord_raises hd (withCop0_denied h) hl⟩
  · intro hd
    exact ⟨fun h => executeWord_raises hd (withCop_open (by decide) h) hl,
      fun h => executeWord_raises hd (withCop_denied (by decide) h) hl⟩
  · intro hd
    refine ⟨fun h => ?_, fun h => executeWord_raises hd (withCop_denied (by decide) h) hl⟩
    obtain ⟨t, ht, htaken⟩ := executeWord_raises hd (withCop_open (by decide) h) (u := s.setFcsr (setFpUnimplemented s.fcsr)) hl
    exact ⟨t, _, ht, fcsr_unimplemented _, htaken⟩

end Sys2Proof.Machine
end

section
/-! SUPPORT. The gates of the privileged and the 64-bit instructions (`30_encoding.md` R330, R332; `60_exceptions.md` R802, R803, R841). -/

namespace Sys2Proof.Machine

/-- Settles O20: each of these instructions checks coprocessor 0 first. -/
theorem cop0Privilege : Obligations.Cop0Privilege := by
  intro i s hl hd hp
  refine Raises.of_exec hl ?_
  cases i
  case mfc0 | dmfc0 | mtc0 | dmtc0 | tlbr | tlbwi | tlbwr | tlbp | eret | cache => exact withCop0_denied hd
  all_goals cases hp

/-- Where 64-bit operations are denied the mode is not the reserved one, so CU0 makes coprocessor 0 usable (R802, R803). -/
theorem State.ops64Denied.cop0Usable {s : State} (h : s.ops64Denied) (hc : s.cu 0 = true) : s.cop0Usable := by
  refine .inr ⟨?_, hc⟩
  rcases h with ⟨hm, -⟩ | ⟨hm, -⟩ <;> rw [hm] <;> nofun

/-- Settles O21: each of these instructions checks for 64-bit operations first, the moves after their coprocessor. -/
theorem gate64 : Obligations.Gate64 := by
  intro i s hl hg hd h0 h1
  refine Raises.of_exec hl ?_
  cases i
  case dmfc0 | dmtc0 => exact (withCop0_open (hd.cop0Usable (h0 rfl))).trans (with64_denied _ hd)
  case dmfc1 | dmtc1 => exact (withCop_open (by decide) (h1 rfl)).trans (with64_denied _ hd)
  case dadd | daddu | daddi | daddiu | dsub | dsubu | dsll | dsrl | dsra | dsll32 | dsrl32 | dsra32 | dsllv | dsrlv | dsrav | dmult
      | dmultu | ddiv | ddivu | ld | ldl | ldr | lld | lwu | sd | sdl | sdr | scd =>
    exact with64_denied _ hd
  all_goals cases hg

end Sys2Proof.Machine
end

section
/-! SUPPORT. The integer add, logical, set and shift instructions (`40_integer.md` R400 to R439): their results as arithmetic, and how
the gated and the trapping ones end. -/

namespace Sys2Proof.Machine

/-! ### Results as arithmetic -/

theorem toInt_sext16 (h : Half) : (sext16 h).toInt = h.toInt := BitVec.toInt_signExtend_of_le (by decide)

theorem add_sext16 (x : DWord) (h : Half) : x + sext16 h = BitVec.ofInt 64 (x.toInt + h.toInt) := by
  rw [add_ofInt, toInt_sext16]

theorem low32_add_sext16 (x : DWord) (h : Half) : low32 x + low32 (sext16 h) = BitVec.ofInt 32 ((low32 x).toInt + h.toInt) := by
  rw [low32_sext16, BitVec.ofInt_add, BitVec.ofInt_toInt]

/-- The word LUI writes, as a number (R420). -/
theorem upperImmediate_ofInt (h : Half) : (h ++ 0#16 : Word) = BitVec.ofInt 32 (h.toInt * 65536) := by
  have hlt := h.isLt
  apply BitVec.eq_of_toNat_eq
  rw [BitVec.toNat_append, BitVec.toNat_ofInt, BitVec.toInt_eq_toNat_cond]
  simp only [BitVec.toNat_ofNat, Nat.shiftLeft_eq, Nat.zero_mod, Nat.or_zero]
  split <;> omega

theorem sext32_upperImmediate (h : Half) : sext32 (h ++ 0#16) = BitVec.ofInt 64 (h.toInt * 65536) := by
  have hlo := BitVec.le_toInt h
  have hhi := BitVec.toInt_lt (x := h)
  rw [upperImmediate_ofInt, sext32_ofInt]
  omega

/-! The comparisons write 1 or 0 (R421 to R424). -/

theorem setBool_slt (x y : DWord) : setBool (x.slt y) = if x.toInt < y.toInt then 1#64 else 0#64 :=
  setBool_ite _ _ BitVec.slt_iff_toInt_lt

theorem setBool_ult (x y : DWord) : setBool (x.ult y) = if x.toNat < y.toNat then 1#64 else 0#64 :=
  setBool_ite _ _ BitVec.ult_iff_toNat_lt

/-! The word shifts take the low word, the arithmetic ones after shifting the 64-bit source (R425 to R430, D84). -/

theorem low32_shiftLeft_ofNat (x : DWord) (n : Nat) : low32 x <<< n = BitVec.ofNat 32 (x.toNat % 2 ^ 32 * 2 ^ n) := by
  rw [shiftLeft_ofNat, low32_toNat]

theorem low32_ushiftRight_ofNat (x : DWord) (n : Nat) : low32 x >>> n = BitVec.ofNat 32 (x.toNat % 2 ^ 32 / 2 ^ n) := by
  rw [ushiftRight_ofNat, low32_toNat]

theorem low32_sshiftRight_ofInt (x : DWord) (n : Nat) : low32 (x.sshiftRight n) = BitVec.ofInt 32 (x.toInt / 2 ^ n) := by
  rw [sshiftRight_ofInt, low32_ofInt]

/-! ### How the gated and the trapping instructions end -/

section
variable {i : Instr} {rd : RegIdx} {t : Int} {s : State}

/-- A gated instruction that ends by writing a doubleword. -/
theorem Gated64.of_double {v : State → DWord} {w : DWord} (hl : s.excLatch = false)
    (he : exec i s = with64 (fun u => finishDouble rd (v u) u) s) (hv : v s = w) : Gated64 i s (WroteGpr rd w s) :=
  Gated64.of_exec hl he fun _ ho => Answers.of_double ho hv

theorem overflows_iff {n : Nat} : overflows n t = true ↔ t < -(2 ^ (n - 1)) ∨ 2 ^ (n - 1) - 1 < t := decide_eq_true_iff

theorem overflows_of_fits {n : Nat} (h : -(2 ^ (n - 1)) ≤ t ∧ t ≤ 2 ^ (n - 1) - 1) : ¬overflows n t = true := by
  rw [overflows_iff, not_or, not_lt, not_lt]
  exact h

/-- A word result that fits is the same number sign-extended to 64 bits (R400(c), R400(e)). -/
theorem AddsOrOverflows.of_word (hl : s.excLatch = false) (he : exec i s = finishTrappingWord rd t s) :
    AddsOrOverflows i 32 rd t s where
  left h := Raises.of_exec hl (he.trans (if_pos (overflows_iff.mpr h)))
  right h := Answers.of_word (he.trans (if_neg (overflows_of_fits h))) (sext32_ofInt t h)

theorem AddsOrOverflows.of_double (hl : s.excLatch = false) (he : exec i s = finishTrappingDouble rd t s) :
    AddsOrOverflows i 64 rd t s where
  left h := Raises.of_exec hl (he.trans (if_pos (overflows_iff.mpr h)))
  right h := Answers.of_double (he.trans (if_neg (overflows_of_fits h))) rfl

end

/-! ### The statements -/

/-- Settles O23: each ends by writing one register, with its result as arithmetic. -/
theorem addAndLogic : Obligations.AddAndLogic := by
  intro rd rs rt imm s
  refine ⟨?addu, ?subu, ?addiu, ?and, ?or, ?xor, ?nor, ?andi, ?ori, ?xori, ?lui⟩
  case addu => exact Answers.of_word rfl (congrArg sext32 (add_ofInt _ _))
  case subu => exact Answers.of_word rfl (congrArg sext32 (sub_ofInt _ _))
  case addiu => exact Answers.of_word rfl (congrArg sext32 (low32_add_sext16 _ _))
  case and | or | xor => exact Answers.of_double rfl rfl
  case nor => exact Answers.of_double rfl BitVec.not_or
  case andi | ori | xori => exact Answers.of_double rfl (congrArg _ (zext16_ofNat imm))
  case lui => exact Answers.of_word rfl (sext32_upperImmediate imm)

/-- Settles O24: the comparisons write a doubleword, the shifts a sign-extended word. -/
theorem setAndShift : Obligations.SetAndShift := by
  intro rd rs rt sa imm s
  refine ⟨?slt, ?sltu, ?slti, ?sltiu, ?sll, ?srl, ?sra, ?sllv, ?srlv, ?srav⟩
  case slt => exact Answers.of_double rfl (setBool_slt _ _)
  case sltu => exact Answers.of_double rfl (setBool_ult _ _)
  case slti => exact Answers.of_double rfl (by rw [setBool_slt, toInt_sext16])
  case sltiu => exact Answers.of_double rfl (by rw [setBool_ult, sext16_ofInt])
  case sll | sllv => exact Answers.of_word rfl (congrArg sext32 (low32_shiftLeft_ofNat _ _))
  case srl | srlv => exact Answers.of_word rfl (congrArg sext32 (low32_ushiftRight_ofNat _ _))
  case sra | srav => exact Answers.of_word rfl (congrArg sext32 (low32_sshiftRight_ofInt _ _))

/-- Settles O25: each checks for 64-bit operations and ends by writing a doubleword. -/
theorem doublewordOps : Obligations.DoublewordOps := by
  intro rd rs rt sa imm s hl
  refine ⟨?daddu, ?dsubu, ?daddiu, ?dsll, ?dsrl, ?dsra, ?dsll32, ?dsrl32, ?dsra32, ?dsllv, ?dsrlv, ?dsrav⟩
  case daddu => exact Gated64.of_double hl rfl (add_ofInt _ _)
  case dsubu => exact Gated64.of_double hl rfl (sub_ofInt _ _)
  case daddiu => exact Gated64.of_double hl rfl (add_sext16 _ _)
  case dsll | dsll32 | dsllv => exact Gated64.of_double hl rfl (shiftLeft_ofNat _ _)
  case dsrl | dsrl32 | dsrlv => exact Gated64.of_double hl rfl (ushiftRight_ofNat _ _)
  case dsra | dsra32 | dsrav => exact Gated64.of_double hl rfl (sshiftRight_ofInt _ _)

/-- Settles O26: the exact result fits or overflows, for the doubleword forms after the check for 64-bit operations. -/
theorem trappingAdds : Obligations.TrappingAdds := by
  intro rd rs rt imm s hl
  refine ⟨?add, ?sub, ?addi, ?dadd, ?dsub, ?daddi, ?denied⟩
  case add | sub | addi => exact AddsOrOverflows.of_word hl rfl
  case dadd | dsub | daddi => exact fun ho => AddsOrOverflows.of_double hl (with64_open _ ho)
  case denied =>
    exact fun hd => ⟨Raises.of_exec hl (with64_denied _ hd), Raises.of_exec hl (with64_denied _ hd),
      Raises.of_exec hl (with64_denied _ hd)⟩

end Sys2Proof.Machine
end

section
/-! SUPPORT. Multiply, divide and the HI/LO moves (`41_muldiv.md` R450 to R462): the halves of a product and the results of the divides
as arithmetic, and how an instruction that writes both registers ends. -/

namespace Sys2Proof.Machine

/-! ### The halves of a product -/

/-- Reducing modulo `2 ^ n` loses no bit below `n`. -/
theorem emod_ediv_emod_two_pow {n lo len : Nat} (h : lo + len ≤ n) (t : Int) :
    t % 2 ^ n / 2 ^ lo % 2 ^ len = t / 2 ^ lo % 2 ^ len := by
  have hn : (2 : Int) ^ n = 2 ^ lo * (2 ^ len * 2 ^ (n - lo - len)) := by
    rw [← pow_add, ← pow_add, show lo + (len + (n - lo - len)) = n by omega]
  rw [Int.emod_def t, hn, mul_assoc, Int.sub_mul_ediv_left _ _ (by positivity), mul_assoc, Int.sub_mul_emod_self_left]

theorem bitField_ofInt {n lo len : Nat} (h : lo + len ≤ n) (t : Int) :
    bitField (BitVec.ofInt n t) lo len = BitVec.ofInt len (t / 2 ^ lo) := by
  apply BitVec.eq_of_toNat_eq
  rw [toNat_bitField, BitVec.toNat_ofInt, BitVec.toNat_ofInt, ← Int.toNat_natCast (_ % 2 ^ len)]
  congr 1
  push_cast
  rw [Int.toNat_of_nonneg (Int.emod_nonneg _ (by positivity)), emod_ediv_emod_two_pow h]

theorem bitField_ofNat {n lo len : Nat} (h : lo + len ≤ n) (t : Nat) :
    bitField (BitVec.ofNat n t) lo len = BitVec.ofNat len (t / 2 ^ lo) := by
  rw [← BitVec.ofInt_natCast, ← BitVec.ofInt_natCast, bitField_ofInt h]
  push_cast
  rfl

/-- A product that fits in 64 bits has the whole quotient in its sign-extended high word (R450(b)). -/
theorem productWords_ofInt {t : Int} (h : -(2 ^ 63) ≤ t ∧ t ≤ 2 ^ 63 - 1) :
    productWords (BitVec.ofInt 64 t) = (BitVec.ofInt 64 (t / 2 ^ 32), sext32 (BitVec.ofInt 32 t)) := by
  rw [productWords, bitField_ofInt (by decide), bitField_ofInt (by decide), pow_zero, Int.ediv_one, sext32_ofInt]
  omega

theorem productWords_ofNat (t : Nat) :
    productWords (BitVec.ofNat 64 t) = (sext32 (BitVec.ofNat 32 (t / 2 ^ 32)), sext32 (BitVec.ofNat 32 t)) := by
  rw [productWords, bitField_ofNat (by decide), bitField_ofNat (by decide), pow_zero, Nat.div_one]

theorem productDoubles_ofInt (t : Int) :
    productDoubles (BitVec.ofInt 128 t) = (BitVec.ofInt 64 (t / 2 ^ 64), BitVec.ofInt 64 t) := by
  rw [productDoubles, bitField_ofInt (by decide), bitField_ofInt (by decide), pow_zero, Int.ediv_one]

theorem productDoubles_ofNat (t : Nat) :
    productDoubles (BitVec.ofNat 128 t) = (BitVec.ofNat 64 (t / 2 ^ 64), BitVec.ofNat 64 t) := by
  rw [productDoubles, bitField_ofNat (by decide), bitField_ofNat (by decide), pow_zero, Nat.div_one]

/-- The signed product of two words fits in 64 bits. -/
theorem toInt_mul_toInt_fits (a b : Word) : -(2 ^ 63) ≤ a.toInt * b.toInt ∧ a.toInt * b.toInt ≤ 2 ^ 63 - 1 := by
  have hlo := BitVec.le_toInt_mul_toInt (x := a) (y := b)
  have hhi := BitVec.toInt_mul_toInt_le (x := a) (y := b)
  omega

/-! ### The divides, by whether the divisor is zero (D85) -/

section
variable {a b : Word} {x y : DWord}

theorem divideWord_zero (h : b.toInt = 0) :
    divideWord a b = (sext32 a, if a.toInt < 0 then 1#64 else 0xFFFFFFFFFFFFFFFF#64) := if_pos h

theorem divideWord_nonzero (h : b.toInt ≠ 0) :
    divideWord a b = (sext32 (BitVec.ofInt 32 (a.toInt.tmod b.toInt)), sext32 (BitVec.ofInt 32 (a.toInt.tdiv b.toInt))) := if_neg h

theorem divideWordUnsigned_zero (h : y.toNat % 2 ^ 32 = 0) :
    divideWordUnsigned a (low32 y) = (sext32 a, 0xFFFFFFFFFFFFFFFF#64) := if_pos ((low32_toNat y).trans h)

theorem divideWordUnsigned_nonzero (h : y.toNat % 2 ^ 32 ≠ 0) :
    divideWordUnsigned (low32 x) (low32 y)
      = (sext32 (BitVec.ofNat 32 (x.toNat % 2 ^ 32 % (y.toNat % 2 ^ 32))),
        sext32 (BitVec.ofNat 32 (x.toNat % 2 ^ 32 / (y.toNat % 2 ^ 32)))) := by
  rw [divideWordUnsigned, low32_toNat, low32_toNat, if_neg h]

theorem divideDouble_zero (h : y.toInt = 0) :
    divideDouble x y = (x, if x.toInt < 0 then 1#64 else 0xFFFFFFFFFFFFFFFF#64) := if_pos h

theorem divideDouble_nonzero (h : y.toInt ≠ 0) :
    divideDouble x y = (BitVec.ofInt 64 (x.toInt.tmod y.toInt), BitVec.ofInt 64 (x.toInt.tdiv y.toInt)) := if_neg h

theorem divideDoubleUnsigned_zero (h : y.toNat = 0) : divideDoubleUnsigned x y = (x, 0xFFFFFFFFFFFFFFFF#64) := if_pos h

theorem divideDoubleUnsigned_nonzero (h : y.toNat ≠ 0) :
    divideDoubleUnsigned x y = (BitVec.ofNat 64 (x.toNat % y.toNat), BitVec.ofNat 64 (x.toNat / y.toNat)) := if_neg h

end

/-! ### How an instruction that writes HI and LO ends -/

section
variable {i : Instr} {h l : DWord} {s : State}

theorem Answers.of_pair {r : DWord × DWord} (he : exec i s = finishPair r s) (hr : r = (h, l)) : Answers i s (WroteHiLo h l s) :=
  Answers.of_hiLo he (congrArg Prod.fst hr) (congrArg Prod.snd hr)

theorem Gated64.of_pair {r : State → DWord × DWord} (hl : s.excLatch = false)
    (he : exec i s = with64 (fun u => finishPair (r u) u) s) (hr : r s = (h, l)) : Gated64 i s (WroteHiLo h l s) :=
  Gated64.of_exec hl he fun _ ho => Answers.of_pair ho hr

end

/-! ### The statement -/

/-- Settles O27: each ends by writing HI and LO, or for MFHI and MFLO one register, with its result as arithmetic; the doubleword forms
after the check for 64-bit operations. -/
theorem multiplyDivide : Obligations.MultiplyDivide := by
  intro rd rs rt s hl
  refine ⟨?mult, ?multu, ?div, ?divByZero, ?divu, ?divuByZero, ?dmult, ?dmultu, ?ddiv, ?ddivByZero, ?ddivu, ?ddivuByZero,
    ?mfhi, ?mflo, ?mthi, ?mtlo⟩
  case mult => exact Answers.of_pair rfl (productWords_ofInt (toInt_mul_toInt_fits _ _))
  case multu => exact Answers.of_pair rfl (by rw [low32_toNat, low32_toNat, productWords_ofNat])
  case div => exact fun h => Answers.of_pair rfl (divideWord_nonzero h)
  case divByZero => exact fun h => Answers.of_pair rfl (divideWord_zero h)
  case divu => exact fun h => Answers.of_pair rfl (divideWordUnsigned_nonzero h)
  case divuByZero => exact fun h => Answers.of_pair rfl (divideWordUnsigned_zero h)
  case dmult => exact Gated64.of_pair hl rfl (productDoubles_ofInt _)
  case dmultu => exact Gated64.of_pair hl rfl (productDoubles_ofNat _)
  case ddiv => exact fun h => Gated64.of_pair hl rfl (divideDouble_nonzero h)
  case ddivByZero => exact fun h => Gated64.of_pair hl rfl (divideDouble_zero h)
  case ddivu => exact fun h => Gated64.of_pair hl rfl (divideDoubleUnsigned_nonzero h)
  case ddivuByZero => exact fun h => Gated64.of_pair hl rfl (divideDoubleUnsigned_zero h)
  case mfhi | mflo => exact Answers.of_double rfl rfl
  case mthi | mtlo => exact Answers.of_hiLo rfl rfl rfl

end Sys2Proof.Machine
end

section
/-! SUPPORT. The ends of a CPU step: the boundary before the fetch, where a pending branch is applied and an interrupt taken, and the
end of a run-loop iteration, which leaves the registers of the CPU alone (`42_control.md` R500 to R504; `60_exceptions.md` R907). -/

namespace Sys2Proof.Machine

/-! ### The pending branch (R501) -/

theorem resolveBranch_pc (s : State) :
    s.resolveBranch.pc = if s.branchState = .performPending then s.branchTarget else s.pc := by
  unfold State.resolveBranch
  cases s.branchState <;> rfl

theorem resolveBranch_pending {s : State} (h : s.branchState = .performPending) :
    s.resolveBranch = { s with pc := s.branchTarget, branchState := .noBranch } := by
  unfold State.resolveBranch
  rw [h]

theorem resolveBranch_idem (s : State) : s.resolveBranch.resolveBranch = s.resolveBranch := by
  cases h : s.branchState with
  | performPending => rw [resolveBranch_pending h]; rfl
  | _ => simp only [State.resolveBranch, h]

/-- A CPU step applies a pending branch first, so that it is the same to have applied it. -/
theorem cpuStep_resolveBranch (s : State) : cpuStep s.resolveBranch = cpuStep s := by
  unfold cpuStep State.atBoundary
  rw [resolveBranch_mode, resolveBranch_idem]

theorem runLoopStep_resolveBranch (s : State) : runLoopStep s.resolveBranch = runLoopStep s := by
  unfold runLoopStep
  rw [cpuStep_resolveBranch]

theorem resolveBranch_budgetReached (s : State) : s.resolveBranch.budgetReached = s.budgetReached := by
  simp [State.budgetReached, State.cpuBudget]

/-- A step with no advance under way and no call of the host waiting is a step of the run loop (R907). -/
theorem step_loopStep {s : State} (ha : s.advancing = false) (hc : s.inputs = []) : step s = loopStep s := by
  unfold step
  rw [if_neg (by simp [ha]), hc]

/-- Inside an iteration whose budget is not reached, a step of the run loop applies a pending branch first too (R501, R907). -/
theorem loopStep_resolveBranch {s : State} (hb : s.runCycles.toNat < s.cpuBudget) : loopStep s.resolveBranch = loopStep s := by
  have hn : ¬s.budgetReached = true := (budgetReached_iff s).not.mpr (Nat.not_le.mpr hb)
  rw [loopStep, loopStep, resolveBranch_initialised, resolveBranch_stop, resolveBranch_runCycles, resolveBranch_budgetReached,
    runLoopStep_resolveBranch, if_neg hn, if_neg hn]

/-- Settles O13: applying the branch is the first thing of the step, and applying it again changes nothing. -/
theorem pendingBranch : Obligations.PendingBranch := by
  intro s hp
  rw [← resolveBranch_pending hp]
  refine ⟨(cpuStep_resolveBranch s).symm, fun ha hc hb => ?_⟩
  have hra : s.resolveBranch.advancing = false := (resolveBranch_advancing ..).trans ha
  have hrc : s.resolveBranch.inputs = [] := (resolveBranch_inputs ..).trans hc
  rw [step_loopStep ha hc, step_loopStep hra hrc, loopStep_resolveBranch hb]

/-! ### The interrupt boundary and the instruction (R502 to R504) -/

/-- A step of a state that runs is the body of a CPU step, then the end of the step and of the iteration (R500, R907). -/
theorem step_of_stepBody {s u : State} (hr : s.Running) (h : stepBody s.atBoundary = .next u) :
    step s = .next (afterStep u.endStep) := by
  rw [step_running hr, runLoopStep, cpuStep_eq hr.mode, h, onNext_next]

/-- Settles O12: the boundary state's latch is clear and its one cycle charged, and the interrupt is taken there before the fetch. -/
theorem interruptAtBoundary : Obligations.InterruptAtBoundary := by
  intro s hr hi
  have htaken := takeException_taken .int s.atBoundary rfl
  exact ⟨_, htaken, htaken.cycles, step_of_stepBody hr (if_pos hi), resolveBranch_pc s⟩

/-- With no interrupt pending, the body of a step executes the word that the fetch answers (R503, R504). -/
theorem stepBody_fetched {s u : State} {w : Word} (hi : s.interruptPending = false) (hf : fetchWord s.pc s = .ok w u) :
    stepBody s = executeWord w u := by
  rw [stepBody, if_neg (by simp [hi]), fetchAndExecute, hf, finish_ok]

/-! ### The end of an iteration (R907) -/

/-- The state with everything blanked that the end of an iteration may change: what a data access may, coprocessor 0, whose IP7 the
timer sets, and the run loop's own counters. -/
def State.registers (s : State) : State :=
  { s.processor with cop0 := Cop0.reset, advancing := false, runCycles := 0, cpuCarry := 0, rspCarry := 0 }

theorem registers_of_processor {s t : State} (h : t.processor = s.processor) : t.registers = s.registers := by
  unfold State.registers
  rw [h]

section
variable (s : State)

theorem aiFire_processor : s.aiFire.processor = s.processor := by
  unfold State.aiFire
  extract_lets copied signalled
  have hc : copied.processor = s.processor := by
    unfold copied
    split <;> rfl
  have hs : signalled.processor = s.processor := by
    unfold signalled
    split <;> exact hc
  split
  · exact (aiStart_processor _ _ _).trans hs
  · exact hs

theorem piFire_processor : s.piFire.processor = s.processor := by
  unfold State.piFire
  extract_lets copied _ idle signalled
  have hc : copied.processor = s.processor := by
    unfold copied
    split
    · exact piCopyBytes_processor _ _ _ _ _ _
    · rfl
  have hs : signalled.processor = s.processor := by
    unfold signalled idle
    split <;> exact hc
  split
  · exact (piStart_processor _ _ _).trans hs
  · exact hs

theorem siFire_processor : s.siFire.processor = s.processor := by
  unfold State.siFire
  extract_lets copied _ signalled
  have hs : signalled.processor = s.processor := by
    show copied.processor = s.processor
    unfold copied
    split
    · exact siCopy_processor _ _
    · rfl
  split
  · exact (siStart_processor _ _ _).trans hs
  · exact hs

theorem viFire_processor : s.viFire.processor = s.processor := by
  unfold State.viFire
  extract_lets wrap _ counted told signalled
  have ht : told.processor = s.processor := by
    unfold told
    split <;> rfl
  show signalled.processor = s.processor
  unfold signalled
  split <;> exact ht

/-- The callback of every kind of event (R904); only the timer's touches coprocessor 0. -/
theorem onFire_registers (k : EventKind) : (s.onFire k).registers = s.registers := by
  cases k with
  | compareInterrupt => rfl
  | viHalfline => exact registers_of_processor (viFire_processor s)
  | aiDma => exact registers_of_processor (aiFire_processor s)
  | piDma => exact registers_of_processor (piFire_processor s)
  | siDma => exact registers_of_processor (siFire_processor s)
  | collab n => exact registers_of_processor (collabCall_processor s _ _)

theorem fireDue_registers (n : Nat) : (State.fireDue n s).registers = s.registers := by
  induction n generalizing s with
  | zero => rfl
  | succ n ih =>
    unfold State.fireDue
    split
    · split
      · exact (ih _).trans (onFire_registers _ _)
      · rfl
    · rfl

theorem advanceEvents_registers (n : Int) : (s.advanceEvents n).registers = s.registers :=
  fireDue_registers { s with sched := s.sched.elapse n } _

theorem runRsp_registers (n : Nat) : (runRsp n s).registers = s.registers := by
  unfold runRsp
  split
  · show (s.collabCall 0 _).2.registers = s.registers
    exact registers_of_processor (collabCall_processor s 0 _)
  · rfl

theorem endIteration_registers : (endIteration s).registers = s.registers :=
  (advanceEvents_registers (runRsp _ s) _).trans (runRsp_registers s _)

end

/-- A step that finds the budget reached ends the iteration (R907). -/
theorem step_budgetReached {s : State} (ha : s.advancing = false) (hc : s.inputs = []) (hp : s.initialised = true)
    (hg : s.stop = false ∨ s.runCycles ≠ 0#64) (hb : s.cpuBudget ≤ s.runCycles.toNat) : step s = .next (endIteration s) := by
  have going : ¬(s.stop && decide (s.runCycles = 0)) = true := by
    rcases hg with g | g <;> simp [g]
  rw [step_loopStep ha hc, loopStep, if_neg (by simp [hp]), if_neg going, if_pos ((budgetReached_iff s).mpr hb)]

/-- Settles O9: a fetched word goes through decode and exec; the end of an iteration keeps `State.registers`, which holds
the registers named. -/
theorem stepRunsDecoded : Obligations.StepRunsDecoded := by
  refine ⟨fun s u w i hr hi hf hd => ?_, fun s ha hc hp hg hb => ?_⟩
  · rw [step_running hr, runLoopStep, cpuStep_eq hr.mode, stepBody_fetched hi hf, executeWord_ok hd]
    cases exec i u <;> rfl
  · have keep {α : Type} (f : State → α) : f (endIteration s).registers = f s.registers := congrArg f (endIteration_registers s)
    exact ⟨_, step_budgetReached ha hc hp hg hb, keep State.pc, keep State.branchState, fun r => keep (State.x · r),
      ⟨keep State.hi, keep State.lo⟩, ⟨keep State.fpr, keep State.fcsr⟩, keep State.tlb, keep State.count33, rfl, rfl⟩

end Sys2Proof.Machine
end

section
/-! SUPPORT. Jumps, branches and branch-likely instructions (`42_control.md` R505 to R530): their targets as arithmetic and their
conditions as comparisons; what they register is said in `Answers.of_branch` and `Answers.of_branchLikely`. -/

namespace Sys2Proof.Machine

/-! ### Targets (R310) -/

/-- The 256 MiB region of the delay slot, and the index in it times four. -/
theorem jumpTargetOf_eq (index : BitVec 26) (s : State) :
    jumpTargetOf index s = BitVec.ofNat 64 ((s.pc + 4#64).toNat / 2 ^ 28 * 2 ^ 28 + index.toNat * 4) := by
  have region : ((s.pc + 4#64) &&& 0xFFFFFFFFF0000000#64).toNat = (s.pc + 4#64).toNat % 2 ^ 64 / 2 ^ 28 * 2 ^ 28 :=
    toNat_and_window (s.pc + 4#64) (l := 28) (h := 64) (by decide) (by decide)
  have hindex := index.isLt
  have offset : (index.setWidth 64 <<< 2).toNat = index.toNat * 4 := by
    simp [Nat.shiftLeft_eq]
    omega
  have hlt := (s.pc + 4#64).isLt
  apply BitVec.eq_of_toNat_eq
  rw [jumpTargetOf, BitVec.toNat_or, region, offset, Nat.mod_eq_of_lt hlt, Nat.mul_comm _ (2 ^ 28),
    ← Nat.two_pow_add_eq_or_of_lt (by omega), BitVec.toNat_ofNat]
  omega

/-- Four times the signed offset from the delay slot. -/
theorem branchTargetOf_eq (offset : Half) (s : State) :
    branchTargetOf offset s = s.pc + 4#64 + BitVec.ofInt 64 (offset.toInt * 4) := by
  have hlt := offset.isLt
  have h : (offset ++ 0#2).toInt = offset.toInt * 4 := by
    rw [BitVec.toInt_eq_toNat_cond, BitVec.toInt_eq_toNat_cond, BitVec.toNat_append]
    simp only [BitVec.toNat_ofNat, Nat.shiftLeft_eq, Nat.zero_mod, Nat.or_zero]
    split <;> split <;> omega
  rw [branchTargetOf, branchOffset, BitVec.signExtend, h]

/-! ### Conditions -/

theorem not_equal (rs rt : RegIdx) (s : State) : (!s.equal rs rt) = decide (s.x rs ≠ s.x rt) := decide_not.symm

theorem not_positive (rs : RegIdx) (s : State) : (!s.positive rs) = decide ((s.x rs).toInt ≤ 0) :=
  decide_not.symm.trans (decide_eq_decide.mpr not_lt)

theorem not_negative (rs : RegIdx) (s : State) : (!s.negative rs) = decide (0 ≤ (s.x rs).toInt) :=
  decide_not.symm.trans (decide_eq_decide.mpr not_lt)

/-! ### The statements -/

/-- Settles O28: each jump registers a taken branch, J and JR after a link in x[0]; the target is that of the state before the
link. -/
theorem jumps : Obligations.Jumps := by
  intro rd rs index s
  refine ⟨?j, ?jal, ?jr, ?jalr⟩
  case j | jal => exact Answers.of_branch rfl rfl (jumpTargetOf_eq index s)
  case jr | jalr => exact Answers.of_branch rfl rfl rfl

/-- Settles O29: each branch registers its condition and target, both of the state before the link; one that does not
link links in x[0]. -/
theorem branches : Obligations.Branches := by
  intro rs rt offset s
  have target := branchTargetOf_eq offset s
  refine ⟨?beq, ?bne, ?blez, ?bgtz, ?bltz, ?bgez, ?bltzal, ?bgezal⟩
  case beq | bgtz | bltz | bltzal => exact Answers.of_branch rfl rfl target
  case bne => exact Answers.of_branch rfl (not_equal rs rt s) target
  case blez => exact Answers.of_branch rfl (not_positive rs s) target
  case bgez | bgezal => exact Answers.of_branch rfl (not_negative rs s) target

/-- Settles O30: the same conditions and targets as O29, registered as a likely branch. -/
theorem likelyBranches : Obligations.LikelyBranches := by
  intro rs rt offset s
  have target := branchTargetOf_eq offset s
  refine ⟨?beql, ?bnel, ?blezl, ?bgtzl, ?bltzl, ?bgezl, ?bltzall, ?bgezall⟩
  case beql | bgtzl | bltzl | bltzall => exact Answers.of_branchLikely rfl rfl target
  case bnel => exact Answers.of_branchLikely rfl (not_equal rs rt s) target
  case blezl => exact Answers.of_branchLikely rfl (not_positive rs s) target
  case bgezl | bgezall => exact Answers.of_branchLikely rfl (not_negative rs s) target

end Sys2Proof.Machine
end

section
/-! SUPPORT. How the loads and stores end (`43_loadstore.md` R550 to R582): the access of `Laws/Access.lean`, then a register or nothing
written. -/

namespace Sys2Proof.Machine

variable {i : Instr} {rt base : RegIdx} {offset : Half} {n : Nat} {pa : Word} {cacheable : Bool} {bs : List (Option Byte)}
  {s m t : State}

/-! ### After the access -/

/-- An access changes three fields; of every other it says by `rfl` that it is unchanged. -/
theorem SameBut.exists_eq (h : SameBut s m) : ∃ mem dc cy, m = { s with mem := mem, dcache := dc, stepCycles := cy } := ⟨_, _, _, h⟩

theorem SameBut.completed {c : Nat} (h : SameBut s m) (hc : m.stepCycles = s.stepCycles + c) (hk : Completed 0 m t) :
    Completed c s t := by
  obtain ⟨mem, dc, cy, rfl⟩ := h.exists_eq
  exact ⟨hk.latch, hk.cycles.trans hc, hk.target, hk.outside, hk.takenSlot, hk.notTakenSlot⟩

theorem LoadMemory.of_same (h : LoadMemory cacheable pa s m) (hs : SameMemory m t) : LoadMemory cacheable pa s t := by
  obtain ⟨hmem, hd, hi⟩ := hs
  have hl : t.dLine pa = m.dLine pa := by rw [State.dLine, hd, State.dLine]
  exact ⟨hi.trans h.icache, fun a => (hmem a).trans (h.memory a), fun hc => hd.trans (h.uncachedLines hc),
    fun k hk => by rw [hd]; exact h.otherLines k hk, fun hh => hd.trans (h.lineHit hh),
    fun hc hh => by rw [hl]; exact h.lineFilled hc hh⟩

theorem StoreMemory.of_same (h : StoreMemory cacheable pa bs s m) (hs : SameMemory m t) : StoreMemory cacheable pa bs s t := by
  obtain ⟨hmem, hd, hi⟩ := hs
  have hl : t.dLine pa = m.dLine pa := by rw [State.dLine, hd, State.dLine]
  exact ⟨hi.trans h.icache, fun hc hk q => (hmem q).trans (h.uncachedMemory hc hk q),
    fun hc hk q => (hmem q).trans (h.uncachedIgnored hc hk q), fun hc q => (hmem q).trans (h.cachedMemory hc q),
    fun hc => hd.trans (h.uncachedLines hc), fun k hk => by rw [hd]; exact h.otherLines k hk,
    fun hc => by rw [hl]; exact h.line hc⟩

/-- A load-linked that ends by writing a general register. -/
theorem finishDouble_loadedLinked (v : DWord) (hb : SameBut s m) (hm : LoadMemory cacheable pa s m)
    (hc : m.stepCycles = s.stepCycles + s.accessCycles cacheable pa n) :
    ∃ t, finishDouble rt v (m.reserve pa) = .next t ∧ LoadedLinked rt v cacheable pa n s t := by
  obtain ⟨t, ht, hw⟩ := finishDouble_answers rt v (m.reserve pa)
  obtain ⟨mem, dc, cy, rfl⟩ := hb.exists_eq
  obtain ⟨hcop0, hll, htlb⟩ := hw.system
  refine ⟨t, ht, hw.gpr, hw.hiLo, hll, ?_, ?_, htlb, hw.rest.fpu, hm.of_same hw.rest.memory, ?_, ?_⟩
  · rw [hcop0]; rfl
  · rw [hcop0]; exact Nat.shiftRight_eq_div_pow _ 4
  · exact hw.rest.platform.trans (by constructor <;> rfl)
  · exact SameBut.completed (m := { s with mem := mem, dcache := dc, stepCycles := cy }) rfl hc
      (hw.rest.completed.of_eq rfl rfl rfl rfl rfl)

/-- A store that ends by writing no register. -/
theorem done_stored (hb : SameBut s m) (hm : StoreMemory cacheable pa bs s m)
    (hc : m.stepCycles = s.stepCycles + s.accessCycles cacheable pa bs.length) :
    ∃ t, m.done = .next t ∧ Stored cacheable pa bs s t := by
  obtain ⟨t, ht, hw⟩ := done_answers m
  have hk := hb.completed hc hw.rest.completed
  have hp := hw.rest.platform.trans hb.platform
  obtain ⟨mem, dc, cy, rfl⟩ := hb.exists_eq
  exact ⟨t, ht, hw.gpr, hw.hiLo, hw.system, hw.rest.fpu, hm.of_same hw.rest.memory, hp, hk⟩

/-- A store that ends by writing 1 to a general register. -/
theorem finishDouble_storedConditional (hb : SameBut s m) (hm : StoreMemory cacheable pa bs s m)
    (hc : m.stepCycles = s.stepCycles + s.accessCycles cacheable pa bs.length) :
    ∃ t, finishDouble rt 1#64 m = .next t ∧ StoredConditional rt cacheable pa bs s t := by
  obtain ⟨t, ht, hw⟩ := finishDouble_answers rt 1#64 m
  have hk := hb.completed hc hw.rest.completed
  have hp := hw.rest.platform.trans hb.platform
  obtain ⟨mem, dc, cy, rfl⟩ := hb.exists_eq
  exact ⟨t, ht, hw.gpr, hw.hiLo, hw.system, hw.rest.fpu, hm.of_same hw.rest.memory, hp, hk⟩

/-- An aligned access that is allowed goes where its translation says (R550). -/
theorem locate_ok {kind : AccessKind} {a : DWord} (ha : s.accessible) (hz : a.toNat % n = 0)
    (ht : translate a kind s = .ok (pa, cacheable) s) : locate kind a n s = .ok (pa, cacheable) s := by
  rw [locate, accessAllowed_ok ha, bind_ok, checkAligned, if_pos hz, bind_ok, ht]

/-! ### The shared forms of loads and stores, for a ready access -/

theorem Answers.of_loadWith {ext : DWord → DWord} {v : DWord} (he : exec i s = loadWith ext n rt base offset s)
    (hn : n = 1 ∨ n = 2 ∨ n = 4 ∨ n = 8) (hv : ext (s.seenValue cacheable pa n) = v)
    (hr : Ready .load (effectiveAddress base offset s) n pa cacheable s) : Answers i s (Loaded rt v cacheable pa n s) := by
  obtain ⟨m, hok, hb, -, hm, hc⟩ := memRead_ready hr hn
  rw [Answers, he, loadWith, hok, finish_ok, hv]
  exact finishDouble_loaded hb hm hc

theorem Answers.of_loadMerge {merge : Nat → DWord → DWord → DWord} (he : exec i s = loadMerge merge n rt base offset s)
    (hn : n = 1 ∨ n = 2 ∨ n = 4 ∨ n = 8) (hr : Ready .load (alignDown (effectiveAddress base offset s) n) n pa cacheable s) :
    Answers i s (Loaded rt (merge ((effectiveAddress base offset s).toNat % n) (s.seenValue cacheable pa n) (s.x rt))
      cacheable pa n s) := by
  obtain ⟨m, hok, hb, -, hm, hc⟩ := memRead_ready hr hn
  have hx : m.x rt = s.x rt := by rw [hb]; rfl
  rw [Answers, he, loadMerge, hok, Res.withAddress_ok, finish_ok, hx]
  exact finishDouble_loaded hb hm hc

theorem Answers.of_loadLinked {ext : DWord → DWord} {v : DWord} (he : exec i s = loadLinked ext n rt base offset s)
    (hn : n = 1 ∨ n = 2 ∨ n = 4 ∨ n = 8) (hv : ext (s.seenValue cacheable pa n) = v)
    (hr : Ready .load (effectiveAddress base offset s) n pa cacheable s) : Answers i s (LoadedLinked rt v cacheable pa n s) := by
  obtain ⟨m, hok, hb, -, hm, hc⟩ := memReadPa_ready hr hn
  rw [Answers, he, loadLinked, hok, finish_ok, hv]
  exact finishDouble_loadedLinked v hb hm hc

theorem length_storeBytes (n : Nat) (v : DWord) : (storeBytes n v).length = n := by simp [storeBytes]

theorem Answers.of_storeWith (he : exec i s = storeWith n rt base offset s)
    (hr : Ready .store (effectiveAddress base offset s) n pa cacheable s) :
    Answers i s (Stored cacheable pa (storeBytes n (s.x rt)) s) := by
  obtain ⟨m, hok, hb, -, hm, hc⟩ := memWrite_ready hr (s.x rt)
  rw [Answers, he, storeWith, hok, finish_ok]
  rw [wholeBytes_eq] at hm
  exact done_stored hb hm (by rwa [length_storeBytes])

theorem length_maskedBytes (n : Nat) (v k : DWord) : (maskedBytes n v k).length = n := by
  simp [maskedBytes, length_bytesOf]

/-- An unaligned store writes the bytes that its mask selects. -/
theorem Answers.of_storeMasked {place : Nat → DWord → DWord × DWord} {v k : DWord}
    (he : exec i s = storeMasked place n rt base offset s)
    (hp : place ((effectiveAddress base offset s).toNat % n) (s.x rt) = (v, k)) (hbs : maskedBytes n v k = bs)
    (hr : Ready .store (alignDown (effectiveAddress base offset s) n) n pa cacheable s) :
    Answers i s (Stored cacheable pa bs s) := by
  have hl : bs.length = n := hbs ▸ length_maskedBytes n v k
  obtain ⟨m, hok, hb, -, hm, hc⟩ := storeAt_ready hr false bs hl
  rw [Answers, he, storeMasked, hp, memWriteMasked, locate_ready hr, bind_ok, hbs, hok, Res.withAddress_ok, finish_ok]
  exact done_stored hb hm (by rwa [hl])

/-- A store-conditional with LLbit set stores and writes 1 (R580). -/
theorem Answers.of_storeConditional_set (he : exec i s = storeConditional n rt base offset s) (hll : s.llBit = true)
    (hr : Ready .store (effectiveAddress base offset s) n pa cacheable s) :
    Answers i s (StoredConditional rt cacheable pa (storeBytes n (s.x rt)) s) := by
  obtain ⟨m, hok, hb, -, hm, hc⟩ := storeAt_ready hr true (storeBytes n (s.x rt)) (length_storeBytes _ _)
  rw [Answers, he, storeConditional, memWriteConditional, locate_ready hr, bind_ok, if_pos hll, wholeBytes_eq, hok, bind_ok, finish_ok]
  exact finishDouble_storedConditional hb hm (by rwa [length_storeBytes])

/-- A store-conditional with LLbit clear, whose address is aligned and translated, only writes 0 (R580). -/
theorem Answers.of_storeConditional_clear (he : exec i s = storeConditional n rt base offset s) (hll : s.llBit = false)
    (ha : s.accessible) (hz : (effectiveAddress base offset s).toNat % n = 0)
    (ht : translate (effectiveAddress base offset s) .store s = .ok (pa, cacheable) s) : Answers i s (WroteGpr rt 0#64 s) := by
  refine Answers.of_double (he.trans ?_) (show setBool false = 0#64 from rfl)
  rw [storeConditional, memWriteConditional, locate_ok ha hz ht, bind_ok, if_neg (by rw [hll]; exact Bool.false_ne_true), finish_ok]

/-! ### Whole loads and stores -/

/-- Settles O31: each reads its bytes and extends them; the gated operations after the check for 64-bit operations. -/
theorem loads : Obligations.Loads := by
  intro rt base offset pa cacheable s
  refine ⟨?lb, ?lbu, ?lh, ?lhu, ?lw, ?lwu, ?ld⟩
  case lb | lbu | lh | lhu | lw => exact Answers.of_loadWith rfl (by decide) rfl
  case lwu | ld => exact fun ho => Answers.of_loadWith (with64_open _ ho) (by decide) rfl

/-- Settles O34: each stores the low bytes of rt. -/
theorem stores : Obligations.Stores := by
  intro rt base offset pa cacheable s
  refine ⟨?sb, ?sh, ?sw, ?sd⟩
  case sb | sh | sw => exact Answers.of_storeWith rfl
  case sd => exact fun ho => Answers.of_storeWith (with64_open _ ho)

end Sys2Proof.Machine

namespace Sys2Proof

/-- Settles O33: each is a load that sets LLbit and LLAddr; SYNC does nothing. -/
theorem loadLinked : Obligations.LoadLinked := by
  intro rt base offset pa cacheable s
  refine ⟨?ll, ?lld, ?sync⟩
  case ll => exact Machine.Answers.of_loadLinked rfl (by decide) rfl
  case lld => exact fun ho => Machine.Answers.of_loadLinked (Machine.with64_open _ ho) (by decide) rfl
  case sync => exact fun _ => Machine.done_answers s

/-- Settles O36, by LLbit: set, a store that also writes 1; clear, nothing but 0 in rt. -/
theorem storeConditional : Obligations.StoreConditional := by
  intro rt base offset pa cacheable s
  refine ⟨?sc, ?scd, ?scClear, ?scdClear⟩
  case sc => exact Machine.Answers.of_storeConditional_set rfl
  case scd => exact fun hll ho => Machine.Answers.of_storeConditional_set (Machine.with64_open _ ho) hll
  case scClear => exact Machine.Answers.of_storeConditional_clear rfl
  case scdClear => exact fun hll ho => Machine.Answers.of_storeConditional_clear (Machine.with64_open _ ho) hll

end Sys2Proof
end

section
/-! SUPPORT. The unaligned loads and stores byte by byte (`43_loadstore.md` R564 to R571): a byte of a value is a field of 8 bits, the most
significant byte first (R201). -/

namespace Sys2Proof.Machine

/-! ### Bytes of shifted and merged values -/

section
variable {w : Nat} (u old : BitVec w) {lo len k : Nat}

theorem bitField_ushiftRight : bitField (u >>> k) lo len = bitField u (k + lo) len := by
  apply BitVec.eq_of_getLsbD_eq
  intro i hi
  simp [hi, Nat.add_assoc]

theorem bitField_shiftLeft (hk : k ≤ lo) (hw : lo + len ≤ w) : bitField (u <<< k) lo len = bitField u (lo - k) len := by
  apply BitVec.eq_of_getLsbD_eq
  intro i hi
  simp [-BitVec.getLsbD_eq_getElem, hi, show lo + i < w by omega, show ¬ lo + i < k by omega, Nat.sub_add_comm hk]

theorem bitField_setWidth {v : Nat} (hw : lo + len ≤ v) : bitField (u.setWidth v) lo len = bitField u lo len := by
  apply BitVec.eq_of_getLsbD_eq
  intro i hi
  simp [hi, show lo + i < v by omega]

variable {m b j : Nat}

/-- Byte `j` of a value shifted up by `b` bytes with the low `b` bytes of another under it. -/
theorem bitField_mergeLeft (hw : 8 * j + 8 ≤ w) :
    bitField ((u <<< (8 * b)) ||| (old &&& BitVec.ofNat w (2 ^ (8 * b) - 1))) (8 * j) 8
      = if b ≤ j then bitField u (8 * (j - b)) 8 else bitField old (8 * j) 8 := by
  apply BitVec.eq_of_getLsbD_eq
  intro i hi
  by_cases hb : b ≤ j
  · simp [-BitVec.getLsbD_eq_getElem, hb, hi, BitVec.getLsbD_ofNat, Nat.testBit_two_pow_sub_one,
      show 8 * j + i < w by omega, show ¬ 8 * j + i < 8 * b by omega,
      show 8 * j + i - 8 * b = 8 * (j - b) + i by omega]
  · simp [-BitVec.getLsbD_eq_getElem, hb, hi, BitVec.getLsbD_ofNat, Nat.testBit_two_pow_sub_one,
      show 8 * j + i < w by omega, show 8 * j + i < 8 * b by omega]

/-- Byte `j` of a value of `m` bytes shifted down by `b` bytes with the high `b` bytes of another over it. -/
theorem bitField_mergeRight (hm : w = 8 * m) (hj : j < m) :
    bitField ((u >>> (8 * b)) ||| (old &&& ~~~(BitVec.allOnes w >>> (8 * b)))) (8 * j) 8
      = if j + b < m then bitField u (8 * (j + b)) 8 else bitField old (8 * j) 8 := by
  apply BitVec.eq_of_getLsbD_eq
  intro i hi
  by_cases hb : j + b < m
  · simp [-BitVec.getLsbD_eq_getElem, hb, hi, show 8 * j + i < w by omega, show 8 * (j + b) + i < w by omega,
      show 8 * b + (8 * j + i) = 8 * (j + b) + i by omega]
  · simp [-BitVec.getLsbD_eq_getElem, hb, hi, show 8 * j + i < w by omega, show ¬ 8 * b + (8 * j + i) < w by omega,
      BitVec.getLsbD_of_ge u _ (show w ≤ 8 * b + (8 * j + i) by omega)]

variable {c i : Nat} {f : Nat → Byte}

/-- The bytes of a value of `c + 1` bytes merged with the low `b` bytes of another, numbered from the most significant. -/
theorem bytes_mergeLeft (hw : w = 8 * (c + 1)) (hu : ∀ k < c + 1, bitField u (8 * (c - k)) 8 = f k) (hi : i < c + 1) :
    bitField ((u <<< (8 * b)) ||| (old &&& BitVec.ofNat w (2 ^ (8 * b) - 1))) (8 * (c - i)) 8
      = if i + b < c + 1 then f (i + b) else bitField old (8 * (c - i)) 8 := by
  rw [bitField_mergeLeft u old (by omega)]
  refine ite_congr (propext (by omega)) (fun h => ?_) fun _ => rfl
  rw [← hu _ h, Nat.sub_add_eq]

/-- The bytes of a value of `c + 1` bytes merged with all but the low `b + 1` bytes of another. -/
theorem bytes_mergeRight {ones : BitVec w} (ho : ones = BitVec.allOnes w) (hw : w = 8 * (c + 1))
    (hu : ∀ k < c + 1, bitField u (8 * (c - k)) 8 = f k) (hi : i < c + 1) (hb : b < c + 1) :
    bitField ((u >>> (8 * (c - b))) ||| (old &&& ~~~(ones >>> (8 * (c - b))))) (8 * (c - i)) 8
      = if c ≤ i + b then f (i + b - c) else bitField old (8 * (c - i)) 8 := by
  rw [ho, bitField_mergeRight u old hw (by omega)]
  refine ite_congr (propext (by omega)) (fun h => ?_) fun _ => rfl
  rw [← hu _ (by omega)]
  congr 2
  omega

end

theorem ofBytes_concat (bs : List Byte) (b : Byte) : ofBytes (bs ++ [b]) = (ofBytes bs <<< 8) ||| b.setWidth 64 := by
  simp [ofBytes]

/-- Byte `k` of at most 8, counted from the most significant. -/
theorem bitField_ofBytes (bs : List Byte) {k : Nat} (hk : k < bs.length) (h8 : bs.length ≤ 8) :
    bitField (ofBytes bs) (8 * (bs.length - 1 - k)) 8 = bs.getD k 0#8 := by
  induction bs using List.reverseRecOn with
  | nil => simp at hk
  | append_singleton bs b ih =>
    rw [List.length_append, List.length_singleton] at hk h8 ⊢
    rw [ofBytes_concat]
    by_cases hlast : k = bs.length
    · subst hlast
      apply BitVec.eq_of_getLsbD_eq
      intro i hi
      simp [hi, show i < 64 by omega]
    · rw [List.getD_append _ _ _ _ (by omega), ← ih (by omega) (by omega)]
      apply BitVec.eq_of_getLsbD_eq
      intro i hi
      simp [-BitVec.getLsbD_eq_getElem, hi, show 8 * (bs.length - k) + i < 64 by omega, show ¬ 8 * (bs.length - k) + i < 8 by omega,
        show 8 * (bs.length - k) + i - 8 = 8 * (bs.length - 1 - k) + i by omega,
        BitVec.getLsbD_of_ge b _ (show 8 ≤ 8 * (bs.length - k) + i by omega)]

/-- Byte `k` of the value an access sees. -/
theorem bitField_seenValue (s : State) (cacheable : Bool) (pa : Word) {n k : Nat} (hk : k < n) (h8 : n ≤ 8) :
    bitField (s.seenValue cacheable pa n) (8 * (n - 1 - k)) 8 = s.seenByte cacheable pa n k := by
  have hl : (s.seenBytes cacheable pa n).length = n := by simp [State.seenBytes]
  have h := bitField_ofBytes (s.seenBytes cacheable pa n) (k := k) (by rwa [hl]) (by rwa [hl])
  rw [hl] at h
  exact h.trans (getD_map_range hk)

/-! ### Merging loads -/

/-- Settles O32: each merges the bytes seen into the old register, a word of it for LWL and LWR. -/
theorem unalignedLoads : Obligations.UnalignedLoads := by
  intro rt base offset pa cacheable s ea b4 b8
  have h4 : b4 < 4 := Nat.mod_lt _ (by decide)
  have h8 : b8 < 8 := Nat.mod_lt _ (by decide)
  have hdouble : ∀ k < 8, bitField (s.seenValue cacheable pa 8) (8 * (7 - k)) 8 = s.seenByte cacheable pa 8 k :=
    fun k hk => bitField_seenValue s cacheable pa hk (by decide)
  have hword : ∀ k < 4, bitField (low32 (s.seenValue cacheable pa 4)) (8 * (3 - k)) 8 = s.seenByte cacheable pa 4 k :=
    fun k hk => (bitField_setWidth _ (by omega)).trans (bitField_seenValue s cacheable pa hk (by decide))
  have hold : ∀ i : Fin 4, bitField (low32 (s.x rt)) (8 * (3 - i.val)) 8 = bitField (s.x rt) (8 * (3 - i.val)) 8 :=
    fun i => bitField_setWidth _ (by omega)
  refine ⟨?lwl, ?lwr, ?ldl, ?ldr⟩
  case lwl =>
    intro hr
    obtain ⟨t, ht, hl⟩ := Answers.of_loadMerge (i := .lwl rt base offset) rfl (by decide) hr
    exact ⟨t, ht, _, hl, fun i => hold i ▸ bytes_mergeLeft _ _ rfl hword i.isLt⟩
  case lwr =>
    intro hr
    obtain ⟨t, ht, hl⟩ := Answers.of_loadMerge (i := .lwr rt base offset) rfl (by decide) hr
    exact ⟨t, ht, _, hl, fun i => hold i ▸ bytes_mergeRight _ _ rfl rfl hword i.isLt h4⟩
  case ldl =>
    intro ho hr
    obtain ⟨t, ht, hl⟩ := Answers.of_loadMerge (i := .ldl rt base offset) (with64_open _ ho) (by decide) hr
    exact ⟨t, ht, _, hl, fun i => bytes_mergeLeft _ _ rfl hdouble i.isLt⟩
  case ldr =>
    intro ho hr
    obtain ⟨t, ht, hl⟩ := Answers.of_loadMerge (i := .ldr rt base offset) (with64_open _ ho) (by decide) hr
    exact ⟨t, ht, _, hl, fun i => bytes_mergeRight _ _ rfl rfl hdouble i.isLt h8⟩

/-! ### Masked stores -/

/-- The bytes of a masked write: of each byte the mask's says whether it is selected (R551). -/
theorem maskedBytes_eq_map (n : Nat) (v k : DWord) : maskedBytes n v k = (List.range n).map fun i =>
    if bitField k (8 * (n - 1 - i)) 8 = 0xFF#8 then some (bitField v (8 * (n - 1 - i)) 8) else none := by
  have hbyte : ∀ u : DWord, bytesOf u n = (List.range n).map fun i => bitField u (8 * (n - 1 - i)) 8 := by
    intro u
    rw [bytesOf_eq_map]
    apply List.map_congr_left
    intro i _
    apply BitVec.eq_of_toNat_eq
    rw [toNat_bitField, BitVec.toNat_ofNat]
  rw [maskedBytes, hbyte, hbyte, List.zipWith_map, List.zipWith_self]

/-- A masked write lists what a statement lists when they select the same bytes and agree on those. -/
theorem maskedBytes_eq {n : Nat} {v k : DWord} {c : Nat → Prop} [DecidablePred c] {f : Nat → Byte}
    (hk : ∀ i < n, bitField k (8 * (n - 1 - i)) 8 = 0xFF#8 ↔ c i) (hv : ∀ i < n, c i → bitField v (8 * (n - 1 - i)) 8 = f i) :
    maskedBytes n v k = (List.range n).map fun i => if c i then some (f i) else none := by
  rw [maskedBytes_eq_map]
  refine List.map_congr_left fun i hi => ?_
  have hi := List.mem_range.mp hi
  exact ite_congr (propext (hk i hi)) (fun h => congrArg some (hv i hi h)) fun _ => rfl

/-- The bytes that the masks of SWL, SWR, SDL and SDR select (R568 to R571). -/
theorem mask_swl : ∀ b < 4, ∀ i < 4, bitField (zext32 (0xFFFFFFFF#32 >>> (8 * b))) (8 * (3 - i)) 8 = 0xFF#8 ↔ b ≤ i := by decide
theorem mask_swr : ∀ b < 4, ∀ i < 4, bitField (zext32 (0xFFFFFFFF#32 <<< (8 * (3 - b)))) (8 * (3 - i)) 8 = 0xFF#8 ↔ i ≤ b := by decide
theorem mask_sdl : ∀ b < 8, ∀ i < 8, bitField (0xFFFFFFFFFFFFFFFF#64 >>> (8 * b)) (8 * (7 - i)) 8 = 0xFF#8 ↔ b ≤ i := by decide
theorem mask_sdr : ∀ b < 8, ∀ i < 8, bitField (0xFFFFFFFFFFFFFFFF#64 <<< (8 * (7 - b))) (8 * (7 - i)) 8 = 0xFF#8 ↔ i ≤ b := by decide

/-- Settles O35: the mask selects the bytes the statement names, and the shifted value has them there. -/
theorem unalignedStores : Obligations.UnalignedStores := by
  intro rt base offset pa cacheable s ea b4 b8
  have h4 : b4 < 4 := Nat.mod_lt _ (by decide)
  have h8 : b8 < 8 := Nat.mod_lt _ (by decide)
  refine ⟨?swl, ?swr, ?sdl, ?sdr⟩
  case swl =>
    refine Answers.of_storeMasked rfl rfl (maskedBytes_eq (mask_swl b4 h4) fun i hi hb => ?_)
    show bitField (((s.x rt).setWidth 32 >>> (8 * b4)).setWidth 64) (8 * (3 - i)) 8 = _
    rw [bitField_setWidth _ (by omega), bitField_ushiftRight, bitField_setWidth _ (by omega), ← Nat.mul_add,
      show b4 + (3 - i) = 3 - (i - b4) by omega]
  case swr =>
    refine Answers.of_storeMasked rfl rfl (maskedBytes_eq (mask_swr b4 h4) fun i hi hb => ?_)
    show bitField (((s.x rt).setWidth 32 <<< (8 * (3 - b4))).setWidth 64) (8 * (3 - i)) 8 = _
    rw [bitField_setWidth _ (by omega), bitField_shiftLeft _ (by omega) (by omega), bitField_setWidth _ (by omega), ← Nat.mul_sub,
      show 3 - i - (3 - b4) = b4 - i by omega]
  case sdl =>
    refine fun ho => Answers.of_storeMasked (with64_open _ ho) rfl (maskedBytes_eq (mask_sdl b8 h8) fun i hi hb => ?_)
    show bitField (s.x rt >>> (8 * b8)) (8 * (7 - i)) 8 = _
    rw [bitField_ushiftRight, ← Nat.mul_add, show b8 + (7 - i) = 7 - (i - b8) by omega]
  case sdr =>
    refine fun ho => Answers.of_storeMasked (with64_open _ ho) rfl (maskedBytes_eq (mask_sdr b8 h8) fun i hi hb => ?_)
    show bitField (s.x rt <<< (8 * (7 - b8))) (8 * (7 - i)) 8 = _
    rw [bitField_shiftLeft _ (by omega) (by omega), ← Nat.mul_sub, show 7 - i - (7 - b8) = b8 - i by omega]

end Sys2Proof.Machine
end

section
/-! SUPPORT. The order of the checks of a data access (`43_loadstore.md` R550, R551): every load and store ends as the first of its checks
that raises or is refused. -/

namespace Sys2Proof.Machine

variable {α β : Type} {i : Instr} {rt base : RegIdx} {offset : Half} {n : Nat} {kind : AccessKind} {a : DWord} {pa : Word}
  {c whole : Bool} {bs : List (Option Byte)} {d : Device} {s : State}

/-! ### An instruction ends as a piece of it does -/

/-- The instruction takes what its piece `r` raises, with the address of R811, and is refused where that is. -/
structure EndsAs (i : Instr) (s : State) (r : Res α) : Prop where
  raise : ∀ e, r = .raise e s → exec i s = .next (takeException (Instr.raised i e s) s)
  refuse : ∀ q, r = .refuse q → exec i s = .refused q

theorem raised_of_whole (h : Instr.partialAddress i s = none) (e : Exc) : Instr.raised i e s = e := by
  unfold Instr.raised
  rw [h]

/-- An exception that carries no address of an address error is raised as it is. -/
theorem raised_eq_self {e : Exc} (he : ∀ b, e.withAddress b = e) : Instr.raised i e s = e := by
  cases hp : Instr.partialAddress i s with
  | none => exact raised_of_whole hp e
  | some ea => exact (raised_of_partial hp e).trans (he _)

theorem EndsAs.of_finish {r : Res α} {k : α → State → Result} (hp : Instr.partialAddress i s = none) (he : exec i s = r.finish k) :
    EndsAs i s r where
  raise e hr := by rw [he, hr, raised_of_whole hp]; rfl
  refuse q hr := by rw [he, hr]; rfl

theorem EndsAs.of_withAddress {r : Res α} {k : α → State → Result} {ea : DWord} (hp : Instr.partialAddress i s = some ea)
    (he : exec i s = (r.withAddress (s.adjusted ea)).finish k) : EndsAs i s r where
  raise e hr := by rw [he, hr, raised_of_partial hp]; rfl
  refuse q hr := by rw [he, hr]; rfl

/-- What ends the first piece of a sequence ends the instruction. -/
theorem EndsAs.of_bind {r : Res α} {k : α → State → Res β} (h : EndsAs i s (r.bind k)) : EndsAs i s r where
  raise e hr := h.raise e (by rw [hr]; rfl)
  refuse q hr := h.refuse q (by rw [hr]; rfl)

/-- Past a piece that goes on, the rest is what may end the instruction. -/
theorem EndsAs.past {r : Res α} {k : α → State → Res β} {v : α} {t : State} (h : EndsAs i s (r.bind k)) (hr : r = .ok v t) :
    EndsAs i s (k v t) := by
  rwa [hr, bind_ok] at h

/-! ### Every load and store makes one access -/

/-- Steps (4) to (6) of R550: the access at its physical address. -/
inductive AccessesAt (i : Instr) (pa : Word) (c : Bool) (n : Nat) (s : State) : AccessKind → Prop
  | load (h : EndsAs i s (loadAt pa c n s)) : AccessesAt i pa c n s .load
  | store (v : DWord) (hi : ∀ rt b o, i ≠ .swl rt b o ∧ i ≠ .swr rt b o) (h : EndsAs i s (storeAt true pa c (wholeBytes n v) s)) :
    AccessesAt i pa c n s .store
  | masked (bs : List (Option Byte)) (hi : n ≠ 4 ∨ ∃ rt b o, i = .swl rt b o ∨ i = .swr rt b o)
    (h : EndsAs i s (storeAt false pa c bs s)) : AccessesAt i pa c n s .store

/-- An instruction accesses `n` bytes at `a`: it locates them first, and then, a store-conditional with LLbit set only, makes the access. -/
structure MakesAccess (i : Instr) (kind : AccessKind) (a : DWord) (n : Nat) (s : State) : Prop where
  width : n = 1 ∨ n = 2 ∨ n = 4 ∨ n = 8
  aligned : a.toNat % n = 0 ∨ Instr.partialAddress i s = none
  located : EndsAs i s (locate kind a n s)
  access : ∀ pa c, locate kind a n s = .ok (pa, c) s → ((∀ rt b o, i ≠ .sc rt b o ∧ i ≠ .scd rt b o) ∨ s.llBit = true) →
    AccessesAt i pa c n s kind

theorem alignDown_mod (ea : DWord) (hn : n = 1 ∨ n = 2 ∨ n = 4 ∨ n = 8) : (alignDown ea n).toNat % n = 0 := by
  have hlt := ea.isLt
  have hle : ea.toNat % n ≤ ea.toNat := Nat.mod_le _ _
  have hk : (BitVec.ofNat 64 (ea.toNat % n)).toNat = ea.toNat % n := Nat.mod_eq_of_lt (by omega)
  rw [alignDown, BitVec.toNat_sub_of_le (by rwa [BitVec.le_def, hk]), hk]
  rcases hn with rfl | rfl | rfl | rfl <;> omega

theorem MakesAccess.of_memReadPa (hn : n = 1 ∨ n = 2 ∨ n = 4 ∨ n = 8) (ha : a.toNat % n = 0 ∨ Instr.partialAddress i s = none)
    (h : EndsAs i s (memReadPa a n s)) : MakesAccess i .load a n s :=
  ⟨hn, ha, h.of_bind, fun _ _ hl _ => .load (h.past hl).of_bind⟩

theorem MakesAccess.of_memRead (hn : n = 1 ∨ n = 2 ∨ n = 4 ∨ n = 8) (hp : Instr.partialAddress i s = none)
    (h : EndsAs i s (memRead a n s)) : MakesAccess i .load a n s :=
  .of_memReadPa hn (.inr hp) h.of_bind

theorem MakesAccess.of_loadWith {ext : DWord → DWord} (hn : n = 1 ∨ n = 2 ∨ n = 4 ∨ n = 8) (hp : Instr.partialAddress i s = none)
    (he : exec i s = loadWith ext n rt base offset s) : MakesAccess i .load (effectiveAddress base offset s) n s :=
  .of_memRead hn hp (EndsAs.of_finish hp he)

theorem MakesAccess.of_loadLinked {ext : DWord → DWord} (hn : n = 1 ∨ n = 2 ∨ n = 4 ∨ n = 8) (hp : Instr.partialAddress i s = none)
    (he : exec i s = loadLinked ext n rt base offset s) : MakesAccess i .load (effectiveAddress base offset s) n s :=
  .of_memReadPa hn (.inr hp) (EndsAs.of_finish hp he)

theorem MakesAccess.of_loadMerge {merge : Nat → DWord → DWord → DWord} (hn : n = 1 ∨ n = 2 ∨ n = 4 ∨ n = 8)
    (hp : Instr.partialAddress i s = some (effectiveAddress base offset s)) (he : exec i s = loadMerge merge n rt base offset s) :
    MakesAccess i .load (alignDown (effectiveAddress base offset s) n) n s :=
  .of_memReadPa hn (.inl (alignDown_mod _ hn)) (EndsAs.of_withAddress hp he).of_bind

theorem MakesAccess.of_memWrite {v : DWord} (hn : n = 1 ∨ n = 2 ∨ n = 4 ∨ n = 8) (hp : Instr.partialAddress i s = none)
    (hi : ∀ rt b o, i ≠ .swl rt b o ∧ i ≠ .swr rt b o) (h : EndsAs i s (memWrite a n v s)) : MakesAccess i .store a n s :=
  ⟨hn, .inr hp, h.of_bind, fun _ _ hl _ => .store v hi (h.past hl)⟩

theorem MakesAccess.of_storeMasked {place : Nat → DWord → DWord × DWord} (hn : n = 4 ∨ n = 8)
    (hp : Instr.partialAddress i s = some (effectiveAddress base offset s))
    (hi : n ≠ 4 ∨ ∃ rt b o, i = .swl rt b o ∨ i = .swr rt b o) (he : exec i s = storeMasked place n rt base offset s) :
    MakesAccess i .store (alignDown (effectiveAddress base offset s) n) n s :=
  have hw : n = 1 ∨ n = 2 ∨ n = 4 ∨ n = 8 := .inr (.inr hn)
  have h := EndsAs.of_withAddress hp he
  ⟨hw, .inl (alignDown_mod _ hw), h.of_bind, fun _ _ hl _ => .masked _ hi (h.past hl)⟩

theorem MakesAccess.of_storeConditional (hn : n = 4 ∨ n = 8) (hi : ∃ rt b o, i = .sc rt b o ∨ i = .scd rt b o)
    (hp : Instr.partialAddress i s = none) (he : exec i s = storeConditional n rt base offset s) :
    MakesAccess i .store (effectiveAddress base offset s) n s := by
  have h := EndsAs.of_finish hp he
  refine ⟨.inr (.inr hn), .inr hp, h.of_bind, fun pa c hl hc => ?_⟩
  obtain ⟨r, b, o, hi⟩ := hi
  have hll : s.llBit = true := by
    rcases hc with hc | hc
    · rcases hi with hi | hi
      · exact absurd hi (hc r b o).1
      · exact absurd hi (hc r b o).2
    · exact hc
  have h := h.past hl
  rw [if_pos hll] at h
  refine .store _ (fun _ _ _ => ?_) h.of_bind
  rcases hi with rfl | rfl <;> exact ⟨nofun, nofun⟩

/-- Every load and store makes its access behind its gates. -/
theorem makesAccess (ha : Instr.access i s = some (kind, a, n)) (h64 : Instr.gated64 i = true → s.ops64)
    (h1 : Instr.isCop1 i = true → s.cu 1 = true) : MakesAccess i kind a n s := by
  cases i
  case lb | lbu | lh | lhu | lw => cases ha; exact .of_loadWith (by decide) rfl rfl
  case lwu | ld => cases ha; exact .of_loadWith (by decide) rfl (with64_open _ (h64 rfl))
  case ll => cases ha; exact .of_loadLinked (by decide) rfl rfl
  case lld => cases ha; exact .of_loadLinked (by decide) rfl (with64_open _ (h64 rfl))
  case lwl | lwr => cases ha; exact .of_loadMerge (by decide) rfl rfl
  case ldl | ldr => cases ha; exact .of_loadMerge (by decide) rfl (with64_open _ (h64 rfl))
  case lwc1 | ldc1 =>
    cases ha
    exact .of_memRead (by decide) rfl (EndsAs.of_finish rfl (withCop_open (by decide) (h1 rfl)))
  case sb | sh | sw =>
    cases ha
    exact .of_memWrite (by decide) rfl (fun _ _ _ => ⟨nofun, nofun⟩) (EndsAs.of_finish rfl rfl)
  case sd =>
    cases ha
    exact .of_memWrite (by decide) rfl (fun _ _ _ => ⟨nofun, nofun⟩) (EndsAs.of_finish rfl (with64_open _ (h64 rfl)))
  case swc1 | sdc1 =>
    cases ha
    exact .of_memWrite (by decide) rfl (fun _ _ _ => ⟨nofun, nofun⟩) (EndsAs.of_finish rfl (withCop_open (by decide) (h1 rfl)))
  case swl => cases ha; exact .of_storeMasked (by decide) rfl (.inr ⟨_, _, _, .inl rfl⟩) rfl
  case swr => cases ha; exact .of_storeMasked (by decide) rfl (.inr ⟨_, _, _, .inr rfl⟩) rfl
  case sdl | sdr => cases ha; exact .of_storeMasked (by decide) rfl (.inl (by decide)) (with64_open _ (h64 rfl))
  case sc => cases ha; exact .of_storeConditional (by decide) ⟨_, _, _, .inl rfl⟩ rfl rfl
  case scd => cases ha; exact .of_storeConditional (by decide) ⟨_, _, _, .inr rfl⟩ rfl (with64_open _ (h64 rfl))
  all_goals cases ha

/-! ### The checks, in their order -/

theorem locate_misaligned (ha : s.accessible) (hz : a.toNat % n ≠ 0) :
    locate kind a n s = .raise (addressError kind (s.adjusted a)) s := by
  rw [locate, accessAllowed_ok ha, bind_ok, checkAligned, if_neg hz, bind_raise]

theorem AccessesAt.checks (h : AccessesAt i pa c n s kind) : EndsAs i s (dataChecks kind pa s) := by
  cases h with
  | load h => exact h.of_bind
  | store v hi h => exact h.of_bind
  | masked bs hi h => exact h.of_bind

theorem dataChecks_watch (hw : s.watchHits kind pa = true) : dataChecks kind pa s = .raise .watch s := if_pos hw

theorem dataChecks_busError (hw : s.watchHits kind pa = false) (hb : busError s.cfg pa kind = true) :
    dataChecks kind pa s = .raise .dbe s := by
  rw [dataChecks, hw, if_neg Bool.false_ne_true, if_pos hb]

theorem dataChecks_ok (hw : s.watchHits kind pa = false) (hb : busError s.cfg pa kind = false) : dataChecks kind pa s = .ok () s := by
  rw [dataChecks, hw, if_neg Bool.false_ne_true, hb, if_neg Bool.false_ne_true]

/-- A cacheable access to a window is refused, whether its line hits or not (R210, D81). -/
theorem AccessesAt.cached (h : AccessesAt i pa true n s kind) (hok : dataChecks kind pa s = .ok () s)
    (hw : (s.region pa).isWindow = true) : exec i s = .refused .cachedWindow := by
  have hd : dEnsure pa s = .refuse .cachedWindow := if_pos hw
  cases h with
  | load h => exact (h.past hok).refuse _ (by rw [if_pos rfl, cachedLoad, hd, bind_refuse])
  | store v hi h => exact (h.past hok).refuse _ (by rw [if_pos rfl, cachedStore, hd, bind_refuse])
  | masked bs hi h => exact (h.past hok).refuse _ (by rw [if_pos rfl, cachedStore, hd, bind_refuse])

/-- A store to a window that is not a whole 32-bit one is refused (D9). -/
theorem physWrite_window (hw : (s.region pa).isWindow = true) (hb : wholeWord whole bs = none) :
    physWrite whole pa bs s = .refuse .windowStoreWidth := by
  unfold physWrite
  cases hr : s.region pa with
  | device d => simp only [hb]
  | collab k => simp only [hb]
  | rdram | openBus | cart | pifRom | pifRam => rw [hr] at hw; cases hw

theorem wholeWord_of_length (h : bs.length ≠ 4) : wholeWord whole bs = none := by
  unfold wholeWord
  split
  · exact absurd rfl h
  · rfl

theorem AccessesAt.storeWidth (h : AccessesAt i pa false n s .store) (hok : dataChecks .store pa s = .ok () s)
    (hi : n ≠ 4 ∨ ∃ rt b o, i = .swl rt b o ∨ i = .swr rt b o) (hw : (s.region pa).isWindow = true) :
    exec i s = .refused .windowStoreWidth := by
  cases h with
  | store v hne h =>
    have hn : n ≠ 4 := by
      rcases hi with hi | ⟨r, b, o, hi | hi⟩
      · exact hi
      · exact absurd hi (hne r b o).1
      · exact absurd hi (hne r b o).2
    have hl : (wholeBytes n v).length ≠ 4 := by rwa [wholeBytes_eq, length_storeBytes]
    refine (h.past hok).refuse _ ?_
    rw [if_neg Bool.false_ne_true]
    exact physWrite_window (s := s.addCycles _) hw (wholeWord_of_length hl)
  | masked bs hne h =>
    refine (h.past hok).refuse _ ?_
    rw [if_neg Bool.false_ne_true]
    exact physWrite_window (s := s.addCycles _) hw rfl

/-! ### Beyond a device's block (D64) -/

section
variable (hm : s.cfg.deviceMirroring = false)
include hm

theorem slotIndex_beyond (hs : d.slots ≤ pa.toNat % 0x100000 / 4) : slotIndex s.cfg.deviceMirroring d pa = none := by
  simp [slotIndex, hm, Nat.not_lt.mpr hs]

theorem windowRead_beyond (hs : d.slots ≤ pa.toNat % 0x100000 / 4) : s.windowRead (.device d) pa = .refuse .deviceOffset := by
  simp only [State.windowRead, State.readReg, slotIndex_beyond hm hs]

/-- A doubleword is two reads, of which the first or the second is beyond the block. -/
theorem windowReadBytes_beyond (hn : n = 1 ∨ n = 2 ∨ n = 4 ∨ n = 8) (ha : pa.toNat % n = 0)
    (hs : 4 * d.slots < pa.toNat % 0x100000 + n) : s.windowReadBytes (.device d) pa n = .refuse .deviceOffset := by
  have h4 : (pa &&& 0xFFFFFFFC#32).toNat = pa.toNat - pa.toNat % 4 := toNat_and_align 2 (.inl rfl)
  have h8 : (pa &&& 0xFFFFFFF8#32).toNat = pa.toNat - pa.toNat % 8 := toNat_and_align 3 (.inr rfl)
  have hlt := pa.isLt
  by_cases hd : n = 8
  · subst hd
    have h84 : ((pa &&& 0xFFFFFFF8#32) + 4#32).toNat = pa.toNat + 4 := by
      rw [BitVec.toNat_add, h8, BitVec.toNat_ofNat]
      omega
    rw [State.windowReadBytes, if_pos rfl]
    by_cases hfirst : pa.toNat % 0x100000 / 4 < d.slots
    · rw [windowRead_device (.inr (by omega)), bind_ok, windowRead_beyond hm (by omega), bind_refuse]
    · rw [windowRead_beyond hm (by omega), bind_refuse]
  · have hin : pa.toNat % 4 + n ≤ 4 := by rcases hn with rfl | rfl | rfl | rfl <;> omega
    rw [State.windowReadBytes, if_neg hd, windowRead_beyond hm (by omega), bind_refuse]

theorem AccessesAt.beyond (h : AccessesAt i pa false n s kind) (hok : dataChecks kind pa s = .ok () s)
    (hi : kind = .store → n = 4 ∧ ∀ rt b o, i ≠ .swl rt b o ∧ i ≠ .swr rt b o) (hn : n = 1 ∨ n = 2 ∨ n = 4 ∨ n = 8)
    (ha : pa.toNat % n = 0) (hr : s.region pa = .device d) (hs : 4 * d.slots < pa.toNat % 0x100000 + n) :
    exec i s = .refused .deviceOffset := by
  cases h with
  | load h =>
    refine (h.past hok).refuse _ ?_
    have hread := windowReadBytes_beyond (s := s.addCycles (s.uncachedCost pa n)) hm hn ha hs
    rw [if_neg Bool.false_ne_true, uncachedLoad, physRead, show (s.addCycles (s.uncachedCost pa n)).region pa = .device d from hr]
    exact hread
  | store v hne h =>
    obtain ⟨rfl, -⟩ := hi rfl
    refine (h.past hok).refuse _ ?_
    have hslot : slotIndex s.cfg.deviceMirroring d pa = none := slotIndex_beyond hm (by omega)
    rw [if_neg Bool.false_ne_true, uncachedStore, physWrite, show (s.addCycles (s.uncachedCost pa _)).region pa = .device d from hr]
    simp only [wholeBytes, bytesOf, List.map_cons, List.map_nil, wholeWord, State.windowWrite, State.writeReg, addCycles_cfg, hslot]
  | masked bs hne h =>
    obtain ⟨hn4, hno⟩ := hi rfl
    rcases hne with hne | ⟨r, b, o, he | he⟩
    · exact absurd hn4 hne
    · exact absurd he (hno r b o).1
    · exact absurd he (hno r b o).2

end

/-- Settles O37: the access ends at the first check that fails. -/
theorem accessFaultOrder : Obligations.AccessFaultOrder := by
  intro i kind a n s hl hacc ha h64 h1 recorded
  have hm := makesAccess ha h64 h1
  refine ⟨fun hz => ?misaligned, fun e hz ht => ?translation, fun pa c hz ht hc => ?checks⟩
  case misaligned =>
    have hw := raised_of_whole (hm.aligned.resolve_left hz) (addressError kind (s.adjusted a))
    have he : addressError kind (s.adjusted a) = if kind = .store then .ades recorded else .adel recorded := by cases kind <;> rfl
    exact Raises.of_exec hl (by rw [← he, hm.located.raise _ (locate_misaligned hacc hz), hw])
  case translation => exact Raises.of_exec hl (hm.located.raise e (locate_raises hacc hz ht))
  case checks =>
    have access := hm.access pa c (locate_ok hacc hz ht) hc
    have hwindow : ((∃ d, s.region pa = .device d) ∨ ∃ k, s.region pa = .collab k) → (s.region pa).isWindow = true := by
      rintro (⟨_, h⟩ | ⟨_, h⟩) <;> rw [h] <;> rfl
    refine ⟨fun hw => ?watch, fun hw hb => ?busError, fun hw hb hc hr => ?cached, fun hw hb hc hk hi hr => ?width,
      fun hw hb hc hi d hr hmir hs => ?beyond⟩
    case watch =>
      exact Raises.of_exec hl ((access.checks.raise _ (dataChecks_watch hw)).trans (by rw [raised_eq_self fun _ => rfl]))
    case busError =>
      exact Raises.of_exec hl ((access.checks.raise _ (dataChecks_busError hw hb)).trans (by rw [raised_eq_self fun _ => rfl]))
    case cached => subst hc; exact access.cached (dataChecks_ok hw hb) (hwindow hr)
    case width => subst hc hk; exact access.storeWidth (dataChecks_ok hw hb) hi (hwindow hr)
    case beyond =>
      have hpa : pa.toNat % n = 0 := by
        have := translate_mod ht
        rcases hm.width with rfl | rfl | rfl | rfl <;> omega
      subst hc
      exact access.beyond hmir (dataChecks_ok hw hb) hi hm.width hpa hr hs

end Sys2Proof.Machine
end

section
/-! SUPPORT. The CACHE instruction (`43_loadstore.md` R584 to R595): each operation gives the lines of the address, TagLo, memory and the
cycles new values, some of them the old ones, and changes nothing else. -/

namespace Sys2Proof.Machine

variable {op : BitVec 5} {base : RegIdx} {offset : Half} {pa : Word} {c : Bool} {n : Nat} {il : ILine} {dl : DLine} {tagLo : Word}
  {mem : Memory} {view : Nat → Byte} {s u : State}

/-! ### What a cache operation leaves -/

/-- `s` with the lines of `pa`, TagLo and memory as given, and `n` cycles more. -/
def State.withLines (pa : Word) (n : Nat) (il : ILine) (dl : DLine) (tagLo : Word) (mem : Memory) (s : State) : State :=
  { s with
    icache := s.icache.set (iIndex pa).val il
    dcache := s.dcache.set (dIndex pa).val dl
    cop0 := { s.cop0 with tagLo := tagLo }
    mem := mem
    stepCycles := s.stepCycles + n }

/-- Any state is itself with its own lines, TagLo and memory. -/
theorem withLines_self (pa : Word) (s : State) : s.withLines pa 0 (s.iLine pa) (s.dLine pa) s.cop0.tagLo s.mem = s := by
  simp [State.withLines, State.iLine, State.dLine]

theorem setILine_eq (pa : Word) (l : ILine) (s : State) :
    s.setILine pa l = s.withLines pa 0 l (s.dLine pa) s.cop0.tagLo s.mem := by
  simp [State.setILine, State.withLines, State.dLine]

theorem setDLine_eq (pa : Word) (l : DLine) (s : State) :
    s.setDLine pa l = s.withLines pa 0 (s.iLine pa) l s.cop0.tagLo s.mem := by
  simp [State.setDLine, State.withLines, State.iLine]

theorem setTagLo_eq (pa : Word) (w : Word) (s : State) :
    s.setTagLo w = s.withLines pa 0 (s.iLine pa) (s.dLine pa) w s.mem := by
  simp [State.setTagLo, State.withLines, State.iLine, State.dLine]

theorem withLines_done (hm : ∀ a, mem.read a = view a) :
    CacheDone n il dl tagLo view pa s (s.withLines pa n il dl tagLo mem).retire where
  iline := by simp [State.iLine, State.withLines]
  otherI i hi := by
    simp only [retire_icache]
    exact setILine_other pa il s hi
  dline := by simp [State.dLine, State.withLines]
  otherD i hi := by
    simp only [retire_dcache]
    exact setDLine_other pa dl s i hi
  cop0 := by simp [State.withLines]
  memory a := by simp [State.withLines, hm]
  gpr _ := retire_x _ _
  hiLo := ⟨retire_hi _, retire_lo _⟩
  llBit := retire_llBit _
  tlb := retire_tlb _
  fpu := ⟨retire_fpr _, retire_fcsr _⟩
  platform := SamePlatform.trans (retire_samePlatform _) (by constructor <;> rfl)
  completed := by
    have h := retire_completed (s.withLines pa n il dl tagLo mem)
    exact ⟨h.latch, h.cycles, h.target, h.outside, h.takenSlot, h.notTakenSlot⟩

/-- CACHE with coprocessor 0 usable and its address translated performs its operation and completes (R584). -/
theorem Answers.of_cacheOp {o : BitVec 5} (hu : s.cop0Usable)
    (ht : translate (effectiveAddress base offset s) .load s = .ok (pa, c) s) (ho : op = o)
    (he : cacheOp o pa s = .ok () (s.withLines pa n il dl tagLo mem)) (hm : ∀ a, mem.read a = view a) :
    Answers (.cache op base offset) s (CacheDone n il dl tagLo view pa s) := by
  subst ho
  refine ⟨_, (withCop0_open hu).trans ?_, withLines_done hm⟩
  rw [ht, finish_ok, he, finish_ok]
  rfl

/-! ### Write-backs -/

/-- Memory after the bytes of a line are written reads as the statements say. -/
theorem read_writeSome_memWith (hw : s.mem.wf = true) (w : Nat) (ds : List Byte) (a : Nat) :
    (s.mem.writeSome w (ds.map some)).read a = s.memWith w ds a := by
  rw [Memory.read_writeSome hw, State.memWith]
  by_cases h : w ≤ a ∧ a < w + ds.length
  · have hlt : a - w < ds.length := by omega
    rw [if_pos h, storedByte, if_pos h.1, List.getElem?_map]
    simp [List.getElem?_eq_getElem hlt, List.getD]
  · rw [if_neg h, storedByte_outside _ _ _ (by simpa using h), Option.getD_none]

theorem lineWrite_rdram {w : Word} (ds : List Byte) (hr : s.region w = .rdram) :
    lineWrite w ds s = .ok () { s with mem := s.mem.writeSome w.toNat (ds.map some) } := by
  unfold lineWrite
  rw [hr]

/-- Memory with the data line of `pa` written back. -/
def State.memWrittenBack (pa : Word) (s : State) : Memory :=
  s.mem.writeSome (dWritebackAddress pa (s.dLine pa)).toNat ((s.dLine pa).data.toList.map some)

/-- The state once the data line of `pa` is written back. -/
def State.writtenBack (pa : Word) (s : State) : State :=
  { s with mem := s.memWrittenBack pa, stepCycles := s.stepCycles + s.cfg.costs.dcacheWriteback }

theorem writeBackIf_rdram {also : Bool} (hd : ((s.dLine pa).valid && (s.dLine pa).dirty && also) = true)
    (hr : s.region (dWritebackAddress pa (s.dLine pa)) = .rdram) : writeBackIf also pa s = .ok () (s.writtenBack pa) := by
  rw [writeBackIf, if_pos hd, writeBack, lineWrite_rdram _ hr, bind_ok]
  rfl

theorem writeBackIf_clean {also : Bool} (hd : ((s.dLine pa).valid && (s.dLine pa).dirty && also) = false) :
    writeBackIf also pa s = .ok () s := by
  rw [writeBackIf, hd, if_neg Bool.false_ne_true]

/-- Changing the data line after it is written back. -/
theorem writtenBack_setDLine (l : DLine) :
    (s.writtenBack pa).setDLine pa l
      = s.withLines pa s.cfg.costs.dcacheWriteback (s.iLine pa) l s.cop0.tagLo (s.memWrittenBack pa) :=
  setDLine_eq pa l (s.writtenBack pa)

/-! ### The operations on an instruction line -/

theorem tagLoOf_eq (tag : BitVec 20) (v d : Bool) : tagLoOf tag v d = BitVec.ofNat 32 (tag.toNat * 256 + v.toNat * 128 + d.toNat * 64) := by
  have hflags : ∀ v d : Bool, ((boolBit 32 v <<< 7) ||| (boolBit 32 d <<< 6)).toNat = v.toNat * 128 + d.toNat * 64 := by decide
  have htag : (tag.setWidth 32 <<< 8).toNat = 2 ^ 8 * tag.toNat := by
    have := tag.isLt
    simp only [BitVec.toNat_shiftLeft, BitVec.toNat_setWidth, Nat.shiftLeft_eq]
    omega
  have hv := v.toNat_le
  have hd := d.toNat_le
  have hlt := tag.isLt
  apply BitVec.eq_of_toNat_eq
  rw [tagLoOf, BitVec.or_assoc, BitVec.toNat_or, hflags, htag, ← Nat.two_pow_add_eq_or_of_lt (by omega), BitVec.toNat_ofNat]
  omega

theorem iIndexLoadTag_eq : iIndexLoadTag pa s = s.withLines pa 0 (s.iLine pa) (s.dLine pa)
    (BitVec.ofNat 32 ((s.iLine pa).tag.toNat * 256 + (s.iLine pa).valid.toNat * 128)) s.mem := by
  rw [iIndexLoadTag, setTagLo_eq pa, tagLoOf_eq, Bool.toNat_false, Nat.zero_mul, Nat.add_zero]

theorem iHitInvalidate_eq : iHitInvalidate pa s = s.withLines pa 0
    (if (s.iLine pa).hits pa = true then { s.iLine pa with valid := false } else s.iLine pa) (s.dLine pa) s.cop0.tagLo s.mem := by
  unfold iHitInvalidate
  split
  · exact setILine_eq pa _ s
  · exact (withLines_self pa s).symm

/-- The line that a fill from memory makes (R594). -/
theorem iFill_memory (hr : s.region (iLineBase pa) = .rdram ∨ s.region (iLineBase pa) = .pifRom) :
    iFill pa s = .ok () (s.withLines pa s.cfg.costs.icacheMiss
      ⟨true, cacheTag pa, Vector.ofFn fun i : Fin 32 => s.mem.read (pa.toNat / 32 * 32 + i.val)⟩ (s.dLine pa) s.cop0.tagLo s.mem) := by
  have hread : lineRead (iLineBase pa) 32 s = .ok (s.mem.readBytes (iLineBase pa).toNat 32) s := by
    unfold lineRead
    rcases hr with hr | hr <;> rw [hr]
  have hbase : (iLineBase pa).toNat = pa.toNat / 32 * 32 := by
    rw [toNat_iLineBase]
    omega
  have hdata : lineData 32 (s.mem.readBytes (iLineBase pa).toNat 32)
      = Vector.ofFn fun i : Fin 32 => s.mem.read (pa.toNat / 32 * 32 + i.val) := by
    apply Vector.toList_inj.mp
    rw [lineData_toList (Memory.length_readBytes _ _ _), readBytes_eq_map, hbase]
    apply List.ext_getElem <;> simp
  rw [iFill, hread, bind_ok, hdata, setILine_eq]
  rfl

theorem iHitWriteBack_hit (hh : (s.iLine pa).hits pa = true) (hr : s.region (iWritebackAddress pa (s.iLine pa)) = .rdram) :
    iHitWriteBack pa s = .ok () (s.withLines pa s.cfg.costs.dcacheWriteback (s.iLine pa) (s.dLine pa) s.cop0.tagLo
      (s.mem.writeSome (iWritebackAddress pa (s.iLine pa)).toNat ((s.iLine pa).data.toList.map some))) := by
  rw [iHitWriteBack, if_pos hh, lineWrite_rdram _ hr, bind_ok]
  congr 1
  simp [State.addCycles, State.withLines, State.iLine, State.dLine]

theorem iHitWriteBack_miss (hh : (s.iLine pa).hits pa = false) : iHitWriteBack pa s = .ok () s := by
  rw [iHitWriteBack, hh, if_neg Bool.false_ne_true]

/-! ### The operations on a data line -/

theorem dHitInvalidate_eq : dHitInvalidate pa s = s.withLines pa 0 (s.iLine pa)
    (if (s.dLine pa).hits pa = true then { s.dLine pa with valid := false, dirty := false } else s.dLine pa) s.cop0.tagLo s.mem := by
  unfold dHitInvalidate
  split
  · exact setDLine_eq pa _ s
  · exact (withLines_self pa s).symm

theorem dIndexLoadTag_eq : dIndexLoadTag pa s = s.withLines pa 0 (s.iLine pa) (s.dLine pa)
    (BitVec.ofNat 32 ((s.dLine pa).tag.toNat * 256 + (s.dLine pa).valid.toNat * 128 + (s.dLine pa).dirty.toNat * 64)) s.mem := by
  rw [dIndexLoadTag, setTagLo_eq pa, tagLoOf_eq]

/-- What the operations that may write a data line back make of it (R589, R590, R593). -/
def DLine.invalidated (l : DLine) : DLine := { l with valid := false, dirty := false }
def DLine.claimed (pa : Word) (l : DLine) : DLine := { l with tag := cacheTag pa, valid := true, dirty := true }
def DLine.cleaned (l : DLine) : DLine := { l with dirty := false }

theorem cleaned_of_clean {l : DLine} (h : l.dirty = false) : l.cleaned = l := by rw [DLine.cleaned, ← h]

section
variable {also : Bool} (f : DLine → DLine)

/-- A data line that is written back and then changed. -/
theorem writeBackIf_setDLine_dirty (hd : ((s.dLine pa).valid && (s.dLine pa).dirty && also) = true)
    (hr : s.region (dWritebackAddress pa (s.dLine pa)) = .rdram) :
    ((writeBackIf also pa s).bind fun _ s => .ok () (s.setDLine pa (f (s.dLine pa))))
      = .ok () (s.withLines pa s.cfg.costs.dcacheWriteback (s.iLine pa) (f (s.dLine pa)) s.cop0.tagLo (s.memWrittenBack pa)) := by
  rw [writeBackIf_rdram hd hr, bind_ok, writtenBack_setDLine]
  rfl

/-- A data line that is changed with nothing to write back. -/
theorem writeBackIf_setDLine_clean (hd : ((s.dLine pa).valid && (s.dLine pa).dirty && also) = false) :
    ((writeBackIf also pa s).bind fun _ s => .ok () (s.setDLine pa (f (s.dLine pa))))
      = .ok () (s.withLines pa 0 (s.iLine pa) (f (s.dLine pa)) s.cop0.tagLo s.mem) := by
  rw [writeBackIf_clean hd, bind_ok, setDLine_eq]

end

/-- The hit operations do nothing to a line that does not hit (R592, R593). -/
theorem cacheOp_dMiss {o : BitVec 5} (ho : o = 0b10101#5 ∨ o = 0b11001#5) (hh : (s.dLine pa).hits pa = false) :
    cacheOp o pa s = .ok () s := by
  have hn : ¬(s.dLine pa).hits pa = true := by rw [hh]; exact Bool.false_ne_true
  rcases ho with rfl | rfl
  · exact if_neg hn
  · exact if_neg hn

/-- The other operation and cache pairs (D50). -/
theorem cacheOp_other {o : BitVec 5} (ho : o.toNat % 4 ≥ 2 ∨ o = 0b01100#5 ∨ o = 0b11100#5 ∨ o = 0b11101#5) :
    cacheOp o pa s = .ok () s := by
  have hn : o.toNat % 4 ≥ 2 ∨ o.toNat = 12 ∨ o.toNat = 28 ∨ o.toNat = 29 := by
    rcases ho with h | rfl | rfl | rfl
    · exact .inl h
    all_goals decide
  unfold cacheOp
  split
  case h_14 => rfl
  all_goals omega

/-- Settles O39: each operation gives the lines, TagLo and memory the values its rule says. -/
theorem cacheInstruction : Obligations.CacheInstruction := by
  intro op base offset pa c s
  refine ⟨fun hl hd => Raises.of_exec hl (withCop0_denied hd), fun e hl hu ht => ?raises, fun hw hu ht => ?operations⟩
  case raises => exact Raises.of_exec hl ((withCop0_open hu).trans (by rw [ht, finish_raise]))
  case operations =>
    intro il dl dirty dw iw written wb done
    have hwritten : ∀ a, (s.memWrittenBack pa).read a = written a := read_writeSome_memWith hw dw.toNat dl.data.toList
    have unchanged : Res.ok () s = .ok () (s.withLines pa 0 il dl s.cop0.tagLo s.mem) := congrArg _ (withLines_self pa s).symm
    have dirty_of_hit : dl.hits pa = true → dl.dirty = true → (dl.valid && dl.dirty && true) = true := fun hh hd => by
      rw [(hits_tag hh).1, hd]; rfl
    have clean : dl.dirty = false → (dl.valid && dl.dirty && true) = false := fun hd => by rw [hd, Bool.and_false, Bool.false_and]
    refine ⟨fun ho => ?iIndexInvalidate, fun ho => ?iIndexLoadTag, fun ho => ?iIndexStoreTag, fun ho => ?iHitInvalidate,
      fun ho hr => ?fill, fun ho hh hr => ?iHitWriteBack, fun ho hh => ?iHitWriteBackMiss, fun ho hd hr => ?dIndexInvalidateDirty,
      fun ho hd => ?dIndexInvalidateClean, fun ho => ?dIndexLoadTag, fun ho => ?dIndexStoreTag, fun ho hd htag hr => ?createDirty,
      fun ho hd => ?createClean, fun ho => ?dHitInvalidate, fun ho hh hd hr => ?hitInvalidateDirty,
      fun ho hh hd => ?hitInvalidateClean, fun ho hh hd hr => ?hitWriteBackDirty, fun ho hh hd => ?hitWriteBackClean,
      fun ho hh => ?dMiss, fun ho => ?other⟩
    case iIndexInvalidate => exact .of_cacheOp hu ht ho (congrArg _ (setILine_eq pa _ s)) fun _ => rfl
    case iIndexLoadTag => exact .of_cacheOp hu ht ho (congrArg _ iIndexLoadTag_eq) fun _ => rfl
    case iIndexStoreTag => exact .of_cacheOp hu ht ho (congrArg _ (setILine_eq pa _ s)) fun _ => rfl
    case iHitInvalidate => exact .of_cacheOp hu ht ho (congrArg _ iHitInvalidate_eq) fun _ => rfl
    case fill => exact .of_cacheOp hu ht ho (iFill_memory hr) fun _ => rfl
    case iHitWriteBack =>
      exact .of_cacheOp hu ht ho (iHitWriteBack_hit hh hr) (read_writeSome_memWith hw iw.toNat il.data.toList)
    case iHitWriteBackMiss => exact .of_cacheOp hu ht ho ((iHitWriteBack_miss hh).trans unchanged) fun _ => rfl
    case dIndexInvalidateDirty =>
      exact .of_cacheOp hu ht ho (writeBackIf_setDLine_dirty .invalidated ((Bool.and_true _).trans hd) hr) hwritten
    case dIndexInvalidateClean =>
      exact .of_cacheOp hu ht ho (writeBackIf_setDLine_clean .invalidated ((Bool.and_true _).trans hd)) fun _ => rfl
    case dIndexLoadTag => exact .of_cacheOp hu ht ho (congrArg _ dIndexLoadTag_eq) fun _ => rfl
    case dIndexStoreTag => exact .of_cacheOp hu ht ho (congrArg _ (setDLine_eq pa _ s)) fun _ => rfl
    case createDirty =>
      exact .of_cacheOp hu ht ho
        (writeBackIf_setDLine_dirty (.claimed pa) (Bool.and_eq_true_iff.mpr ⟨hd, decide_eq_true htag⟩) hr) hwritten
    case createClean =>
      exact .of_cacheOp hu ht ho
        (writeBackIf_setDLine_clean (.claimed pa) (Bool.and_eq_false_iff.mpr (hd.imp_right fun h => decide_eq_false (not_not.mpr h))))
        fun _ => rfl
    case dHitInvalidate => exact .of_cacheOp hu ht ho (congrArg _ dHitInvalidate_eq) fun _ => rfl
    case hitInvalidateDirty =>
      exact .of_cacheOp hu ht ho ((if_pos hh).trans (writeBackIf_setDLine_dirty .invalidated (dirty_of_hit hh hd) hr)) hwritten
    case hitInvalidateClean =>
      exact .of_cacheOp hu ht ho ((if_pos hh).trans (writeBackIf_setDLine_clean .invalidated (clean hd))) fun _ => rfl
    case hitWriteBackDirty =>
      exact .of_cacheOp hu ht ho ((if_pos hh).trans (writeBackIf_setDLine_dirty .cleaned (dirty_of_hit hh hd) hr)) hwritten
    case hitWriteBackClean =>
      refine .of_cacheOp hu ht ho ((if_pos hh).trans ((writeBackIf_setDLine_clean .cleaned (clean hd)).trans ?_)) fun _ => rfl
      rw [cleaned_of_clean hd]
    case dMiss => exact .of_cacheOp hu ht rfl ((cacheOp_dMiss ho hh).trans unchanged) fun _ => rfl
    case other => exact .of_cacheOp hu ht rfl ((cacheOp_other ho).trans unchanged) fun _ => rfl

end Sys2Proof.Machine
end

section
/-! SUPPORT. System calls, traps, exception return and the absent coprocessor 2 (`44_system.md` R600 to R613, R640, R660). -/

namespace Sys2Proof.Machine

variable {i : Instr} {c : Bool} {p : Prop} {s : State}

/-! ### How a trap and an encoding of coprocessor 2 end -/

/-- A conditional trap whose condition, as the model computes it, says `p`. -/
theorem TrapsIf.of_exec (hl : s.excLatch = false) (he : exec i s = trapIf c s) (hc : c = true ↔ p) : TrapsIf i p s where
  left h := Raises.of_exec hl (he.trans (if_pos (hc.mpr h)))
  right h := ⟨_, he.trans (if_neg (mt hc.mp h)), retire_wroteNothing s⟩

theorem not_slt_iff {n : Nat} (x y : BitVec n) : (!x.slt y) = true ↔ y.toInt ≤ x.toInt := by
  rw [Bool.not_eq_true', Bool.eq_false_iff, ne_eq, BitVec.slt_iff_toInt_lt, not_lt]

theorem not_ult_iff {n : Nat} (x y : BitVec n) : (!x.ult y) = true ↔ y.toNat ≤ x.toNat := by
  rw [Bool.not_eq_true', Bool.eq_false_iff, ne_eq, BitVec.ult_iff_toNat_lt, not_lt]

theorem eq_sext16_iff (x : DWord) (h : Half) : x = sext16 h ↔ x.toInt = h.toInt := by
  rw [← BitVec.toInt_inj, toInt_sext16]

/-- CU2 alone decides between CpU and RI (R660, R802). -/
theorem absentCop2_raises (hl : s.excLatch = false) (he : exec i s = absentCop2 s) :
    (s.cu 2 = false → Raises i (.cpu 2#2) s) ∧ (s.cu 2 = true → Raises i .ri s) where
  left h := Raises.of_exec hl (he.trans (withCop_denied (by decide) h))
  right h := Raises.of_exec hl (he.trans (withCop_open (by decide) h))

/-! ### Exception return (R640, R855) -/

theorem setBit_false {n : Nat} (v : BitVec n) (k : Nat) : setBit v k false = v &&& ~~~(BitVec.twoPow n k) := BitVec.or_zero

theorem returnFromException_error (h : s.erl = true) :
    (returnFromException s).pc = s.cop0.errorEpc
      ∧ (returnFromException s).cop0 = { s.cop0 with status := s.cop0.status &&& 0xFFFFFFFB#32 } := by
  rw [returnFromException, if_pos h, setBit_false]
  exact ⟨rfl, rfl⟩

theorem returnFromException_normal (h : s.erl = false) :
    (returnFromException s).pc = s.cop0.epc
      ∧ (returnFromException s).cop0 = { s.cop0 with status := s.cop0.status &&& 0xFFFFFFFD#32 } := by
  rw [returnFromException, if_neg (Bool.eq_false_iff.mp h), setBit_false]
  exact ⟨rfl, rfl⟩

theorem returnFromException_llBit : (returnFromException s).llBit = false := by unfold returnFromException; split <;> rfl

theorem returnFromException_branchState : (returnFromException s).branchState = .noBranch := by
  unfold returnFromException; split <;> rfl

theorem returnFromException_samePlatform : SamePlatform s (returnFromException s) := by constructor <;> simp

/-! ### The statements -/

/-- Settles O17: what ERET writes by ERL, and the fields that returning leaves alone. -/
theorem eret : Obligations.Eret := by
  intro s hl
  refine ⟨fun hu => ⟨returnFromException s, withCop0_open hu, ?_⟩, fun hd => cop0Privilege .eret s hl hd rfl⟩
  exact ⟨returnFromException_error, returnFromException_normal, returnFromException_llBit, returnFromException_branchState, by simp,
    by simp, by simp, by simp, fun _ => by simp, ⟨by simp, by simp⟩, ⟨by simp, by simp⟩, ⟨by simp, by simp, by simp⟩,
    returnFromException_samePlatform⟩

/-- Settles O18: neither looks at its code field. -/
theorem syscallBreak : Obligations.SyscallBreak := fun _ _ hl => ⟨Raises.of_exec hl rfl, Raises.of_exec hl rfl⟩

/-- Settles O19: each traps on a comparison, which the model makes on words and the statement on numbers. -/
theorem traps : Obligations.Traps := by
  intro rs rt code imm s hl
  refine ⟨?tge, ?tgeu, ?tlt, ?tltu, ?teq, ?tne, ?tgei, ?tgeiu, ?tlti, ?tltiu, ?teqi, ?tnei⟩
  case tge => exact .of_exec hl rfl (not_slt_iff _ _)
  case tgeu => exact .of_exec hl rfl (not_ult_iff _ _)
  case tlt => exact .of_exec hl rfl BitVec.slt_iff_toInt_lt
  case tltu => exact .of_exec hl rfl BitVec.ult_iff_toNat_lt
  case teq | tne => exact .of_exec hl rfl decide_eq_true_iff
  case tgei => exact .of_exec hl rfl (by rw [not_slt_iff, toInt_sext16])
  case tgeiu => exact .of_exec hl rfl (by rw [not_ult_iff, sext16_ofInt])
  case tlti => exact .of_exec hl rfl (by rw [BitVec.slt_iff_toInt_lt, toInt_sext16])
  case tltiu => exact .of_exec hl rfl (by rw [BitVec.ult_iff_toNat_lt, sext16_ofInt])
  case teqi => exact .of_exec hl rfl (decide_eq_true_iff.trans (eq_sext16_iff _ _))
  case tnei => exact .of_exec hl rfl (decide_eq_true_iff.trans (eq_sext16_iff _ _).not)

/-- Settles O22: each of the five encodings is the absent coprocessor's. -/
theorem cop2Absent : Obligations.Cop2Absent := by
  rintro rt base offset s hl i (rfl | rfl | rfl | rfl | rfl) <;> exact absentCop2_raises hl rfl

end Sys2Proof.Machine
end

section
/-! SUPPORT. The moves to and from coprocessor 0: what each register number reads and what a write to one changes (`44_system.md` R620 to
R625; `10_state.md` R113, R119 to R128). -/

namespace Sys2Proof.Machine

variable {s t : State}

/-! ### Masked writes -/

theorem masked_none {n : Nat} (old v : BitVec n) : masked 0#n old v = old := by
  rw [masked, BitVec.not_zero, BitVec.and_allOnes, BitVec.and_zero, BitVec.or_zero]

theorem masked_all {n : Nat} (old v : BitVec n) : masked (BitVec.allOnes n) old v = v := by
  rw [masked, BitVec.not_allOnes, BitVec.and_zero, BitVec.and_allOnes, BitVec.zero_or]

/-- Writes under disjoint masks commute. -/
theorem masked_comm {n : Nat} {m k : BitVec n} (h : m &&& k = 0#n) (old v w : BitVec n) :
    masked k (masked m old v) w = masked m (masked k old w) v := by
  apply BitVec.eq_of_getLsbD_eq
  intro i hi
  have hb : (m &&& k).getLsbD i = (0#n).getLsbD i := by rw [h]
  rw [BitVec.getLsbD_and, BitVec.getLsbD_zero] at hb
  simp only [getLsbD_masked]
  cases hm : m.getLsbD i <;> simp_all

theorem zext32_toNat (w : Word) : (zext32 w).toNat = w.toNat := BitVec.toNat_setWidth_of_le (by decide)

/-- A 32-bit register is written with the low word. -/
theorem zext32_masked (mask old : Word) (v : DWord) :
    zext32 (masked mask old (low32 v)) = masked (zext32 mask) (zext32 old) v := by
  apply BitVec.eq_of_getLsbD_eq
  intro i hi
  by_cases h : i < 32
  · simp only [zext32, low32, BitVec.getLsbD_setWidth, getLsbD_masked, h, hi, decide_true, Bool.true_and]
  · simp only [zext32, low32, BitVec.getLsbD_setWidth, getLsbD_masked, BitVec.getLsbD_of_ge _ i (Nat.le_of_not_lt h), Bool.and_false,
      Bool.false_eq_true, if_false]

theorem zext32_low32 (old : Word) (v : DWord) : zext32 (low32 v) = masked (zext32 (BitVec.allOnes 32)) (zext32 old) v := by
  rw [← zext32_masked, masked_all]

/-! ### Cause as read (R125, R128) -/

/-- The live lines of Cause: the aggregator in IP2, the external lines in IP6 to IP3. -/
def State.causeLines (s : State) : Word := (boolBit 32 s.miLine <<< 10) ||| (s.extIp.setWidth 32 <<< 11)

theorem causeView_eq (s : State) : s.causeView = masked 0x00007C00#32 s.cop0.cause s.causeLines := by
  have lines_in_mask : ∀ (b : Bool) (x : BitVec 4), let l : Word := (boolBit 32 b <<< 10) ||| (x.setWidth 32 <<< 11)
      l &&& 0x00007C00#32 = l := by decide
  rw [masked, State.causeLines, lines_in_mask, ← BitVec.or_assoc]
  rfl

/-- A write to Cause beside its live lines is read back as one. -/
theorem causeView_masked {m v : Word} (hm : m &&& 0x00007C00#32 = 0#32) (hc : t.cop0.cause = masked m s.cop0.cause v)
    (hl : t.causeLines = s.causeLines) : t.causeView = masked m s.causeView v := by
  rw [causeView_eq, causeView_eq, hc, hl, masked_comm hm]

theorem miLine_iff : s.miLine = true ↔ ∃ k : Fin 6, bit s.mi.intr k.val = true ∧ bit s.mi.mask k.val = true := by
  have some_bit : ∀ x : BitVec 6, x ≠ 0#6 ↔ ∃ k : Fin 6, bit x k.val = true := by decide
  rw [State.miLine, decide_eq_true_iff, some_bit]
  simp only [bit, BitVec.getLsbD_and, Bool.and_eq_true]

theorem bit_zext32 (w : Word) {k : Nat} (h : k < 32) : bit (zext32 w) k = bit w k := by
  rw [bit, zext32, BitVec.getLsbD_setWidth, decide_eq_true (by omega), Bool.true_and]

/-- The bits of Cause: IP2 the aggregator's line, IP6 to IP3 the external lines, the others stored. -/
theorem causeView_bits (s : State) :
    bit s.causeView 10 = s.miLine ∧ (∀ k : Fin 4, bit s.causeView (11 + k.val) = bit s.extIp k.val)
      ∧ ∀ k < 32, k < 10 ∨ 14 < k → bit s.causeView k = bit s.cop0.cause k := by
  have lines : ∀ (b : Bool) (x : BitVec 4), let l : Word := (boolBit 32 b <<< 10) ||| (x.setWidth 32 <<< 11)
      bit l 10 = b ∧ ∀ k : Fin 4, bit l (11 + k.val) = bit x k.val := by decide
  have live : ∀ k : Fin 4, bit 0x00007C00#32 (11 + k.val) = true := by decide
  have stored : ∀ k < 32, k < 10 ∨ 14 < k → bit 0x00007C00#32 k = false := by decide
  obtain ⟨aggregator, external⟩ := lines s.miLine s.extIp
  rw [causeView_eq]
  exact ⟨(getLsbD_masked _ _ _ _).trans aggregator, fun k => (getLsbD_masked _ _ _ _).trans ((if_pos (live k)).trans (external k)),
    fun k hk h => bit_masked_outside (stored k hk h) _ _⟩

/-! ### Registers by number (R624) -/

theorem toNat_count (s : State) : s.count.toNat = s.count33.toNat / 2 := by
  have := s.count33.isLt
  rw [State.count, toNat_bitField]
  omega

/-- What a register number reads depends on coprocessor 0, Count and the live lines of Cause. -/
theorem readCop0_congr (n : RegIdx) (hc : t.cop0 = s.cop0) (hn : t.count = s.count) (hl : t.causeView = s.causeView) :
    readCop0 n t = readCop0 n s := by
  unfold readCop0
  rw [hc, hn, hl]

theorem readCop0_retire (n : RegIdx) (s : State) : readCop0 n s.retire = readCop0 n s :=
  readCop0_congr n (by simp) (by simp [State.count]) (by simp [State.causeView, State.miLine])

/-! ### Writing a register (R625) -/

/-- A write register by register, where `Cop0.written` goes by number. -/
theorem Cop0.written_eq (n : Nat) (v : DWord) (c : Cop0) :
    c.written n v =
      { index := if n = 0 then masked 0x8000003F#32 c.index (low32 v) else c.index
        random := if n = 6 then 31#32 else c.random
        entryLo0 := if n = 2 then masked 0x000000003FFFFFFF#64 c.entryLo0 v else c.entryLo0
        entryLo1 := if n = 3 then masked 0x000000003FFFFFFF#64 c.entryLo1 v else c.entryLo1
        context := if n = 4 then masked 0xFFFFFFFFFF800000#64 c.context v else c.context
        pageMask := if n = 5 then masked 0x01FFE000#32 c.pageMask (low32 v) else c.pageMask
        wired := if n = 6 then masked 0x0000003F#32 c.wired (low32 v) else c.wired
        badVAddr := c.badVAddr
        entryHi := if n = 10 then masked 0xC00000FFFFFFE0FF#64 c.entryHi v else c.entryHi
        compare := if n = 11 then low32 v else c.compare
        status := if n = 12 then masked 0xFF57FFFF#32 c.status (low32 v) else c.status
        cause := if n = 13 then masked 0x00000300#32 c.cause (low32 v) else if n = 11 then setBit c.cause 15 false else c.cause
        epc := if n = 14 then v else c.epc
        config := if n = 16 then masked 0x0F00000F#32 c.config (low32 v) else c.config
        llAddr := if n = 17 then low32 v else c.llAddr
        watchLo := if n = 18 then masked 0xFFFFFFFB#32 c.watchLo (low32 v) else c.watchLo
        watchHi := if n = 19 then masked 0x0000000F#32 c.watchHi (low32 v) else c.watchHi
        xContext := if n = 20 then masked 0xFFFFFFFE00000000#64 c.xContext v else c.xContext
        parityError := if n = 26 then masked 0x000000FF#32 c.parityError (low32 v) else c.parityError
        tagLo := if n = 28 then masked 0x0FFFFFC0#32 c.tagLo (low32 v) else c.tagLo
        errorEpc := if n = 30 then v else c.errorEpc } := by
  unfold Cop0.written
  split
  case h_20 => simp_all
  all_goals rfl

theorem writeCop0_cop0 (n : RegIdx) (v : DWord) (s : State) : (writeCop0 n v s).cop0 = s.cop0.written n.val v := by
  unfold writeCop0; split <;> rfl

theorem writeCop0_count33 (n : RegIdx) (v : DWord) (s : State) :
    (writeCop0 n v s).count33 = if n.val = 9 then low32 v ++ 0#1 else s.count33 := by
  unfold writeCop0
  split
  case h_1 h => rw [if_pos h]; rfl
  case h_2 h => rw [h]; rfl
  case h_3 h _ => rw [if_neg h]

theorem writeCop0_count (n : RegIdx) (v : DWord) (s : State) : (writeCop0 n v s).count = if n.val = 9 then low32 v else s.count := by
  rw [State.count, writeCop0_count33]
  split
  · exact BitVec.extractLsb'_append_eq_left
  · rfl

theorem writeCop0_causeLines (n : RegIdx) (v : DWord) (s : State) : (writeCop0 n v s).causeLines = s.causeLines := by
  simp [State.causeLines, State.miLine]

theorem writeCop0_causeView (n : RegIdx) (v : DWord) (s : State) :
    (writeCop0 n v s).causeView =
      if n.val = 13 then masked 0x00000300#32 s.causeView (low32 v)
      else if n.val = 11 then masked 0x00008000#32 s.causeView 0#32
      else s.causeView := by
  have hc := congrArg Cop0.cause ((writeCop0_cop0 n v s).trans (Cop0.written_eq n.val v s.cop0))
  have hl := writeCop0_causeLines n v s
  split
  case isTrue h => exact causeView_masked (by decide) (hc.trans (if_pos h)) hl
  case isFalse h =>
    rw [if_neg h] at hc
    split
    case isTrue h => exact causeView_masked (by decide) (hc.trans (if_pos h)) hl
    case isFalse h => rw [causeView_eq, causeView_eq, hc.trans (if_neg h), hl]

/-- The register written takes the writable bits of the value (R113). -/
theorem readCop0_written (n : RegIdx) (v : DWord) (s : State) :
    readCop0 n (writeCop0 n v s) = masked (cop0Mask n) (readCop0 n s) v := by
  unfold readCop0 cop0Mask
  simp only [writeCop0_cop0, Cop0.written_eq, writeCop0_count, writeCop0_causeView]
  split
  all_goals
    rename_i h
    simp only [h, if_true]
  -- Random, BadVAddr, PRId and the unused numbers take no bit; Count, Compare and LLAddr the whole low word; EPC and ErrorEPC every bit.
  case h_2 | h_8 | h_15 | h_24 => exact (masked_none _ _).symm
  case h_9 | h_11 | h_17 => exact zext32_low32 _ _
  case h_14 | h_23 => exact (masked_all _ _).symm
  all_goals exact zext32_masked _ _ _

/-- Every other number reads as before but for Random after a write to Wired and IP7 after one to Compare (R119, R123). -/
theorem readCop0_others {n m : RegIdx} (h : m ≠ n) (v : DWord) (s : State) :
    readCop0 m (writeCop0 n v s) = cop0Side n m (readCop0 m s) := by
  have hv : m.val ≠ n.val := fun e => h (Fin.ext e)
  unfold readCop0
  simp only [writeCop0_cop0, Cop0.written_eq, writeCop0_count, writeCop0_causeView, cop0Side, Fin.ext_iff]
  split
  case h_24 => simp [show m.val ≠ 1 from ‹m.val = 1 → False›]
  all_goals
    rename_i hm
    rw [hm] at hv
    simp [hm, hv.symm]
  case h_2 => split <;> rfl
  case h_13 =>
    split
    · exact (zext32_masked _ _ 0#64).trans BitVec.or_zero
    · rfl

theorem writeCop0_eq (n : RegIdx) (v : DWord) (s : State) :
    writeCop0 n v s =
      { s with cop0 := s.cop0.written n.val v, sched := (writeCop0 n v s).sched, count33 := (writeCop0 n v s).count33 } := by
  unfold writeCop0; split <;> rfl

/-- The cycles to the next match, from Count and Compare (R905). -/
theorem compareDelay_eq (count compare : Word) :
    (compareDelay count compare : Int) = 2 * ((compare.toNat + 2 ^ 33 - count.toNat - 1) % 2 ^ 32 + 1) := by
  have := count.isLt
  rw [compareDelay, BitVec.toNat_sub, BitVec.toNat_sub]
  simp only [BitVec.toNat_ofNat]
  omega

theorem writeCop0_sched_timer {n : RegIdx} (h : n = 9 ∨ n = 11) (v : DWord) (s : State) :
    (writeCop0 n v s).sched = s.sched.change .compareInterrupt
      (compareDelay (writeCop0 n v s).count (writeCop0 n v s).cop0.compare) s.elapsed := by
  rcases h with rfl | rfl <;> rfl

theorem writeCop0_sched_other {n : RegIdx} (h9 : n ≠ 9) (h11 : n ≠ 11) (v : DWord) (s : State) : (writeCop0 n v s).sched = s.sched := by
  unfold writeCop0
  split
  case h_1 h => exact absurd (Fin.ext h) h9
  case h_2 h => exact absurd (Fin.ext h) h11
  case h_3 => rfl

/-! ### How a move ends -/

/-- The end of an instruction that wrote coprocessor 0, the TLB, or Count and the scheduler. -/
theorem retire_wroteSystem (c : Cop0) (tlb : Vector TlbEntry 32) (q : Scheduler) (k : BitVec 33) (s : State) :
    WroteSystem { s with sched := q, count33 := k } (State.retire { s with cop0 := c, tlb := tlb, sched := q, count33 := k }) where
  gpr := fun _ => by simp [State.x]
  hiLo := ⟨by simp, by simp⟩
  rest :=
    { fpu := ⟨by simp, by simp⟩
      memory := ⟨by simp, by simp, by simp⟩
      platform := by constructor <;> simp
      completed := (retire_completed _).of_eq rfl rfl rfl rfl rfl }

theorem retire_wroteCop0 (n : RegIdx) (v : DWord) (s : State) : WroteCop0 n v s (writeCop0 n v s).retire := by
  have frame := retire_wroteSystem (s.cop0.written n.val v) s.tlb (writeCop0 n v s).sched (writeCop0 n v s).count33 s
  rw [← writeCop0_eq] at frame
  exact
    { written := (readCop0_retire _ _).trans (readCop0_written n v s)
      others := fun m h => (readCop0_retire _ _).trans (readCop0_others h v s)
      count := fun h => (retire_count33 _).trans ((writeCop0_count33 n v s).trans (if_neg fun e => h (Fin.ext e)))
      countWritten := fun h => (retire_count33 _).trans ((writeCop0_count33 n v s).trans (if_pos (congrArg Fin.val h)))
      timer := fun h => by
        rw [retire_sched, writeCop0_sched_timer h, compareDelay_eq, retire_cop0, State.count, State.count, retire_count33]
      noTimer := fun h9 h11 => by rw [retire_sched, writeCop0_sched_other h9 h11]
      llBit := by simp
      tlb := by simp
      gpr := frame.gpr
      hiLo := frame.hiLo
      fpu := frame.rest.fpu
      memory := frame.rest.memory
      platform := by rw [retire_sched, retire_count33]; exact frame.rest.platform
      completed := frame.rest.completed.of_eq rfl rfl rfl rfl rfl }

/-- A doubleword move checks for 64-bit operations once coprocessor 0 is usable (R841). -/
theorem doublewordMove_gate {i : Instr} {k : State → Result} (hu : s.cop0Usable) (he : exec i s = withCop 0#2 (with64 k) s) :
    (s.ops64 → exec i s = k s) ∧ (s.excLatch = false → s.ops64Denied → Raises i .ri s) where
  left h := by rw [he, withCop0_open hu, with64_open k h]
  right hl hd := Raises.of_exec hl (by rw [he, withCop0_open hu, with64_denied k hd])

/-! ### The statements -/

/-- Settles O45: both moves write what `readCop0` gives, and each number is read against its register. -/
theorem cop0Reads : Obligations.Cop0Reads := by
  refine ⟨fun rt rd s => ⟨fun hl hd => ⟨cop0Privilege _ s hl hd rfl, cop0Privilege _ s hl hd rfl⟩, fun hu => ?moves⟩,
    fun s => ?numbers⟩
  case moves =>
    obtain ⟨allowed, denied⟩ := doublewordMove_gate (i := .dmfc0 rt rd) hu rfl
    exact ⟨Answers.of_word (withCop0_open hu) rfl, fun h => Answers.of_double (allowed h) rfl, denied⟩
  case numbers =>
    refine ⟨zext32_toNat _, zext32_toNat _, rfl, rfl, rfl, zext32_toNat _, zext32_toNat _, rfl, ?count, rfl, zext32_toNat _,
      zext32_toNat _, rfl, rfl, zext32_toNat _, zext32_toNat _, zext32_toNat _, zext32_toNat _, rfl, zext32_toNat _, zext32_toNat _, rfl,
      ?unused, ?cause⟩
    case count => exact (zext32_toNat _).trans (toNat_count s)
    case unused =>
      intro n hn
      fin_cases hn <;> rfl
    case cause =>
      obtain ⟨aggregator, external, stored⟩ := causeView_bits s
      refine ⟨(zext32_toNat _).trans_lt (BitVec.isLt _), ?_, fun k => (bit_zext32 _ (by omega)).trans (external k),
        fun k hk h => (bit_zext32 _ hk).trans (stored k hk h)⟩
      rw [← miLine_iff, ← aggregator]
      exact iff_of_eq (congrArg (· = true) (bit_zext32 _ (by decide)))

/-- Settles O46: both moves end in `writeCop0`, and what each number reads after it is said in `readCop0_written` and `readCop0_others`. -/
theorem cop0Writes : Obligations.Cop0Writes := by
  intro rt rd s
  refine ⟨fun hl hd => ⟨cop0Privilege _ s hl hd rfl, cop0Privilege _ s hl hd rfl⟩, fun hu => ?_⟩
  obtain ⟨allowed, denied⟩ := doublewordMove_gate (i := .dmtc0 rt rd) hu rfl
  exact ⟨⟨_, withCop0_open hu, retire_wroteCop0 _ _ _⟩, fun h => ⟨_, allowed h, retire_wroteCop0 _ _ _⟩, denied⟩

end Sys2Proof.Machine
end

section
/-! SUPPORT. The TLB instructions: the entry a write builds, the registers a read gives, and the index a probe finds (`44_system.md` R630 to
R635). -/

namespace Sys2Proof.Machine

variable {i : Instr} {P : State → Prop} {c : Cop0} {e : TlbEntry} {s t : State}

/-! ### The entry a write builds (R634) -/

/-- Both bits of a pair of mask bits are its upper bit (D40). -/
theorem normaliseMask_bits (m : BitVec 12) (k : Fin 6) :
    bit (normaliseMask m) (2 * k.val + 1) = bit m (2 * k.val + 1) ∧ bit (normaliseMask m) (2 * k.val) = bit m (2 * k.val + 1) := by
  fin_cases k <;> simp [normaliseMask]

theorem bit_bitField {n lo len k : Nat} (v : BitVec n) (hk : k < len) : bit (bitField v lo len) k = bit v (lo + k) := by
  rw [bit, BitVec.getLsbD_extractLsb', decide_eq_true hk, Bool.true_and]

theorem tlbEntry_written (c : Cop0) : EntryWritten c c.tlbEntry where
  mask k := by
    obtain ⟨upper, lower⟩ := normaliseMask_bits (bitField c.pageMask 13 12) k
    have hk : 2 * k.val + 1 < 12 := by omega
    exact ⟨upper.trans (bit_bitField _ hk), lower.trans (bit_bitField _ hk)⟩
  vpn2 := rfl
  r := rfl
  asid := rfl
  g := rfl
  lo0 := rfl
  lo1 := rfl

/-! ### The registers a read gives (R630) -/

/-- A field above a smaller number. -/
theorem toNat_field_or {w k : Nat} (x : BitVec w) {low : DWord} (hk : w + k ≤ 64) (hl : low.toNat < 2 ^ k) :
    (x.setWidth 64 <<< k ||| low).toNat = x.toNat * 2 ^ k + low.toNat := by
  have hx : x.toNat * 2 ^ k < 2 ^ 64 :=
    calc x.toNat * 2 ^ k < 2 ^ w * 2 ^ k := Nat.mul_lt_mul_of_pos_right x.isLt (by positivity)
      _ = 2 ^ (w + k) := (pow_add 2 w k).symm
      _ ≤ 2 ^ 64 := Nat.pow_le_pow_right (by decide) hk
  rw [BitVec.toNat_or, BitVec.toNat_shiftLeft, BitVec.toNat_setWidth_of_le (by omega), Nat.shiftLeft_eq, Nat.mod_eq_of_lt hx,
    ← Nat.shiftLeft_eq, ← Nat.shiftLeft_add_eq_or_of_lt hl]

theorem boolBit_eq (b : Bool) : boolBit 64 b = (BitVec.ofBool b).setWidth 64 := by cases b <;> rfl

theorem toNat_toEntryHi (e : TlbEntry) : e.toEntryHi.toNat = e.r.toNat * 2 ^ 62 + e.vpn2.toNat * 2 ^ 13 + e.asid.toNat := by
  have hv := e.vpn2.isLt
  have ha := e.asid.isLt
  have asid : (e.asid.setWidth 64).toNat = e.asid.toNat := BitVec.toNat_setWidth_of_le (by decide)
  have vpn2 := toNat_field_or (k := 13) e.vpn2 (low := e.asid.setWidth 64) (by decide) (by omega)
  rw [TlbEntry.toEntryHi, BitVec.or_assoc, toNat_field_or _ (by decide) (by omega), vpn2, asid, Nat.add_assoc]

theorem toNat_toEntryLo (g : Bool) (h : TlbHalf) :
    (h.toEntryLo g).toNat = h.pfn.toNat * 64 + h.c.toNat * 8 + h.d.toNat * 4 + h.v.toNat * 2 + g.toNat := by
  have hc := h.c.isLt
  have hd := (BitVec.ofBool h.d).isLt
  have hv := (BitVec.ofBool h.v).isLt
  have hg := Bool.toNat_lt g
  have g0 : ((BitVec.ofBool g).setWidth 64).toNat = g.toNat := by cases g <;> rfl
  have v1 := toNat_field_or (k := 1) (BitVec.ofBool h.v) (low := (BitVec.ofBool g).setWidth 64) (by decide) (by omega)
  have d2 := toNat_field_or (k := 2) (BitVec.ofBool h.d) (low := _) (by decide) (v1.trans_lt (by omega))
  have c3 := toNat_field_or (k := 3) h.c (low := _) (by decide) (d2.trans_lt (by omega))
  have pfn6 := toNat_field_or (k := 6) h.pfn (low := _) (by decide) (c3.trans_lt (by omega))
  rw [TlbHalf.toEntryLo, boolBit_eq, boolBit_eq, boolBit_eq, BitVec.or_assoc, BitVec.or_assoc, BitVec.or_assoc, pfn6, c3, d2, v1, g0,
    BitVec.toNat_ofBool, BitVec.toNat_ofBool]
  omega

theorem toNat_pageMask (m : BitVec 12) : (m.setWidth 32 <<< 13 : Word).toNat = m.toNat * 2 ^ 13 := by
  have := m.isLt
  rw [BitVec.toNat_shiftLeft, BitVec.toNat_setWidth_of_le (by decide), Nat.shiftLeft_eq, Nat.mod_eq_of_lt (by omega)]

theorem readEntry_read (e : TlbEntry) (c : Cop0) : EntryRead e (c.readEntry e) where
  pageMask := toNat_pageMask _
  entryHi := toNat_toEntryHi _
  entryLo0 := toNat_toEntryLo _ _
  entryLo1 := toNat_toEntryLo _ _

/-! ### What is read back (R635) -/

theorem EntryRead.mask_field (h : EntryRead e c) : bitField c.pageMask 13 12 = e.mask := by
  have := e.mask.isLt
  apply BitVec.eq_of_toNat_eq
  rw [toNat_bitField, h.pageMask]
  omega

theorem EntryRead.pageMask_bit (h : EntryRead e c) {k : Nat} (hk : k < 12) : bit c.pageMask (13 + k) = bit e.mask k := by
  rw [← h.mask_field, bit_bitField _ hk]

theorem EntryRead.pageMask_fixed (h : EntryRead e c) : c.pageMask &&& 0xFE001FFF#32 = 0#32 := by
  rw [BitVec.eq_of_toNat_eq (h.pageMask.trans (toNat_pageMask e.mask).symm)]
  exact shifted_and_eq_zero (by decide) _

theorem EntryRead.entryHi_fields (h : EntryRead e c) :
    bitField c.entryHi 62 2 = e.r ∧ bitField c.entryHi 0 8 = e.asid ∧ bitField c.entryHi 13 27 = e.vpn2 := by
  have hr := e.r.isLt
  have hv := e.vpn2.isLt
  have ha := e.asid.isLt
  refine ⟨?_, ?_, ?_⟩ <;>
  · apply BitVec.eq_of_toNat_eq
    rw [toNat_bitField, h.entryHi]
    omega

theorem EntryRead.entryHi_fixed (h : EntryRead e c) : c.entryHi &&& 0x3FFFFF0000001F00#64 = 0#64 := by
  rw [BitVec.eq_of_toNat_eq (h.entryHi.trans (toNat_toEntryHi e).symm)]
  exact toEntryHi_fixed e

theorem toNat_bit {n : Nat} (v : BitVec n) (k : Nat) : (bit v k).toNat = v.toNat / 2 ^ k % 2 := Nat.toNat_testBit _ _

/-- A half of an entry gives back bits 29 to 1 of the register it came from, and bit 0 is the entry's G. -/
theorem entryLo_fields {u v : DWord} {g : Bool}
    (h : u.toNat = (bitField v 6 24).toNat * 64 + (bitField v 3 3).toNat * 8 + (bit v 2).toNat * 4 + (bit v 1).toNat * 2 + g.toNat) :
    bitField u 1 29 = bitField v 1 29 ∧ bit u 0 = g := by
  have hg := Bool.toNat_lt g
  rw [toNat_bitField, toNat_bitField, toNat_bit, toNat_bit] at h
  constructor
  · apply BitVec.eq_of_toNat_eq
    rw [toNat_bitField, toNat_bitField]
    omega
  · have h0 : (bit u 0).toNat = g.toNat := by
      rw [toNat_bit]
      omega
    cases hb : bit u 0 <;> cases g <;> simp_all

/-! ### How the TLB instructions end -/

theorem Answers.of_next (h : Answers i s P) (he : exec i s = .next t) : P t := by
  obtain ⟨u, hu, hp⟩ := h
  cases hu.symm.trans he
  exact hp

theorem lowFive_val (w : Word) : (bitField w 0 5).toFin.val = w.toNat % 32 :=
  (toNat_bitField w 0 5).trans (congrArg (· % 32) (Nat.div_one _))

theorem tlbWrite_wroteTlb (k : Fin 32) (s : State) : WroteTlb k.val s (tlbWrite k s).retire where
  entry j h := by
    cases Fin.ext h
    simpa [tlbWrite] using tlbEntry_written s.cop0
  others j h := by simp [tlbWrite, Vector.getElem_set_ne _ _ (Ne.symm h)]
  cop0 := by simp
  llBit := by simp
  frame := retire_wroteSystem s.cop0 (s.tlb.set k.val s.cop0.tlbEntry) s.sched s.count33 s

/-- A TLB write to the entry that the low five bits of a register select (D42). -/
theorem Answers.of_tlbWrite {w : Word} (he : exec i s = (tlbWrite (bitField w 0 5).toFin s).done) :
    Answers i s (WroteTlb (w.toNat % 32) s) :=
  ⟨_, he, lowFive_val w ▸ tlbWrite_wroteTlb _ s⟩

theorem tlbwi_answers (hu : s.cop0Usable) : Answers .tlbwi s (WroteTlb (s.cop0.index.toNat % 32) s) := .of_tlbWrite (withCop0_open hu)

/-- TLBR writes the registers of the entry that Index selects, and nothing else (R630). -/
theorem tlbr_answers (hu : s.cop0Usable) :
    Answers .tlbr s fun t =>
      t.cop0 = s.cop0.readEntry s.tlb[s.indexEntry.val] ∧ t.llBit = s.llBit ∧ t.tlb = s.tlb ∧ WroteSystem s t :=
  ⟨_, withCop0_open hu, retire_cop0 _, retire_llBit _, retire_tlb _, retire_wroteSystem _ s.tlb s.sched s.count33 s⟩

theorem State.cop0Usable.of_cop0 (hu : s.cop0Usable) (h : t.cop0 = s.cop0) : t.cop0Usable := by
  rw [State.cop0Usable, mode_of_cop0 h, State.cu, State.status, h]
  exact hu

/-! ### The statements -/

/-- Settles O43: the entry is written and read field by field, and a round trip composes the two. -/
theorem tlbWriteRead : Obligations.TlbWriteRead := by
  intro s
  refine ⟨fun hl hd => ⟨cop0Privilege _ s hl hd rfl, cop0Privilege _ s hl hd rfl, cop0Privilege _ s hl hd rfl⟩,
    fun hu => ⟨tlbwi_answers hu, .of_tlbWrite (withCop0_open hu), ?read, fun t u ht hu' => ?roundTrip⟩⟩
  case read =>
    obtain ⟨t, ht, hc, hll, htlb, frame⟩ := tlbr_answers hu
    refine ⟨t, ht, fun k hk => ?_, by rw [hc]; rfl, hll, htlb, frame⟩
    cases (Fin.ext (hk.trans (lowFive_val _).symm) : k = s.indexEntry)
    exact hc ▸ readEntry_read _ _
  case roundTrip =>
    have write := (tlbwi_answers hu).of_next ht
    obtain ⟨hc, -⟩ := (tlbr_answers (hu.of_cop0 write.cop0)).of_next hu'
    have hw : EntryWritten s.cop0 t.tlb[t.indexEntry.val] := write.entry t.indexEntry (write.cop0 ▸ lowFive_val _)
    have hr : EntryRead t.tlb[t.indexEntry.val] u.cop0 := hc ▸ readEntry_read _ _
    obtain ⟨r, asid, vpn2⟩ := hr.entryHi_fields
    obtain ⟨lo0, g0⟩ := entryLo_fields (v := s.cop0.entryLo0) (hw.lo0 ▸ hr.entryLo0)
    obtain ⟨lo1, g1⟩ := entryLo_fields (v := s.cop0.entryLo1) (hw.lo1 ▸ hr.entryLo1)
    refine ⟨fun k => ?pair, hr.pageMask_fixed, r.trans hw.r, asid.trans hw.asid, by rw [hr.mask_field, vpn2, hw.vpn2],
      hr.entryHi_fixed, lo0, lo1, g0.trans hw.g, g1.trans hw.g⟩
    case pair =>
      obtain ⟨upper, lower⟩ := hw.mask k
      exact ⟨(hr.pageMask_bit (by omega)).trans lower, (hr.pageMask_bit (k := 2 * k.val + 1) (by omega)).trans upper⟩

/-- Settles O44 (`tlbProbe` is the model's own function): a probe is the lookup of translation on EntryHi, which finds the first entry that hits. -/
theorem tlbProbe_finds_first : Obligations.TlbProbe := by
  intro s
  refine ⟨fun hl hd => cop0Privilege _ s hl hd rfl, fun hu => ⟨(tlbProbe s).retire, withCop0_open hu, ?_⟩⟩
  dsimp only
  rw [retire_cop0, retire_llBit, retire_tlb]
  refine ⟨fun k hk before => ⟨?found, fun hv => ?lookup⟩, fun misses => ?notFound, rfl, rfl, rfl, ?frame⟩
  case found => exact congrArg (probeIndex · s.cop0.index) (tlbFind_first hk before)
  case lookup =>
    obtain ⟨-, -, valid⟩ := (tlbPages.2 s.cop0.entryHi .load s).2 k hk before
    exact valid hv (.inl nofun)
  case notFound => exact congrArg (probeIndex · s.cop0.index) (tlbFind_none misses)
  case frame => exact retire_wroteSystem (tlbProbe s).cop0 s.tlb s.sched s.count33 s

end Sys2Proof.Machine
end

section
/-! SUPPORT. The instructions of coprocessor 1 (`45_fpu.md` R700 to R763): the gate, loads and stores, moves, branches, and the ends of the
operations that take an answer of the numerics. What the numerics answer at their defaults is said in the sections after this. -/

namespace Sys2Proof.Machine

variable {i : Instr} {f : FpFmt} {n ft base fs : RegIdx} {offset : Half} {size : Nat} {pa : Word} {cacheable : Bool}
  {k : State → Result} {s m : State}

/-! ### Usable (R701) -/

/-- With CU1 = 1 an instruction of coprocessor 1 is what stands behind its check. -/
theorem withCop1_open (h : s.cu 1 = true) : withCop 1#2 k s = k s := withCop_open (by decide) h

/-- Every instruction of coprocessor 1 checks first that it is usable (R701). -/
theorem isCop1_exec (h : Instr.isCop1 i = true) : ∃ k, exec i s = withCop 1#2 k s := by
  cases i
  case lwc1 | ldc1 | swc1 | sdc1 | mfc1 | dmfc1 | cfc1 | mtc1 | dmtc1 | ctc1 | bc1f | bc1t | bc1fl | bc1tl | addS | addD
      | subS | subD | mulS | mulD | divS | divD | sqrtS | sqrtD | absS | absD | movS | movD | negS | negD | roundLS | roundLD
      | truncLS | truncLD | ceilLS | ceilLD | floorLS | floorLD | roundWS | roundWD | truncWS | truncWD | ceilWS | ceilWD
      | floorWS | floorWD | cvtSD | cvtSW | cvtSL | cvtDS | cvtDW | cvtDL | cvtWS | cvtWD | cvtLS | cvtLD | cFS | cFD | cUnS
      | cUnD | cEqS | cEqD | cUeqS | cUeqD | cOltS | cOltD | cUltS | cUltD | cOleS | cOleD | cUleS | cUleD | cSfS | cSfD
      | cNgleS | cNgleD | cSeqS | cSeqD | cNglS | cNglD | cLtS | cLtD | cNgeS | cNgeD | cLeS | cLeD | cNgtS | cNgtD =>
    exact ⟨_, rfl⟩
  all_goals cases h

/-- Only the two 64-bit moves of coprocessor 1 check for 64-bit operations, and neither is privileged (R330, R332). -/
theorem not_privileged_of_isCop1 (h : Instr.isCop1 i = true) : ¬Instr.privileged i = true := by
  intro hp
  cases i
  case mfc0 | dmfc0 | mtc0 | dmtc0 | tlbr | tlbwi | tlbwr | tlbp | eret | cache => cases h
  all_goals cases hp

/-- Settles O48: the check of coprocessor 1 comes first, and with CU1 = 1 the two 64-bit moves are among those of `gate64`. -/
theorem cop1Unusable : Obligations.Cop1Unusable := by
  intro i s hl h1
  obtain ⟨k, he⟩ := isCop1_exec (s := s) h1
  refine ⟨fun hd => Raises.of_exec hl (he.trans (withCop_denied (by decide) hd)), fun hu hg hd => ?_⟩
  exact gate64 i s hl hg hd (fun hp => absurd hp (not_privileged_of_isCop1 h1)) fun _ => hu

/-! ### The view of the registers (R700) -/

theorem evenReg_val (n : RegIdx) : (evenReg n).val = n.val - n.val % 2 := rfl

theorem fgr32_low (h : s.fr = true ∨ n.val % 2 = 0) : s.fgr32 n = bitField s.fpr[n.val] 0 32 := by
  unfold State.fgr32
  by_cases hf : s.fr = true
  · rw [if_pos hf]
  · rw [if_neg hf, if_pos (h.resolve_left hf)]

theorem fgr32_high {k : RegIdx} (hf : s.fr = false) (hn : n.val % 2 = 1) (hk : k.val + 1 = n.val) :
    s.fgr32 n = bitField s.fpr[k.val] 32 32 := by
  obtain rfl : evenReg n = k := Fin.ext (by rw [evenReg_val]; omega)
  rw [State.fgr32, if_neg (Bool.eq_false_iff.mp hf), if_neg (by omega)]

theorem fgr64_full (h : s.fr = true) : s.fgr64 n = s.fpr[n.val] := if_pos h

theorem fgr64_even {k : RegIdx} (hf : s.fr = false) (hk : k.val = n.val - n.val % 2) : s.fgr64 n = s.fpr[k.val] := by
  obtain rfl : evenReg n = k := Fin.ext (by rw [evenReg_val, hk])
  exact if_neg (Bool.eq_false_iff.mp hf)

theorem low32_zext32 (w : Word) : low32 (zext32 w) = w := BitVec.setWidth_setWidth_of_le _ (by decide)

/-- An instruction that ends by writing through the view, FCSR unchanged. -/
theorem fpWrite_done_answers (f : FpFmt) (n : RegIdx) (v : DWord) (s : State) :
    ∃ t, (s.fpWrite f n v).done = .next t ∧ FprSet f n v s t ∧ t.fcsr = s.fcsr ∧ WroteFpu s t := by
  have only := fpWrite_only f n v s
  have fcsr : (s.fpWrite f n v).fcsr = s.fcsr := by rw [only]
  exact ⟨_, rfl, (fpWrite_fprSet f n v s).congr rfl rfl (retire_fpr _), (retire_fcsr _).trans fcsr,
    retire_wroteFpu (by rw [fcsr]; exact only)⟩

/-! ### Loads and stores (R710 to R713) -/

/-- A load that ends by writing through the view. -/
theorem fpWrite_done_loaded (hb : SameBut s m) (hm : LoadMemory cacheable pa s m)
    (hc : m.stepCycles = s.stepCycles + s.accessCycles cacheable pa size) (f : FpFmt) (n : RegIdx) (v : DWord) :
    ∃ t, (m.fpWrite f n v).done = .next t ∧ LoadedFpu cacheable pa size s t ∧ FprSet f n v s t := by
  obtain ⟨t, ht, hset, hfcsr, hw⟩ := fpWrite_done_answers f n v m
  have hk := hb.completed hc hw.completed
  have hp := hw.platform.trans hb.platform
  obtain ⟨mem, dc, cy, rfl⟩ := hb.exists_eq
  exact ⟨t, ht, ⟨hw.gpr, hw.hiLo, hw.system, hfcsr, hm.of_same hw.memory, hp, hk⟩, hset.congr rfl rfl rfl⟩

theorem Answers.of_fpLoad (hu : s.cu 1 = true)
    (he : exec i s = withCop 1#2 (fun s => (memRead (effectiveAddress base offset s) size s).finish fun v s => (s.fpWrite f n v).done) s)
    (hn : size = 1 ∨ size = 2 ∨ size = 4 ∨ size = 8) (hr : Ready .load (effectiveAddress base offset s) size pa cacheable s) :
    Answers i s fun t => LoadedFpu cacheable pa size s t ∧ FprSet f n (s.seenValue cacheable pa size) s t := by
  obtain ⟨m, hok, hb, -, hm, hc⟩ := memRead_ready hr hn
  rw [Answers, he, withCop1_open hu, hok, finish_ok]
  exact fpWrite_done_loaded hb hm hc f n _

theorem Answers.of_fpStore (hu : s.cu 1 = true)
    (he : exec i s = withCop 1#2 (fun s => (memWrite (effectiveAddress base offset s) size (s.fpRead f n) s).finish fun _ s => s.done) s)
    (hr : Ready .store (effectiveAddress base offset s) size pa cacheable s) :
    Answers i s (Stored cacheable pa (storeBytes size (s.fpRead f n)) s) := by
  obtain ⟨m, hok, hb, -, hm, hc⟩ := memWrite_ready hr (s.fpRead f n)
  rw [Answers, he, withCop1_open hu, hok, finish_ok]
  rw [wholeBytes_eq] at hm
  exact done_stored hb hm (by rwa [length_storeBytes])

/-- Settles O49: words go through the view of W, doublewords through that of L. -/
theorem fpLoadsStores : Obligations.FpLoadsStores := by
  intro ft base offset pa cacheable s hu
  refine ⟨?lwc1, ?ldc1, ?swc1, ?sdc1⟩
  case lwc1 => exact Answers.of_fpLoad (f := .w) hu rfl (by decide)
  case ldc1 => exact Answers.of_fpLoad (f := .l) hu rfl (by decide)
  case swc1 => exact Answers.of_fpStore (f := .w) hu rfl
  case sdc1 => exact Answers.of_fpStore (f := .l) hu rfl

/-! ### Moves (R714 to R719, R736) -/

theorem fcsrTraps_iff (w : Word) : fcsrTraps w = true ↔ bit w 17 = true ∨ bitField w 12 5 &&& bitField w 7 5 ≠ 0#5 := by
  rw [fcsrTraps, Bool.or_eq_true, decide_eq_true_iff]
  rfl

theorem writeFcr_other (h : n ≠ 31) (w : Word) (s : State) : writeFcr n w s = s.done := if_neg h

theorem writeFcr_fcsr (w : Word) (s : State) :
    writeFcr 31 w s =
      if fcsrTraps (w &&& 0x0183FFFF#32) then .next (takeException .fpe (s.setFcsr (w &&& 0x0183FFFF#32)))
      else (s.setFcsr (w &&& 0x0183FFFF#32)).done := rfl

/-- An instruction that ends by writing FCSR only. -/
theorem setFcsr_done_answers (w : Word) (s : State) :
    ∃ t, (s.setFcsr w).done = .next t ∧ t.fcsr = w ∧ t.fpr = s.fpr ∧ WroteFpu s t :=
  ⟨_, rfl, by simp [State.setFcsr], by simp, retire_wroteFpu rfl⟩

/-- Settles O50: each move ends by writing one register through its view; CTC1 may find a cause to trap on in what it wrote. -/
theorem fpMoves : Obligations.FpMoves := by
  refine ⟨fun n k s => ⟨fgr32_low, fgr32_high, fgr64_full, fgr64_even⟩, ?_⟩
  intro rt fs fd s hl hu w
  refine ⟨?mfc1, ?dmfc1, ?cfc1, ?mtc1, ?dmtc1, ?movS, ?movD, fun hfs => ?ctc1Other, fun he hc => ?ctc1, fun ht => ?ctc1Trap⟩
  case mfc1 | cfc1 => exact Answers.of_word (withCop1_open hu) rfl
  case dmfc1 => exact Gated64.of_exec hl (withCop1_open hu) fun _ ho => Answers.of_double ho rfl
  case mtc1 =>
    rw [Answers, show exec (.mtc1 rt fs) s = _ from withCop1_open hu]
    exact fpWrite_done_answers .w fs (s.x rt) s
  case dmtc1 =>
    refine Gated64.of_exec hl (withCop1_open hu) fun _ ho => ?_
    rw [Answers, ho]
    exact fpWrite_done_answers .l fs (s.x rt) s
  case movS =>
    rw [Answers, show exec (.movS fd fs) s = _ from withCop1_open hu, ← low32_zext32 (s.fgr32 fs)]
    exact fpWrite_done_answers .s fd (zext32 (s.fgr32 fs)) s
  case movD =>
    rw [Answers, show exec (.movD fd fs) s = _ from withCop1_open hu]
    exact fpWrite_done_answers .d fd (s.fgr64 fs) s
  case ctc1Other =>
    rw [Answers, show exec (.ctc1 rt fs) s = _ from withCop1_open hu, writeFcr_other hfs]
    exact done_answers s
  case ctc1 =>
    have ht : ¬fcsrTraps w = true := by
      rw [fcsrTraps_iff, he, hc]
      nofun
    rw [Answers, show exec (.ctc1 rt 31) s = _ from withCop1_open hu, writeFcr_fcsr, if_neg ht]
    exact setFcsr_done_answers w s
  case ctc1Trap =>
    have he : exec (.ctc1 rt 31) s = .next (takeException .fpe (s.setFcsr w)) :=
      (withCop1_open hu).trans ((writeFcr_fcsr _ s).trans (if_pos ((fcsrTraps_iff w).mpr ht)))
    exact ⟨_, he, takeException_taken .fpe (s.setFcsr w) hl⟩

/-! ### Branches on the condition bit (R720 to R723) -/

/-- Settles O51: each is a branch on FCSR.C that links nothing. -/
theorem fpBranches : Obligations.FpBranches := by
  intro offset s hu
  have target := branchTargetOf_eq offset s
  refine ⟨?bc1f, ?bc1t, ?bc1fl, ?bc1tl⟩
  case bc1f | bc1t => exact Answers.of_branch (withCop1_open hu) rfl target
  case bc1fl | bc1tl => exact Answers.of_branchLikely (withCop1_open hu) rfl target

/-! ### Operations (R703, R740 to R751) -/

/-- Settles O53: each conversion is the operation of R703 in its own rounding mode, from the view of its source to that of its
result. -/
theorem fpConversions : Obligations.FpConversions := by
  intro fd fs s hl hu
  refine ⟨?_, ?_, ?_, ?_, ?_, ?_, ?_, ?_, ?_, ?_, ?_, ?_, ?_, ?_, ?_, ?_, ?_, ?_, ?_, ?_, ?_, ?_, ?_, ?_, ?_, ?_⟩ <;>
    exact fpArith_does hl (withCop1_open hu)

/-! ### Compares (R760) -/

/-- The flag that a compare can signal. -/
def fpInvalidFlag (b : Bool) : FpFlags := { FpFlags.none with v := b }

theorem fpTraps_invalid (b : Bool) (w : Word) : fpTraps (fpInvalidFlag b) w = (b && bit w 11) := by
  have h : ∀ (b : Bool) (e : BitVec 5), decide ((fpInvalidFlag b).bits &&& e ≠ 0#5) = (b && bit e 4) := by decide
  rw [fpTraps, h, fcsrEnable, bit, BitVec.getLsbD_extractLsb']
  rfl

theorem or_and_of_disjoint {w : Nat} {b m : BitVec w} (h : b &&& m = 0#w) (a : BitVec w) : (a ||| b) &&& m = a &&& m := by
  rw [BitVec.and_comm, BitVec.and_or_distrib_left, BitVec.and_comm m b, h, BitVec.or_zero, BitVec.and_comm]

/-- FCSR after a compare that traps on nothing: C, Cause and Flag.V as said, the other bits unchanged. -/
theorem fcsr_compared (r b : Bool) (w : Word) :
    let u := setFcsrC r (accrueFpFlags (fpInvalidFlag b) (setFpCause (fpInvalidFlag b) w))
    bit u 23 = r ∧ bitField u 12 6 = (if b then 0x10#6 else 0#6) ∧ bit u 6 = (bit w 6 || b)
      ∧ u &&& 0xFF7C0FBF#32 = w &&& 0xFF7C0FBF#32 := by
  have accrued := fcsr_accrued (fpInvalidFlag b) w
  have bits : ∀ b : Bool, (fpInvalidFlag b).bits.setWidth 6 = (if b then 0x10#6 else 0#6) ∧ bit (fpInvalidFlag b).bits 4 = b
      ∧ (fpInvalidFlag b).bits.setWidth 32 <<< 12 &&& 0xFF7C0FBF#32 = 0#32
      ∧ (fpInvalidFlag b).bits.setWidth 32 <<< 2 &&& 0xFF7C0FBF#32 = 0#32 := by decide
  obtain ⟨six, top, inCause, inFlag⟩ := bits b
  intro u
  refine ⟨bit_setBit_self (by decide) _ _, ?cause, ?flag, ?rest⟩
  case cause => exact (bitField_setBit (by decide) _ _).trans (accrued.cause.trans six)
  case flag =>
    have h := congrArg (bit · 4) accrued.flag
    simp only [bit, BitVec.getLsbD_or, BitVec.getLsbD_extractLsb'] at h top
    rw [top] at h
    exact (getLsbD_setBit _ _ _ _).trans h
  case rest =>
    refine (setBit_and_disjoint (by decide) _ _).trans ?_
    rw [accrueFpFlags, setFpCause, or_and_of_disjoint inFlag, or_and_of_disjoint inCause, clearFpCause, BitVec.and_assoc]
    rfl

theorem fpCompare_compares {cond : BitVec 4} {ft : RegIdx} (hl : s.excLatch = false) (he : exec i s = fpCompare f cond fs ft s) :
    ComparesAs i f cond fs ft s := by
  unfold ComparesAs
  intro a b o r invalid
  have traps : fpTraps (fpInvalidFlag invalid) s.fcsr = (invalid && bit s.fcsr 11) := fpTraps_invalid _ _
  have he' : exec i s =
      if fpTraps (fpInvalidFlag invalid) s.fcsr then .next (takeException .fpe (s.setFcsr (setFpCause (fpInvalidFlag invalid) s.fcsr)))
      else (s.setFcsr (setFcsrC r (accrueFpFlags (fpInvalidFlag invalid) (setFpCause (fpInvalidFlag invalid) s.fcsr)))).done := he
  refine ⟨fun hi he => ?trap, fun h => ?completes⟩
  case trap =>
    have raised := he'.trans (if_pos (by rw [traps, hi, he]; rfl))
    have trapped : FcsrTrapped 0x10#6 s.fcsr (setFpCause (fpInvalidFlag invalid) s.fcsr) := by
      rw [hi]
      exact fcsr_trapped (fpInvalidFlag true) s.fcsr
    exact ⟨_, raised, _, trapped, takeException_taken .fpe (s.setFcsr _) hl⟩
  case completes =>
    have ht : ¬fpTraps (fpInvalidFlag invalid) s.fcsr = true := by
      rw [traps, Bool.and_eq_true, not_and_or, Bool.not_eq_true, Bool.not_eq_true]
      exact h
    obtain ⟨t, hd, hf, hfpr, hw⟩ := setFcsr_done_answers _ s
    obtain ⟨c, cause, flag, rest⟩ := fcsr_compared r invalid s.fcsr
    rw [if_neg ht, hd] at he'
    exact ⟨t, he', hf ▸ c, hf ▸ cause, hf ▸ flag, hf ▸ rest, hfpr, hw⟩

/-- Settles O54: each compare is the one of its condition's bits. -/
theorem fpCompares : Obligations.FpCompares := by
  intro fs ft s hl hu
  refine ⟨?_, ?_, ?_, ?_, ?_, ?_, ?_, ?_, ?_, ?_, ?_, ?_, ?_, ?_, ?_, ?_, ?_, ?_, ?_, ?_, ?_, ?_, ?_, ?_, ?_, ?_, ?_, ?_, ?_,
    ?_, ?_, ?_⟩ <;>
    exact fpCompare_compares hl (withCop1_open hu)

end Sys2Proof.Machine
end

section
/-! SUPPORT. The numbers of the two float formats: an operand by its sign and its magnitude bits, which order the numbers that operands
stand for (`45_fpu.md` R702, R760). -/

namespace Sys2Proof.Machine

variable {f : FpFmt} {x a b : DWord} {neg : Bool} {m : Nat}

/-! ### Classes of operands by magnitude -/

theorem fpExp_eq (f : FpFmt) (x : DWord) : fpExp f x = fpMagnitude f x / 2 ^ f.fracBits := by
  rw [fpExp, fpMagnitude, pow_add, Nat.mod_mul_right_div_self]

theorem fpFrac_eq (f : FpFmt) (x : DWord) : fpFrac f x = fpMagnitude f x % 2 ^ f.fracBits := by
  rw [fpFrac, fpMagnitude, pow_add, Nat.mod_mul_right_mod]

theorem expMax_succ (f : FpFmt) : f.expMax + 1 = 2 ^ f.expBits := Nat.sub_add_cancel Nat.one_le_two_pow

/-- The magnitude bits of infinity. -/
def FpFmt.infinity (f : FpFmt) : Nat := f.expMax * 2 ^ f.fracBits

theorem infinity_add (f : FpFmt) : f.infinity + 2 ^ f.fracBits = 2 ^ (f.fracBits + f.expBits) := by
  rw [FpFmt.infinity, ← Nat.succ_mul, Nat.succ_eq_add_one, expMax_succ, pow_add, Nat.mul_comm]

theorem fpMagnitude_lt_two_pow (f : FpFmt) (x : DWord) : fpMagnitude f x < 2 ^ (f.fracBits + f.expBits) := Nat.mod_lt _ (by positivity)

theorem fpMagnitude_eq (f : FpFmt) (x : DWord) : fpMagnitude f x = fpExp f x * 2 ^ f.fracBits + fpFrac f x := by
  rw [fpExp_eq, fpFrac_eq, Nat.div_add_mod']

theorem fpFrac_lt (f : FpFmt) (x : DWord) : fpFrac f x < 2 ^ f.fracBits := Nat.mod_lt _ (by positivity)

/-- The exponent field is all ones exactly from infinity up. -/
theorem fpExp_eq_expMax : fpExp f x = f.expMax ↔ f.infinity ≤ fpMagnitude f x := by
  have hp : 0 < 2 ^ f.fracBits := by positivity
  have upper : fpExp f x < f.expMax + 1 := expMax_succ f ▸ Nat.mod_lt _ (by positivity)
  have lower : f.expMax ≤ fpExp f x ↔ f.infinity ≤ fpMagnitude f x := by rw [fpExp_eq, Nat.le_div_iff_mul_le hp, FpFmt.infinity]
  rw [← lower]
  omega

theorem fpExp_eq_zero : fpExp f x = 0 ↔ fpMagnitude f x < 2 ^ f.fracBits := by
  rw [fpExp_eq, Nat.div_eq_zero_iff_lt (by positivity)]

theorem fpFinite_iff : FpFinite f x ↔ fpMagnitude f x < f.infinity := by rw [FpFinite, ne_eq, fpExp_eq_expMax, not_le]

theorem fpIsInf_iff : fpIsInf f x = true ↔ fpMagnitude f x = f.infinity := by
  have hm := fpMagnitude_eq f x
  rw [fpIsInf, decide_eq_true_iff]
  refine ⟨fun ⟨he, hfrac⟩ => by rw [hm, he, hfrac, FpFmt.infinity, Nat.add_zero], fun h => ?_⟩
  have he := fpExp_eq_expMax.mpr h.ge
  rw [he, h, FpFmt.infinity] at hm
  exact ⟨he, by omega⟩

theorem fpIsNan_iff : fpIsNan f x = true ↔ f.infinity < fpMagnitude f x := by
  have hm := fpMagnitude_eq f x
  rw [fpIsNan, decide_eq_true_iff, fpExp_eq_expMax]
  refine ⟨fun ⟨h, hfrac⟩ => ?_, fun h => ⟨h.le, fun h0 => ?_⟩⟩
  · rw [hm, fpExp_eq_expMax.mpr h, ← FpFmt.infinity]
    omega
  · rw [fpExp_eq_expMax.mpr h.le, h0, ← FpFmt.infinity] at hm
    omega

theorem fpIsNan_eq_false : fpIsNan f x = false ↔ fpMagnitude f x ≤ f.infinity := by
  rw [Bool.eq_false_iff, ne_eq, fpIsNan_iff, not_lt]

theorem fpIsZero_iff : fpIsZero f x = true ↔ fpMagnitude f x = 0 := decide_eq_true_iff

theorem fpIsDenormal_iff : fpIsDenormal f x = true ↔ 0 < fpMagnitude f x ∧ fpMagnitude f x < 2 ^ f.fracBits := by
  have hm := fpMagnitude_eq f x
  rw [fpIsDenormal, decide_eq_true_iff]
  refine ⟨fun ⟨he, hfrac⟩ => ⟨by omega, fpExp_eq_zero.mp he⟩, fun ⟨hpos, hlt⟩ => ?_⟩
  have he := fpExp_eq_zero.mpr hlt
  rw [he, Nat.zero_mul] at hm
  exact ⟨he, by omega⟩

/-! ### The number of a magnitude -/

/-- The sign as a factor. -/
def fpSign (neg : Bool) : ℚ := if neg then -1 else 1

/-- The number that magnitude bits below infinity stand for. -/
def fpMagnitudeRat (f : FpFmt) (m : Nat) : ℚ :=
  ((if m / 2 ^ f.fracBits = 0 then m % 2 ^ f.fracBits else 2 ^ f.fracBits + m % 2 ^ f.fracBits : Nat) : ℚ)
    * 2 ^ (f.minQuantum + ((m / 2 ^ f.fracBits - 1 : Nat) : ℤ))

theorem fpRat_eq (f : FpFmt) (x : DWord) : fpRat f x = fpSign (fpNeg f x) * fpMagnitudeRat f (fpMagnitude f x) := by
  rw [fpRat, fpSig, fpQuantum, fpExp_eq, fpFrac_eq, mul_assoc]
  rfl

theorem fpSig_mul (f : FpFmt) (x : DWord) : (fpSig f x : ℚ) * 2 ^ fpQuantum f x = fpMagnitudeRat f (fpMagnitude f x) := by
  rw [fpSig, fpQuantum, fpExp_eq, fpFrac_eq]
  rfl

/-- `j` steps of the exponent and `k` of the last place: the number is `k` last places, also where `k` carries into the exponent. -/
theorem fpMagnitudeRat_places {j k : Nat} (hk : k ≤ 2 ^ (f.fracBits + 1)) (h : j = 0 ∨ 2 ^ f.fracBits ≤ k) :
    fpMagnitudeRat f (j * 2 ^ f.fracBits + k) = k * 2 ^ (f.minQuantum + j) := by
  have hp : 0 < 2 ^ f.fracBits := by positivity
  have div : (j * 2 ^ f.fracBits + k) / 2 ^ f.fracBits = j + k / 2 ^ f.fracBits := by rw [Nat.mul_comm, Nat.mul_add_div hp]
  have mod : (j * 2 ^ f.fracBits + k) % 2 ^ f.fracBits = k % 2 ^ f.fracBits := Nat.mul_add_mod' _ _ _
  rw [fpMagnitudeRat, div, mod]
  rw [pow_succ] at hk
  rcases lt_or_ge k (2 ^ f.fracBits) with hlt | hge
  · obtain rfl := h.resolve_right (not_le.mpr hlt)
    rw [Nat.div_eq_of_lt hlt, if_pos rfl, Nat.mod_eq_of_lt hlt]
  · rcases Nat.eq_or_lt_of_le hk with rfl | hlt
    · rw [Nat.mul_div_cancel_left 2 hp, if_neg (by omega), Nat.mul_mod_right, show j + 2 - 1 = j + 1 from rfl]
      push_cast
      rw [← add_assoc, zpow_add_one₀ two_ne_zero]
      ring
    · have hone : k / 2 ^ f.fracBits = 1 := Nat.div_eq_of_lt_le (by omega) (by omega)
      rw [hone, if_neg (by omega), Nat.mod_eq_sub_mod hge, Nat.mod_eq_of_lt (by omega), Nat.add_sub_cancel' hge]
      rfl

theorem exists_places (f : FpFmt) (m : Nat) :
    ∃ j k, m = j * 2 ^ f.fracBits + k ∧ k < 2 ^ (f.fracBits + 1) ∧ (j = 0 ∨ 2 ^ f.fracBits ≤ k) := by
  have hm := Nat.div_add_mod' m (2 ^ f.fracBits)
  have hlt := Nat.mod_lt m (show 0 < 2 ^ f.fracBits by positivity)
  rw [pow_succ]
  rcases Nat.eq_zero_or_eq_succ_pred (m / 2 ^ f.fracBits) with h | h
  · exact ⟨0, m, by omega, by rw [h] at hm; omega, .inl rfl⟩
  · rw [h, Nat.succ_mul] at hm
    exact ⟨(m / 2 ^ f.fracBits).pred, 2 ^ f.fracBits + m % 2 ^ f.fracBits, by omega, by omega, .inr (by omega)⟩

theorem fpMagnitudeRat_strictMono (f : FpFmt) : StrictMono (fpMagnitudeRat f) := by
  refine strictMono_nat_of_lt_succ fun m => ?_
  obtain ⟨j, k, rfl, hlt, h⟩ := exists_places f m
  rw [add_assoc, fpMagnitudeRat_places hlt.le h, fpMagnitudeRat_places hlt (h.imp_right Nat.le_succ_of_le)]
  have : (0 : ℚ) < 2 ^ (f.minQuantum + j) := by positivity
  gcongr
  exact k.lt_succ_self

theorem fpMagnitudeRat_zero (f : FpFmt) : fpMagnitudeRat f 0 = 0 := by simp [fpMagnitudeRat]

theorem fpMagnitudeRat_nonneg (f : FpFmt) (m : Nat) : 0 ≤ fpMagnitudeRat f m := by unfold fpMagnitudeRat; positivity

/-! ### Packed values -/

theorem float_bits (hf : f = .s ∨ f = .d) : f.fracBits + f.expBits + 1 ≤ 64 := by rcases hf with rfl | rfl <;> decide

theorem toNat_fpPack (hf : f = .s ∨ f = .d) (neg : Bool) (hm : m < 2 ^ (f.fracBits + f.expBits)) :
    (fpPack f neg m).toNat = (if neg then 2 ^ (f.fracBits + f.expBits) else 0) + m := by
  have h64 : 2 ^ (f.fracBits + f.expBits) * 2 ≤ 2 ^ 64 := by
    rw [← pow_succ]
    exact Nat.pow_le_pow_right (by decide) (float_bits hf)
  rw [fpPack, BitVec.toNat_ofNat, Nat.mod_eq_of_lt]
  split <;> omega

theorem fpMagnitude_fpPack (hf : f = .s ∨ f = .d) (neg : Bool) (hm : m < 2 ^ (f.fracBits + f.expBits)) :
    fpMagnitude f (fpPack f neg m) = m := by
  rw [fpMagnitude, toNat_fpPack hf neg hm]
  cases neg <;> simp [Nat.mod_eq_of_lt hm]

theorem fpNeg_eq (f : FpFmt) (x : DWord) : fpNeg f x = decide (x.toNat / 2 ^ (f.fracBits + f.expBits) % 2 = 1) :=
  Nat.testBit_eq_decide_div_mod_eq

theorem fpNeg_fpPack (hf : f = .s ∨ f = .d) (neg : Bool) (hm : m < 2 ^ (f.fracBits + f.expBits)) :
    fpNeg f (fpPack f neg m) = neg := by
  have hp : 0 < 2 ^ (f.fracBits + f.expBits) := by positivity
  rw [fpNeg_eq, toNat_fpPack hf neg hm]
  cases neg
  · simp [Nat.div_eq_of_lt hm]
  · simp [Nat.add_div_left _ hp, Nat.div_eq_of_lt hm]

theorem fpRat_fpPack (hf : f = .s ∨ f = .d) (neg : Bool) (hm : m < 2 ^ (f.fracBits + f.expBits)) :
    fpRat f (fpPack f neg m) = fpSign neg * fpMagnitudeRat f m := by
  rw [fpRat_eq, fpNeg_fpPack hf neg hm, fpMagnitude_fpPack hf neg hm]

/-! ### Order (R760) -/

/-- The number of a magnitude up to infinity. -/
def fpMagnitudeExtended (f : FpFmt) (m : Nat) : ℚ := if m = f.infinity then 2 ^ f.expMax else fpMagnitudeRat f m

theorem fpExtended_eq (f : FpFmt) (x : DWord) : fpExtended f x = fpSign (fpNeg f x) * fpMagnitudeExtended f (fpMagnitude f x) := by
  rw [fpExtended, fpMagnitudeExtended]
  by_cases h : fpIsInf f x = true
  · rw [if_pos h, if_pos (fpIsInf_iff.mp h)]
    rfl
  · rw [if_neg h, if_neg (mt fpIsInf_iff.mpr h), fpRat_eq]

theorem float_expMax (hf : f = .s ∨ f = .d) : f.expMax = 2 * f.bias + 1 ∧ 1 ≤ f.bias := by rcases hf with rfl | rfl <;> decide

/-- The number that the magnitude of infinity would stand for is the first power of two beyond the finite numbers. -/
theorem fpMagnitudeRat_infinity (hf : f = .s ∨ f = .d) : fpMagnitudeRat f f.infinity = 2 ^ ((f.bias : ℤ) + 1) := by
  obtain ⟨he, hb⟩ := float_expMax hf
  have h : f.infinity = (2 * f.bias) * 2 ^ f.fracBits + 2 ^ f.fracBits := by rw [FpFmt.infinity, he, Nat.succ_mul]
  rw [h, fpMagnitudeRat_places (Nat.pow_le_pow_right (by decide) (Nat.le_succ _)) (.inr le_rfl), Nat.cast_pow, Nat.cast_ofNat,
    ← zpow_natCast, ← zpow_add₀ two_ne_zero, FpFmt.minQuantum]
  congr 1
  push_cast
  ring

theorem fpMagnitudeExtended_lt (hf : f = .s ∨ f = .d) {m n : Nat} (h : m < n) (hn : n ≤ f.infinity) :
    fpMagnitudeExtended f m < fpMagnitudeExtended f n := by
  have finite := fpMagnitudeRat_strictMono f h
  rw [fpMagnitudeExtended, if_neg (by omega), fpMagnitudeExtended]
  split
  case isTrue hi =>
    subst hi
    obtain ⟨he, hb⟩ := float_expMax hf
    refine finite.trans_le ?_
    rw [fpMagnitudeRat_infinity hf, ← zpow_natCast]
    exact zpow_le_zpow_right₀ one_le_two (by omega)
  case isFalse => exact finite

theorem fpMagnitudeExtended_nonneg (f : FpFmt) (m : Nat) : 0 ≤ fpMagnitudeExtended f m := by
  unfold fpMagnitudeExtended
  split
  · positivity
  · exact fpMagnitudeRat_nonneg f m

/-- The key orders operands as the numbers they stand for. -/
theorem fpExtended_lt_of_fpKey_lt (hf : f = .s ∨ f = .d) (ha : fpIsNan f a = false) (hb : fpIsNan f b = false)
    (h : fpKey f a < fpKey f b) : fpExtended f a < fpExtended f b := by
  rw [fpIsNan_eq_false] at ha hb
  rw [fpExtended_eq, fpExtended_eq]
  unfold fpKey at h
  have na := fpMagnitudeExtended_nonneg f (fpMagnitude f a)
  have nb := fpMagnitudeExtended_nonneg f (fpMagnitude f b)
  have less := @fpMagnitudeExtended_lt f hf
  cases hna : fpNeg f a <;> cases hnb : fpNeg f b <;> simp only [hna, hnb, fpSign, if_true, Bool.false_eq_true, if_false] at h ⊢
  case false.false => linarith [less (by omega : fpMagnitude f a < fpMagnitude f b) hb]
  case false.true => omega
  case true.false =>
    rcases Nat.eq_zero_or_pos (fpMagnitude f a) with h0 | hpos
    · linarith [less (by omega : 0 < fpMagnitude f b) hb, fpMagnitudeExtended_nonneg f 0]
    · linarith [less hpos ha, fpMagnitudeExtended_nonneg f 0]
  case true.true => linarith [less (by omega : fpMagnitude f b < fpMagnitude f a) ha]

theorem fpExtended_eq_of_fpKey_eq (hf : f = .s ∨ f = .d) (h : fpKey f a = fpKey f b) : fpExtended f a = fpExtended f b := by
  have zero : fpMagnitudeExtended f 0 = 0 := by
    rw [fpMagnitudeExtended, if_neg, fpMagnitudeRat_zero]
    rcases hf with rfl | rfl <;> decide
  rw [fpExtended_eq, fpExtended_eq]
  unfold fpKey at h
  cases hna : fpNeg f a <;> cases hnb : fpNeg f b <;> simp only [hna, hnb, if_true, Bool.false_eq_true, if_false] at h
  case false.false | true.true => rw [show fpMagnitude f a = fpMagnitude f b by omega]
  case false.true | true.false =>
    rw [show fpMagnitude f a = 0 by omega, show fpMagnitude f b = 0 by omega, zero, mul_zero, mul_zero]

theorem fpKey_lt_iff (hf : f = .s ∨ f = .d) (ha : fpIsNan f a = false) (hb : fpIsNan f b = false) :
    fpKey f a < fpKey f b ↔ fpExtended f a < fpExtended f b := by
  refine ⟨fpExtended_lt_of_fpKey_lt hf ha hb, fun h => ?_⟩
  by_contra hk
  rcases (not_lt.mp hk).lt_or_eq with hlt | heq
  · exact lt_asymm h (fpExtended_lt_of_fpKey_lt hf hb ha hlt)
  · exact h.ne' (fpExtended_eq_of_fpKey_eq hf heq)

theorem fpKey_eq_iff (hf : f = .s ∨ f = .d) (ha : fpIsNan f a = false) (hb : fpIsNan f b = false) :
    fpKey f a = fpKey f b ↔ fpExtended f a = fpExtended f b := by
  refine ⟨fpExtended_eq_of_fpKey_eq hf, fun h => ?_⟩
  rcases lt_trichotomy (fpKey f a) (fpKey f b) with hlt | heq | hgt
  · exact absurd h (fpExtended_lt_of_fpKey_lt hf ha hb hlt).ne
  · exact heq
  · exact absurd h (fpExtended_lt_of_fpKey_lt hf hb ha hgt).ne'

theorem fpCmpIeee_un_iff : fpCmpIeee f a b = .un ↔ fpIsNan f a = true ∨ fpIsNan f b = true := by
  rw [fpCmpIeee, ← Bool.or_eq_true]
  split
  · simp_all
  · split
    · simp_all
    · split <;> simp_all

/-- Without a NaN the comparison is that of the keys. -/
theorem fpCmpIeee_of_numbers (ha : fpIsNan f a = false) (hb : fpIsNan f b = false) :
    (fpCmpIeee f a b = .lt ↔ fpKey f a < fpKey f b) ∧ (fpCmpIeee f a b = .eq ↔ fpKey f a = fpKey f b)
      ∧ (fpCmpIeee f a b = .gt ↔ fpKey f b < fpKey f a) := by
  rw [fpCmpIeee, ha, hb, if_neg (by decide)]
  rcases lt_trichotomy (fpKey f a) (fpKey f b) with h | h | h
  · simp [h, h.ne, h.le]
  · simp [h]
  · simp [h, h.ne', h.not_gt]

theorem fpIsSignaling_iff (f : FpFmt) (x : DWord) :
    fpIsSignaling f x = true ↔ (fpExp f x = f.expMax ∧ fpFrac f x ≠ 0) ∧ x.toNat / 2 ^ (f.fracBits - 1) % 2 = 1 := by
  rw [fpIsSignaling, Bool.and_eq_true, fpIsNan, decide_eq_true_iff, bit, BitVec.getLsbD, Nat.testBit_eq_decide_div_mod_eq,
    decide_eq_true_iff]

/-- Settles O55: the comparison is by keys, and keys are in the order of the numbers. -/
theorem fpOrder : Obligations.FpOrder := by
  intro cfg f a b hd hf
  rw [fpCmp_default hd]
  refine ⟨fpCmpIeee_un_iff, fun ha hb => ?numbers, ?nanS, ?nanD, ?signalingS, ?signalingD⟩
  case numbers =>
    obtain ⟨lt, eq, gt⟩ := fpCmpIeee_of_numbers ha hb
    exact ⟨lt.trans (fpKey_lt_iff hf ha hb), eq.trans (fpKey_eq_iff hf ha hb), gt.trans (fpKey_lt_iff hf hb ha)⟩
  case nanS | nanD =>
    rw [fpIsNan, decide_eq_true_iff, ne_eq, ne_eq, ← BitVec.toNat_inj, ← BitVec.toNat_inj, toNat_bitField, toNat_bitField]
    simp [fpExp, fpFrac, FpFmt.fracBits, FpFmt.expBits, FpFmt.expMax]
  case signalingS | signalingD =>
    rw [fpIsSignaling_iff, ← BitVec.toNat_inj, toNat_bitField]
    simp only [fpExp, fpFrac, FpFmt.fracBits, FpFmt.expBits, FpFmt.expMax, BitVec.toNat_ofNat]
    omega

end Sys2Proof.Machine
end

section
/-! SUPPORT. Rounding once (`45_fpu.md` R702, R138): an exact magnitude, known by its integer part and whether there is more, is rounded
to a multiple of the last place. Magnitudes are in any ordered field: quotients are rational, roots are not. -/

namespace Sys2Proof.Machine

variable {K : Type*} [Field K] [LinearOrder K] [IsStrictOrderedRing K] {rm : RoundMode} {neg sticky : Bool} {x y z : K} {m n k : Nat}

/-! ### Rounding to an integer -/

/-- `n` is the magnitude `y` of a number of the given sign, rounded to an integer. -/
def RoundsTo (rm : RoundMode) (neg : Bool) (y : K) (n : Nat) : Prop :=
  match rm, neg with
  | .nearest, _ => |(n : K) - y| * 2 ≤ 1 ∧ (|(n : K) - y| * 2 = 1 → n % 2 = 0)
  | .zero, _ | .up, true | .down, false => (n : K) ≤ y ∧ y < n + 1
  | .up, false | .down, true => y ≤ n ∧ (n : K) < y + 1

/-- `x` is known by its integer part and whether there is more. -/
structure StickyFloor (x : K) (m : Nat) (sticky : Bool) : Prop where
  le : (m : K) ≤ x
  lt : x < m + 1
  exact : sticky = false ↔ x = m

theorem StickyFloor.natCast (m : Nat) : StickyFloor (m : K) m false := ⟨le_rfl, lt_add_one _, by simp⟩

/-- An integer rounds to itself. -/
theorem RoundsTo.natCast (rm : RoundMode) (neg : Bool) (n : Nat) : RoundsTo rm neg (n : K) n := by
  cases rm <;> cases neg <;> simp [RoundsTo]

/-- In every mode the rounding is less than one away. -/
theorem RoundsTo.near (h : RoundsTo rm neg y n) : (n : K) < y + 1 ∧ y < n + 1 := by
  cases rm
  case nearest =>
    have := abs_le.mp (show |(n : K) - y| ≤ 1 / 2 by linarith [h.1])
    constructor <;> linarith
  all_goals
    cases neg <;>
    · obtain ⟨h1, h2⟩ := h
      constructor <;> linarith

/-- Rounding does not pass an integer. -/
theorem RoundsTo.le_of_le (h : RoundsTo rm neg y n) (hy : y ≤ k) : n ≤ k := by
  have : (n : K) < k + 1 := by linarith [h.near.1]
  exact Nat.lt_succ_iff.mp (by exact_mod_cast this)

theorem RoundsTo.ge_of_ge (h : RoundsTo rm neg y n) (hy : (k : K) ≤ y) : k ≤ n := by
  have : (k : K) < n + 1 := by linarith [h.near.2]
  exact Nat.lt_succ_iff.mp (by exact_mod_cast this)

/-- A magnitude as its integer part, a half or none, and less than a half more. -/
theorem exists_halves (h : StickyFloor x m sticky) (hk : 0 < k) :
    ∃ r : K, x / 2 ^ k = (m / 2 ^ k : Nat) + (if m / 2 ^ (k - 1) % 2 = 1 then 1 / 2 else 0) + r ∧ 0 ≤ r ∧ r < 1 / 2
      ∧ (r = 0 ↔ sticky = false ∧ m % 2 ^ (k - 1) = 0) := by
  obtain ⟨j, rfl⟩ : ∃ j, k = j + 1 := ⟨k - 1, by omega⟩
  rw [Nat.add_sub_cancel]
  have hp : (0 : K) < 2 ^ j := by positivity
  have hm : m = 2 ^ j * (2 * (m / 2 ^ (j + 1)) + m / 2 ^ j % 2) + m % 2 ^ j := by
    rw [pow_succ, ← Nat.div_div_eq_div_mul, Nat.div_add_mod, Nat.div_add_mod]
  have hmK : (m : K) = 2 ^ j * (2 * (m / 2 ^ (j + 1) : Nat) + (m / 2 ^ j % 2 : Nat)) + (m % 2 ^ j : Nat) := by exact_mod_cast hm
  have hhalf : ((m / 2 ^ j % 2 : Nat) : K) = if m / 2 ^ j % 2 = 1 then 1 else 0 := by
    rcases Nat.mod_two_eq_zero_or_one (m / 2 ^ j) with h | h <;> simp [h]
  have hrest : ((m % 2 ^ j : Nat) : K) + 1 ≤ 2 ^ j := by exact_mod_cast Nat.mod_lt m (Nat.two_pow_pos j)
  have hle := h.le
  have hlt := h.lt
  refine ⟨((m % 2 ^ j : Nat) + (x - m)) / 2 ^ (j + 1), ?_, ?_, ?_, ?_⟩
  · rw [pow_succ]
    have hx : x = 2 ^ j * (2 * (m / 2 ^ (j + 1) : Nat) + (m / 2 ^ j % 2 : Nat)) + ((m % 2 ^ j : Nat) + (x - m)) := by linarith
    rw [hhalf] at hx
    split_ifs at hx ⊢ <;>
    · field_simp
      linarith
  · have : (0 : K) ≤ (m % 2 ^ j : Nat) := Nat.cast_nonneg _
    have : 0 ≤ x - m := by linarith
    positivity
  · rw [div_lt_div_iff₀ (by positivity) two_pos, pow_succ]
    linarith
  · have : (0 : K) ≤ (m % 2 ^ j : Nat) := Nat.cast_nonneg _
    rw [h.exact, div_eq_zero_iff, or_iff_left (by positivity)]
    constructor
    · intro h0
      exact ⟨by linarith, by exact_mod_cast (by linarith : ((m % 2 ^ j : Nat) : K) = 0)⟩
    · rintro ⟨h1, h2⟩
      rw [h1, h2]
      simp

theorem roundsUp_exact (rm : RoundMode) (neg odd : Bool) : roundsUp rm neg odd false false = false := by
  cases rm <;> cases neg <;> rfl

theorem roundsUp_inexact {half rest : Bool} (h : (half || rest) = true) (odd : Bool) :
    roundsUp .zero neg odd half rest = false ∧ roundsUp .up neg odd half rest = !neg ∧ roundsUp .down neg odd half rest = neg := by
  simp [roundsUp, h]

/-- To nearest: the half decides, and with nothing below it the last bit. -/
theorem roundsTo_nearest_of_halves {q : Nat} {half rest : Bool} {r : K} (hy : y = q + (if half then 1 / 2 else 0) + r) (h0 : 0 ≤ r)
    (h1 : r < 1 / 2) (hr : rest = false ↔ r = 0) :
    RoundsTo .nearest neg y (q + if roundsUp .nearest neg (decide (q % 2 = 1)) half rest then 1 else 0) := by
  rw [RoundsTo, hy, roundsUp]
  cases half
  case false =>
    have h : (q : K) - (q + 0 + r) = -r := by ring
    simp only [Bool.false_and, Bool.false_eq_true, if_false, Nat.add_zero, h, abs_neg, abs_of_nonneg h0]
    exact ⟨by linarith, fun he => by linarith⟩
  case true =>
    cases rest
    case true =>
      have hpos : 0 < r := lt_of_le_of_ne h0 fun h => Bool.true_eq_false.mp (hr.mpr h.symm)
      have h : ((q + 1 : Nat) : K) - (q + 1 / 2 + r) = 1 / 2 - r := by push_cast; ring
      simp only [Bool.true_or, Bool.and_self, if_true, h, abs_of_pos (sub_pos.mpr h1)]
      exact ⟨by linarith, fun he => by linarith⟩
    case false =>
      obtain rfl := hr.mp rfl
      have down : (q : K) - (q + 1 / 2 + 0) = -(1 / 2) := by ring
      have up : ((q + 1 : Nat) : K) - (q + 1 / 2 + 0) = 1 / 2 := by push_cast; ring
      have half : |(1 / 2 : K)| * 2 = 1 := by rw [abs_of_pos one_half_pos]; norm_num
      rcases Nat.mod_two_eq_zero_or_one q with hq | hq <;>
        simp only [hq, decide_true, Nat.zero_ne_one, decide_false, Bool.or_false, Bool.and_false, Bool.or_true, Bool.and_true, if_true,
          Bool.false_eq_true, if_false, Nat.add_zero]
      · rw [down, abs_neg, half]
        exact ⟨le_rfl, fun _ => trivial⟩
      · rw [up, half]
        exact ⟨le_rfl, fun _ => by omega⟩

/-- A half and a rest below a half decide the rounding. -/
theorem RoundsTo.of_halves {q : Nat} {half rest : Bool} {r : K} (hy : y = q + (if half then 1 / 2 else 0) + r) (h0 : 0 ≤ r)
    (h1 : r < 1 / 2) (hr : rest = false ↔ r = 0) :
    RoundsTo rm neg y (q + if roundsUp rm neg (decide (q % 2 = 1)) half rest then 1 else 0)
      ∧ ((half || rest) = false ↔ y = (q + if roundsUp rm neg (decide (q % 2 = 1)) half rest then 1 else 0 : Nat)) := by
  cases hi : half || rest
  case false =>
    obtain ⟨rfl, rfl⟩ := Bool.or_eq_false_iff.mp hi
    obtain rfl := hr.mp rfl
    have hyq : y = q := by simpa using hy
    rw [roundsUp_exact, hyq]
    exact ⟨RoundsTo.natCast rm neg q, by simp⟩
  case true =>
    have lower : (q : K) < y := by
      rw [hy]
      cases half
      case true => rw [if_pos rfl]; linarith
      case false =>
        obtain rfl : rest = true := hi
        have : 0 < r := lt_of_le_of_ne h0 fun h => Bool.true_eq_false.mp (hr.mpr h.symm)
        rw [if_neg Bool.false_ne_true]
        linarith
    have upper : y < q + 1 := by
      rw [hy]
      split <;> linarith
    refine ⟨?_, ?_⟩
    · obtain ⟨zero, up, down⟩ := roundsUp_inexact hi (decide (q % 2 = 1)) (neg := neg)
      cases rm
      case nearest => exact roundsTo_nearest_of_halves hy h0 h1 hr
      case zero =>
        rw [zero]
        exact ⟨by simpa using lower.le, by simpa using upper⟩
      case up =>
        rw [up]
        cases neg
        · exact ⟨by simpa using upper.le, by simpa using lower⟩
        · exact ⟨by simpa using lower.le, by simpa using upper⟩
      case down =>
        rw [down]
        cases neg
        · exact ⟨by simpa using lower.le, by simpa using upper⟩
        · exact ⟨by simpa using upper.le, by simpa using lower⟩
    · refine iff_of_false Bool.true_eq_false.mp ?_
      split
      · push_cast
        exact upper.ne
      · exact lower.ne'

/-- Dividing by a power of two rounds once. -/
theorem roundShift_roundsTo (h : StickyFloor x m sticky) (hk : 0 < k) :
    RoundsTo rm neg (x / 2 ^ k) (roundShift rm neg m k sticky).1
      ∧ ((roundShift rm neg m k sticky).2 = false ↔ x / 2 ^ k = (roundShift rm neg m k sticky).1) := by
  obtain ⟨r, hx, h0, h1, hr⟩ := exists_halves h hk
  refine RoundsTo.of_halves (half := decide (0 < k) && decide (m / 2 ^ (k - 1) % 2 = 1)) (hx.trans ?_) h0 h1 ?_
  · simp [hk]
  · rw [hr]
    simp [hk]

/-- `m * 2 ^ (e - q)`, and a little more if `sticky`, rounded to an integer, with whether it is inexact: as `fpRound` does it with the last
place `2 ^ q`, and `fpRoundToInt` with the last place 1. -/
def roundScaled (rm : RoundMode) (neg : Bool) (m : Nat) (e q : ℤ) (sticky : Bool) : Nat × Bool :=
  if q ≤ e then (m * 2 ^ (e - q).toNat, sticky) else roundShift rm neg m (q - e).toNat sticky

/-- Scaling rounds once, if where there is more below the integer part some bits go. -/
theorem roundScaled_roundsTo {e q : ℤ} (h : StickyFloor x m sticky) (hbits : sticky = true → e < q) :
    RoundsTo rm neg (x * 2 ^ (e - q)) (roundScaled rm neg m e q sticky).1
      ∧ ((roundScaled rm neg m e q sticky).2 = false ↔ x * 2 ^ (e - q) = (roundScaled rm neg m e q sticky).1) := by
  rw [roundScaled]
  split
  case isTrue hle =>
    obtain rfl : sticky = false := Bool.eq_false_iff.mpr fun hs => not_le.mpr (hbits hs) hle
    obtain ⟨k, hk⟩ := Int.eq_ofNat_of_zero_le (sub_nonneg.mpr hle)
    have hx : x * 2 ^ (e - q) = ((m * 2 ^ (e - q).toNat : Nat) : K) := by
      rw [h.exact.mp rfl, hk, zpow_natCast, Int.toNat_natCast]
      push_cast
      rfl
    rw [hx]
    exact ⟨RoundsTo.natCast rm neg _, iff_of_true rfl rfl⟩
  case isFalse hgt =>
    obtain ⟨k, hk⟩ := Int.eq_ofNat_of_zero_le (sub_nonneg.mpr (not_le.mp hgt).le)
    have hx : x * 2 ^ (e - q) = x / 2 ^ k := by rw [← neg_sub, hk, zpow_neg, zpow_natCast, div_eq_mul_inv]
    rw [hx, hk, Int.toNat_natCast]
    exact roundShift_roundsTo h (by omega)

/-! ### Rounding to a float format -/

/-- The answer `r` for an exact result of magnitude `z > 0`: with the exponent `j` steps above the smallest, `z` is `n` last places; `tiny`
says that it is below the normal numbers. -/
structure PlacesRounded (f : FpFmt) (rm : RoundMode) (neg : Bool) (z : K) (r : FpAnswer) (j n : Nat) (inexact tiny : Bool) : Prop where
  rounds : RoundsTo rm neg (z / 2 ^ (f.minQuantum + j)) n
  inexact_iff : inexact = false ↔ z / 2 ^ (f.minQuantum + j) = n
  below : z / 2 ^ (f.minQuantum + j) < 2 ^ (f.fracBits + 1)
  above : j = 0 ∨ 2 ^ f.fracBits ≤ z / 2 ^ (f.minQuantum + j)
  tiny_iff : tiny = true ↔ z / 2 ^ (f.minQuantum + j) < 2 ^ f.fracBits
  answer : r = if f.infinity ≤ j * 2 ^ f.fracBits + n then fpOverflow f rm neg
    else ⟨fpPack f neg (j * 2 ^ f.fracBits + n), { FpFlags.none with u := tiny && inexact, i := inexact }, tiny⟩

/-- `r` answers an exact result of magnitude `z > 0`, rounded once. -/
def FpRoundsTo (f : FpFmt) (rm : RoundMode) (neg : Bool) (z : K) (r : FpAnswer) : Prop :=
  ∃ j n inexact tiny, PlacesRounded f rm neg z r j n inexact tiny

theorem StickyFloor.binade (h : StickyFloor x m sticky) (hm : 0 < m) :
    (2 : K) ^ ((bitLength m : ℤ) - 1) ≤ x ∧ x < 2 ^ (bitLength m : ℤ) := by
  have hlow : 2 ^ m.log2 ≤ m := Nat.log2_self_le hm.ne'
  have hhigh : m + 1 ≤ 2 ^ (m.log2 + 1) := Nat.lt_log2_self
  rw [bitLength, Nat.cast_succ, add_sub_cancel_right, ← Nat.cast_succ, zpow_natCast, zpow_natCast]
  exact ⟨le_trans (by exact_mod_cast hlow) h.le, h.lt.trans_le (by exact_mod_cast hhigh)⟩

theorem StickyFloor.scaled_binade (h : StickyFloor x m sticky) (hm : 0 < m) (e q : ℤ) :
    (2 : K) ^ (e + bitLength m - 1 - q) ≤ x * 2 ^ (e - q) ∧ x * 2 ^ (e - q) < 2 ^ (e + bitLength m - q) := by
  obtain ⟨low, high⟩ := h.binade hm
  rw [show e + bitLength m - 1 - q = (bitLength m : ℤ) - 1 + (e - q) by ring, show e + bitLength m - q = bitLength m + (e - q) by ring,
    zpow_add₀ two_ne_zero, zpow_add₀ two_ne_zero]
  exact ⟨by gcongr, by gcongr⟩

/-- `fpRound` rounds the exact result once, if it has enough bits where there is more below them. -/
theorem fpRound_roundsTo {f : FpFmt} {e : ℤ} (h : StickyFloor x m sticky) (hm : 0 < m)
    (hbits : sticky = true → f.fracBits + 1 < bitLength m) : FpRoundsTo f rm neg (x * 2 ^ e) (fpRound f rm neg m e sticky) := by
  set normal : ℤ := e + bitLength m - (f.fracBits + 1 : Nat) with hnormal
  set q : ℤ := max normal f.minQuantum with hq
  obtain ⟨j, hj⟩ := Int.eq_ofNat_of_zero_le (sub_nonneg.mpr (le_max_right normal f.minQuantum))
  have hjq : f.minQuantum + j = q := by omega
  have scaled : x * 2 ^ e / 2 ^ (f.minQuantum + j) = x * 2 ^ (e - q) := by rw [hjq, mul_div_assoc, zpow_sub₀ two_ne_zero]
  obtain ⟨low, high⟩ := h.scaled_binade hm e q
  have monotone := fun {k l : ℤ} => zpow_le_zpow_right₀ (a := (2 : K)) (m := k) (n := l) one_le_two
  obtain ⟨rounds, exactly⟩ := roundScaled_roundsTo (rm := rm) (neg := neg) (e := e) (q := q) h fun hs => by
    have := hbits hs
    omega
  refine ⟨j, _, _, decide (normal < f.minQuantum), scaled ▸ rounds, scaled ▸ exactly, ?below, ?above, ?tiny, ?answer⟩
  case below =>
    rw [scaled, ← zpow_natCast]
    exact high.trans_le (monotone (by omega))
  case above =>
    rw [scaled, ← zpow_natCast]
    rcases le_or_gt normal f.minQuantum with hle | hgt
    · exact .inl (by omega)
    · exact .inr ((monotone (by omega)).trans low)
  case tiny =>
    rw [scaled, ← zpow_natCast, decide_eq_true_iff]
    refine ⟨fun ht => high.trans_le (monotone (by omega)), fun hy => ?_⟩
    by_contra ht
    exact absurd hy (not_lt.mpr ((monotone (by omega)).trans low))
  case answer =>
    rw [fpRound, ← hnormal, ← hq, hj]
    rfl

end Sys2Proof.Machine
end

section
/-! SUPPORT. What a result rounded once looks like: a normal number in the binade of the exact result, an overflow, or a tiny result that
the unit flushes (`45_fpu.md` R702, R703, R790). -/

namespace Sys2Proof.Machine

variable {K : Type*} [Field K] [LinearOrder K] [IsStrictOrderedRing K] {f : FpFmt} {rm : RoundMode} {neg inexact tiny : Bool} {z : K}
  {q : ℚ} {r : FpAnswer} {j n : Nat}

/-! ### Signs -/

theorem fpSign_mul_self (neg : Bool) : fpSign neg * fpSign neg = 1 := by cases neg <;> norm_num [fpSign]

theorem fpSign_not (neg : Bool) : fpSign (!neg) = -fpSign neg := by cases neg <;> norm_num [fpSign]

theorem fpSign_bne (a b : Bool) : fpSign (a != b) = fpSign a * fpSign b := by cases a <;> cases b <;> norm_num [fpSign]

theorem fpSign_bne_div (a b : Bool) : fpSign (a != b) = fpSign a / fpSign b := by cases a <;> cases b <;> norm_num [fpSign]

theorem abs_fpSign_mul (neg : Bool) {z : ℚ} (hz : 0 ≤ z) : |fpSign neg * z| = z := by
  cases neg <;> simp [fpSign, abs_of_nonneg hz]

theorem fpSign_mul_neg_iff (neg : Bool) {z : ℚ} (hz : 0 < z) : fpSign neg * z < 0 ↔ neg = true := by
  cases neg <;> simp [fpSign, hz, hz.le]

/-! ### Constants of the formats -/

theorem infinity_eq (hf : f = .s ∨ f = .d) : f.infinity = (2 * f.bias - 1) * 2 ^ f.fracBits + 2 ^ (f.fracBits + 1) := by
  obtain ⟨he, hb⟩ := float_expMax hf
  obtain ⟨k, hk⟩ := Nat.exists_eq_add_of_le hb
  rw [FpFmt.infinity, he, hk, pow_succ, show 2 * (1 + k) - 1 = 2 * k + 1 by omega]
  ring

/-- The smallest normal number. -/
theorem minQuantum_add (f : FpFmt) : f.minQuantum + f.fracBits = 1 - (f.bias : ℤ) := Int.sub_add_cancel _ _

/-- One last place past the largest finite number. -/
theorem two_zpow_bias_succ (K : Type*) [Field K] [LinearOrder K] [IsStrictOrderedRing K] (f : FpFmt) :
    (2 : K) ^ ((f.bias : ℤ) + 1) = 2 ^ (f.fracBits + 1) * 2 ^ ((f.bias : ℤ) - f.fracBits) := by
  rw [← zpow_natCast, ← zpow_add₀ two_ne_zero]
  congr 1
  push_cast
  ring

/-! ### Results in range -/

/-- The answer is a normal number: `n` last places, `j` steps above the smallest exponent. -/
structure NormalResult (f : FpFmt) (rm : RoundMode) (neg : Bool) (z : K) (r : FpAnswer) (j n : Nat) : Prop where
  rounds : RoundsTo rm neg (z / 2 ^ (f.minQuantum + j)) n
  low : 2 ^ f.fracBits ≤ z / 2 ^ (f.minQuantum + j)
  high : z / 2 ^ (f.minQuantum + j) < 2 ^ (f.fracBits + 1)
  inexact : r.flags.i = false ↔ z / 2 ^ (f.minQuantum + j) = n
  noFlags : r.flags.v = false ∧ r.flags.z = false ∧ r.flags.o = false ∧ r.flags.u = false
  tiny : r.tiny = false
  finite : FpFinite f r.value
  sign : fpNeg f r.value = neg
  rat : fpRat f r.value = fpSign neg * (n * 2 ^ (f.minQuantum + j))

/-- The exact result is so far past the largest finite number that the mode rounds it beyond; `2 ^ (bias + 1)` is one last place past that
number. -/
def PastLargest (f : FpFmt) (rm : RoundMode) (neg : Bool) (z : K) : Prop :=
  match rm, neg with
  | .nearest, _ => 2 ^ ((f.bias : ℤ) + 1) - 2 ^ ((f.bias : ℤ) - f.fracBits) / 2 ≤ z
  | .zero, _ | .up, true | .down, false => 2 ^ ((f.bias : ℤ) + 1) ≤ z
  | .up, false | .down, true => 2 ^ ((f.bias : ℤ) + 1) - 2 ^ ((f.bias : ℤ) - f.fracBits) < z

theorem PastLargest.of_le (h : 2 ^ ((f.bias : ℤ) + 1) ≤ z) : PastLargest f rm neg z := by
  have hu : (0 : K) < 2 ^ ((f.bias : ℤ) - f.fracBits) := by positivity
  cases rm <;> cases neg <;> simp only [PastLargest] <;> linarith

/-- Rounding a magnitude of the binade of the largest number to the next power of two. -/
theorem PastLargest.of_rounds {y : K} (h : RoundsTo rm neg y (2 ^ (f.fracBits + 1))) :
    PastLargest f rm neg (y * 2 ^ ((f.bias : ℤ) - f.fracBits)) := by
  have hu : (0 : K) < 2 ^ ((f.bias : ℤ) - f.fracBits) := by positivity
  have scale : ∀ c : K, c ≤ y → c * 2 ^ ((f.bias : ℤ) - f.fracBits) ≤ y * 2 ^ ((f.bias : ℤ) - f.fracBits) := fun c hc =>
    mul_le_mul_of_nonneg_right hc hu.le
  have scale_lt : ∀ c : K, c < y → c * 2 ^ ((f.bias : ℤ) - f.fracBits) < y * 2 ^ ((f.bias : ℤ) - f.fracBits) := fun c hc =>
    mul_lt_mul_of_pos_right hc hu
  have nearest : |(2 : K) ^ (f.fracBits + 1) - y| * 2 ≤ 1 → (2 : K) ^ (f.fracBits + 1) - 1 / 2 ≤ y := fun ha => by
    linarith [(abs_le.mp (show |(2 : K) ^ (f.fracBits + 1) - y| ≤ 1 / 2 by linarith)).2]
  cases rm <;> cases neg <;> simp only [PastLargest, RoundsTo, Nat.cast_pow, Nat.cast_ofNat, two_zpow_bias_succ] at h ⊢
  case nearest.false | nearest.true => linarith [scale _ (nearest h.1)]
  case zero.false | zero.true | up.true | down.false => exact scale _ h.1
  case up.false | down.true => linarith [scale_lt (2 ^ (f.fracBits + 1) - 1) (by linarith [h.2])]

namespace PlacesRounded

variable (h : PlacesRounded f rm neg z r j n inexact tiny)
include h

theorem le_places : n ≤ 2 ^ (f.fracBits + 1) := h.rounds.le_of_le (by exact_mod_cast h.below.le)

theorem places_le : j = 0 ∨ 2 ^ f.fracBits ≤ n := h.above.imp_right fun h' => h.rounds.ge_of_ge (by exact_mod_cast h')

/-- A tiny result is below the normal numbers or, rounded up, the smallest of them. -/
theorem tiny_places (ht : tiny = true) : j = 0 ∧ n ≤ 2 ^ f.fracBits := by
  have hlt := h.tiny_iff.mp ht
  exact ⟨h.above.resolve_right (not_le.mpr hlt), h.rounds.le_of_le (by exact_mod_cast hlt.le)⟩

theorem tiny_iff_small : tiny = true ↔ z < 2 ^ (1 - (f.bias : ℤ)) := by
  rw [h.tiny_iff, div_lt_iff₀ (by positivity), ← zpow_natCast, ← zpow_add₀ two_ne_zero, ← minQuantum_add]
  rcases h.above with rfl | h'
  · rw [Nat.cast_zero, add_zero, add_comm]
  · rw [le_div_iff₀ (by positivity), ← zpow_natCast, ← zpow_add₀ two_ne_zero] at h'
    refine iff_of_false (not_lt.mpr h') (not_lt.mpr (le_trans (zpow_le_zpow_right₀ one_le_two ?_) h'))
    omega

/-- Overflow comes from a magnitude past the largest finite number. -/
theorem pastLargest (hf : f = .s ∨ f = .d) (ho : f.infinity ≤ j * 2 ^ f.fracBits + n) : PastLargest f rm neg z := by
  have hn := h.le_places
  have hb := (float_expMax hf).2
  rw [infinity_eq hf] at ho
  have hp : 0 < 2 ^ f.fracBits := by positivity
  have hj : 2 * f.bias - 1 ≤ j := Nat.le_of_mul_le_mul_right (by omega : (2 * f.bias - 1) * 2 ^ f.fracBits ≤ j * 2 ^ f.fracBits) hp
  rcases hj.eq_or_lt with hj | hj
  · obtain rfl : n = 2 ^ (f.fracBits + 1) := by
      rw [hj] at ho
      omega
    have hq : f.minQuantum + j = (f.bias : ℤ) - f.fracBits := by
      rw [FpFmt.minQuantum]
      omega
    have hr := h.rounds
    rw [hq] at hr
    rw [← div_mul_cancel₀ z (show (2 : K) ^ ((f.bias : ℤ) - f.fracBits) ≠ 0 by positivity)]
    exact PastLargest.of_rounds hr
  · refine PastLargest.of_le ?_
    have h' := h.above.resolve_left (by omega)
    rw [le_div_iff₀ (by positivity), ← zpow_natCast, ← zpow_add₀ two_ne_zero] at h'
    refine le_trans (zpow_le_zpow_right₀ one_le_two ?_) h'
    rw [FpFmt.minQuantum]
    omega

end PlacesRounded

/-- What a result rounded once can be. -/
theorem FpRoundsTo.cases (hf : f = .s ∨ f = .d) (h : FpRoundsTo f rm neg z r) :
    (∃ j n, NormalResult f rm neg z r j n)
      ∨ (r = fpOverflow f rm neg ∧ PastLargest f rm neg z)
      ∨ (r.tiny = true ∧ fpNeg f r.value = neg ∧ z < 2 ^ (1 - (f.bias : ℤ))) := by
  obtain ⟨j, n, inexact, tiny, h⟩ := h
  have hanswer := h.answer
  split at hanswer
  case isTrue ho => exact .inr (.inl ⟨hanswer, h.pastLargest hf ho⟩)
  case isFalse ho =>
    have hm := (not_le.mp ho).trans_le ((Nat.le_add_right _ _).trans (infinity_add f).le)
    subst hanswer
    cases tiny
    case true => exact .inr (.inr ⟨rfl, fpNeg_fpPack hf neg hm, h.tiny_iff_small.mp rfl⟩)
    case false =>
      refine .inl ⟨j, n, h.rounds, ?_, h.below, h.inexact_iff, ⟨rfl, rfl, rfl, rfl⟩, rfl, ?_, fpNeg_fpPack hf neg hm, ?_⟩
      · exact not_lt.mp fun hlt => Bool.false_ne_true (h.tiny_iff.mpr hlt)
      · rw [fpFinite_iff, fpMagnitude_fpPack hf neg hm]
        exact not_le.mp ho
      · rw [fpRat_fpPack hf neg hm, fpMagnitudeRat_places h.le_places h.places_le]

theorem FpRoundsTo.tiny_iff (hf : f = .s ∨ f = .d) (h : FpRoundsTo f rm neg z r) : r.tiny = true ↔ z < 2 ^ (1 - (f.bias : ℤ)) := by
  obtain ⟨j, n, inexact, tiny, h⟩ := h
  rw [← h.tiny_iff_small, h.answer]
  split
  case isFalse => rfl
  case isTrue ho =>
    refine iff_of_false Bool.false_ne_true fun ht => ?_
    obtain ⟨rfl, hn⟩ := h.tiny_places ht
    have hp : 0 < 2 ^ f.fracBits := by positivity
    rw [infinity_eq hf, pow_succ] at ho
    omega

end Sys2Proof.Machine
end

section
/-! SUPPORT. An answer to an exact rational result, rounded once, is what `FpRounded` says, and is tiny exactly below the normal numbers
(`45_fpu.md` R702, R790). -/

namespace Sys2Proof.Machine

variable {f : FpFmt} {rm : RoundMode} {neg : Bool} {fcsr : Word} {q z u : ℚ} {r : FpAnswer} {v : DWord} {fl : FpFlags} {j n : Nat}

/-! ### Rounding with a sign -/

/-- A magnitude rounded to an integer number of places is its signed number rounded to a multiple of the place. -/
theorem RoundsTo.roundedTo (hu : 0 < u) (hz : 0 ≤ z) (h : RoundsTo rm neg (z / u) n) :
    RoundedTo rm u (fpSign neg * z) (fpSign neg * (n * u)) := by
  obtain ⟨y, rfl⟩ : ∃ y, z = y * u := ⟨z / u, (div_mul_cancel₀ z hu.ne').symm⟩
  rw [mul_div_cancel_right₀ y hu.ne'] at h
  have hy : 0 ≤ y := nonneg_of_mul_nonneg_left hz hu
  have habs : |fpSign neg * (n * u) - fpSign neg * (y * u)| * 2 = |(n : ℚ) - y| * 2 * u := by
    rw [← mul_sub, ← sub_mul, abs_mul, abs_mul, abs_of_pos hu]
    cases neg <;> simp [fpSign] <;> ring
  have hn : 0 ≤ (n : ℚ) * u := by positivity
  have scale : ∀ {a b : ℚ}, a ≤ b → a * u ≤ b * u := fun hab => mul_le_mul_of_nonneg_right hab hu.le
  have scale_lt : ∀ {a b : ℚ}, a < b → a * u < b * u := fun hab => mul_lt_mul_of_pos_right hab hu
  refine ⟨⟨if neg then -(n : ℤ) else n, ?multiple, ?even⟩, ?nearest, ?zero, ?up, ?down⟩
  case multiple => cases neg <;> simp [fpSign]
  case even =>
    rintro rfl ht
    rw [habs, mul_eq_right₀ hu.ne'] at ht
    have := h.2 ht
    cases neg <;> simp <;> omega
  case nearest =>
    rintro rfl
    rw [habs]
    linarith [scale h.1]
  case zero =>
    rintro rfl
    rw [abs_fpSign_mul neg hn, abs_fpSign_mul neg hz, mul_mul_mul_comm, fpSign_mul_self, one_mul]
    exact ⟨mul_nonneg hn hz, scale h.1, by linarith [scale_lt h.2]⟩
  case up | down =>
    rintro rfl
    cases neg <;> simp only [fpSign, RoundsTo, if_true, Bool.false_eq_true, if_false] at h ⊢ <;>
    · have h1 := scale h.1
      have h2 := scale_lt h.2
      constructor <;> linarith

/-! ### The last place of a result -/

theorem fpUlp_of_binade (hq : q ≠ 0) (low : 2 ^ f.fracBits ≤ |q| / 2 ^ (f.minQuantum + j))
    (high : |q| / 2 ^ (f.minQuantum + j) < 2 ^ (f.fracBits + 1)) : fpUlp f q = 2 ^ (f.minQuantum + j) := by
  have hpos : 0 < |q| := abs_pos.mpr hq
  rw [le_div_iff₀ (by positivity), ← zpow_natCast, ← zpow_add₀ two_ne_zero] at low
  rw [div_lt_iff₀ (by positivity), ← zpow_natCast, ← zpow_add₀ two_ne_zero] at high
  have hlow := (Int.zpow_le_iff_le_log (b := 2) (by decide) hpos).mp (by exact_mod_cast low)
  have hhigh := (Int.lt_zpow_iff_log_lt (b := 2) (by decide) hpos).mp (by exact_mod_cast high)
  rw [fpUlp]
  congr 1
  push_cast at hhigh
  omega

/-- The largest finite number is one last place below a power of two. -/
theorem fpRat_fpMaxFinite (hf : f = .s ∨ f = .d) :
    fpRat f (fpMaxFinite f false) = (2 ^ (f.fracBits + 1) - 1) * 2 ^ (f.minQuantum + ((2 * f.bias - 1 : Nat) : ℤ)) := by
  have hp : 2 ^ f.fracBits ≤ 2 ^ (f.fracBits + 1) - 1 := by
    have : 0 < 2 ^ f.fracBits := by positivity
    rw [pow_succ]
    omega
  have hi : f.infinity - 1 = (2 * f.bias - 1) * 2 ^ f.fracBits + (2 ^ (f.fracBits + 1) - 1) := by
    rw [infinity_eq hf, Nat.add_sub_assoc Nat.one_le_two_pow]
  have hlt : f.infinity - 1 < 2 ^ (f.fracBits + f.expBits) := by
    have : 0 < 2 ^ f.fracBits := by positivity
    rw [← infinity_add]
    omega
  rw [fpMaxFinite, ← FpFmt.infinity, fpRat_fpPack hf false hlt, hi, fpMagnitudeRat_places (Nat.sub_le _ _) (.inr hp),
    Nat.cast_pred (by positivity)]
  simp [fpSign]

theorem largest_exponent (hf : f = .s ∨ f = .d) : f.minQuantum + ((2 * f.bias - 1 : Nat) : ℤ) = f.bias - f.fracBits := by
  have := (float_expMax hf).2
  rw [FpFmt.minQuantum]
  omega

theorem fpUlp_fpMaxFinite (hf : f = .s ∨ f = .d) : fpUlp f (fpRat f (fpMaxFinite f false)) = 2 ^ ((f.bias : ℤ) - f.fracBits) := by
  have hu : (0 : ℚ) < 2 ^ (f.minQuantum + ((2 * f.bias - 1 : Nat) : ℤ)) := by positivity
  have hp : (1 : ℚ) ≤ 2 ^ f.fracBits := one_le_pow₀ one_le_two
  have hpos : (0 : ℚ) < 2 ^ (f.fracBits + 1) - 1 := by
    rw [pow_succ]
    linarith
  rw [← largest_exponent hf, fpRat_fpMaxFinite hf]
  apply fpUlp_of_binade (mul_pos hpos hu).ne' <;> rw [abs_of_pos (mul_pos hpos hu), mul_div_cancel_right₀ _ hu.ne']
  · rw [pow_succ]
    linarith
  · linarith

theorem PastLargest.fpOverflows (hf : f = .s ∨ f = .d) (hz : 0 < z) (h : PastLargest f rm neg z) : FpOverflows f rm (fpSign neg * z) := by
  unfold FpOverflows
  dsimp only
  rw [fpUlp_fpMaxFinite hf, fpRat_fpMaxFinite hf, largest_exponent hf, abs_fpSign_mul neg hz.le]
  have hM := two_zpow_bias_succ ℚ f
  cases rm <;> cases neg <;> simp only [PastLargest, fpSign, if_true, Bool.false_eq_true, if_false] at h ⊢
  case nearest.false | nearest.true => linarith
  case zero.false | zero.true => linarith
  case up.false => exact .inl (by linarith)
  case up.true => exact .inr (by linarith)
  case down.false => exact .inr (by linarith)
  case down.true => exact .inl (by linarith)

/-! ### Answers to exact results -/

/-- `r` answers the exact result `q`: a zero of the given sign, or `q` rounded once. -/
def FpAnswers (f : FpFmt) (rm : RoundMode) (neg : Bool) (q : ℚ) (r : FpAnswer) : Prop :=
  (q = 0 ∧ ∃ v, r = fpExact v ∧ fpMagnitude f v = 0 ∧ fpNeg f v = neg)
    ∨ ∃ z : ℚ, 0 < z ∧ q = fpSign neg * z ∧ FpRoundsTo f rm neg z r

theorem fpSign_mul_ne_zero (neg : Bool) (hz : 0 < z) : fpSign neg * z ≠ 0 :=
  abs_pos.mp (by rw [abs_fpSign_mul neg hz.le]; exact hz)

theorem FpAnswers.tiny_iff (hf : f = .s ∨ f = .d) (h : FpAnswers f rm neg q r) :
    r.tiny = true ↔ q ≠ 0 ∧ |q| < (2 : ℚ) ^ (1 - (f.bias : ℤ)) := by
  rcases h with ⟨rfl, v, rfl, -⟩ | ⟨z, hz, rfl, h⟩
  · simp [fpExact, fpFlagged]
  · rw [h.tiny_iff hf, abs_fpSign_mul neg hz.le, and_iff_right (fpSign_mul_ne_zero neg hz)]

/-- Zero is rounded to itself. -/
theorem roundedTo_zero (hu : 0 < u) : RoundedTo rm u 0 0 := by
  simpa using RoundsTo.roundedTo (n := 0) (neg := false) (z := 0) hu le_rfl (by simpa using RoundsTo.natCast (K := ℚ) rm false 0)

theorem fpRat_of_magnitude_zero (h : fpMagnitude f v = 0) : fpRat f v = 0 := by
  rw [fpRat_eq, h, fpMagnitudeRat_zero, mul_zero]

theorem infinity_pos (hf : f = .s ∨ f = .d) : 0 < f.infinity := by rcases hf with rfl | rfl <;> decide

theorem fpFinite_of_magnitude_zero (hf : f = .s ∨ f = .d) (h : fpMagnitude f v = 0) : FpFinite f v := by
  rw [fpFinite_iff, h]
  exact infinity_pos hf

/-! ### Signs of the special values -/

theorem infinity_lt (f : FpFmt) : f.infinity < 2 ^ (f.fracBits + f.expBits) := infinity_add f ▸ Nat.lt_add_of_pos_right (by positivity)

theorem fpNeg_fpInf (hf : f = .s ∨ f = .d) (neg : Bool) : fpNeg f (fpInf f neg) = neg := fpNeg_fpPack hf neg (infinity_lt f)

theorem fpNeg_fpZero (hf : f = .s ∨ f = .d) (neg : Bool) : fpNeg f (fpZero f neg) = neg := fpNeg_fpPack hf neg (by positivity)

theorem fpNeg_fpMinNormal (hf : f = .s ∨ f = .d) (neg : Bool) : fpNeg f (fpMinNormal f neg) = neg := by
  refine fpNeg_fpPack hf neg (Nat.pow_lt_pow_right (by decide) ?_)
  rcases hf with rfl | rfl <;> decide

theorem fpNeg_fpMaxFinite (hf : f = .s ∨ f = .d) (neg : Bool) : fpNeg f (fpMaxFinite f neg) = neg :=
  fpNeg_fpPack hf neg ((Nat.sub_le _ _).trans_lt (infinity_lt f))

theorem fpNeg_fpOverflow (hf : f = .s ∨ f = .d) (rm : RoundMode) (neg : Bool) : fpNeg f (fpOverflow f rm neg).value = neg := by
  cases rm <;> cases neg <;> simp [fpOverflow, fpFlagged, fpNeg_fpInf hf, fpNeg_fpMaxFinite hf]

theorem fpNeg_fpFlush (hf : f = .s ∨ f = .d) (rm : RoundMode) (neg : Bool) : fpNeg f (fpFlush f rm neg) = neg := by
  cases rm <;> cases neg <;> simp [fpFlush, fpNeg_fpZero hf, fpNeg_fpMinNormal hf]

/-! ### What is delivered -/

theorem fpFlushed_normal (h : r.tiny = false) (fs : Bool) : fpFlushed fs f rm r = .value r.value r.flags := by
  rw [fpFlushed, h, Bool.and_false]
  rfl

theorem fpFlushed_tiny (h : r.tiny = true) (hn : fpNeg f r.value = neg) :
    fpFlushed true f rm r = .value (fpFlush f rm neg) { FpFlags.none with u := true, i := true } := by
  rw [fpFlushed, h, hn]
  rfl

theorem fpRounded_zero (hf : f = .s ∨ f = .d) (h : fpMagnitude f v = 0) : FpRounded f fcsr 0 v FpFlags.none where
  noInvalid := ⟨rfl, rfl⟩
  finite _ _ := by
    rw [fpRat_of_magnitude_zero h]
    exact ⟨fpFinite_of_magnitude_zero hf h, iff_of_true rfl rfl, roundedTo_zero (zpow_pos two_pos _), .inl rfl⟩
  overflow := nofun
  underflow := nofun

theorem NormalResult.rounded (hz : 0 < z) (h : NormalResult f (RoundMode.ofBits (fcsrRm fcsr)) neg z r j n) :
    FpRounded f fcsr (fpSign neg * z) r.value r.flags := by
  have hu : (0 : ℚ) < 2 ^ (f.minQuantum + j) := by positivity
  have habs := abs_fpSign_mul neg hz.le
  have hne := fpSign_mul_ne_zero neg hz
  have hlow := h.low
  obtain ⟨noV, noZ, noO, noU⟩ := h.noFlags
  have exactly : fpRat f r.value = fpSign neg * z ↔ z / 2 ^ (f.minQuantum + j) = n := by
    rw [h.rat, mul_right_inj' (left_ne_zero_of_mul hne), div_eq_iff hu.ne', eq_comm]
  refine ⟨⟨noV, noZ⟩, fun _ _ => ⟨h.finite, h.inexact.trans exactly.symm, ?_, .inr ?_⟩, ?_, ?_⟩
  · rw [fpUlp_of_binade hne (by rw [habs]; exact h.low) (by rw [habs]; exact h.high), h.rat]
    exact h.rounds.roundedTo hu hz.le
  · rw [le_div_iff₀ hu, ← zpow_natCast, ← zpow_add₀ two_ne_zero] at hlow
    rw [habs, ← minQuantum_add]
    exact (zpow_le_zpow_right₀ one_le_two (by omega)).trans hlow
  · rw [noO]
    nofun
  · rw [noU]
    nofun

theorem PastLargest.rounded (hf : f = .s ∨ f = .d) (hz : 0 < z) (h : PastLargest f (RoundMode.ofBits (fcsrRm fcsr)) neg z) :
    FpRounded f fcsr (fpSign neg * z) (fpOverflow f (RoundMode.ofBits (fcsrRm fcsr)) neg).value
      (fpOverflow f (RoundMode.ofBits (fcsrRm fcsr)) neg).flags where
  noInvalid := ⟨rfl, rfl⟩
  finite := nofun
  overflow _ := by
    refine ⟨rfl, rfl, h.fpOverflows hf hz, ?_⟩
    have hneg := fpSign_mul_neg_iff neg hz
    generalize RoundMode.ofBits (fcsrRm fcsr) = rm
    cases neg <;> cases rm <;> simp [fpOverflow, fpFlagged, hneg]
  underflow := nofun

theorem fpFlush_rounded (hs : fcsrFs fcsr = true) (hz : 0 < z) (h : z < 2 ^ (1 - (f.bias : ℤ))) :
    FpRounded f fcsr (fpSign neg * z) (fpFlush f (RoundMode.ofBits (fcsrRm fcsr)) neg) { FpFlags.none with u := true, i := true } where
  noInvalid := ⟨rfl, rfl⟩
  finite := nofun
  overflow := nofun
  underflow _ := by
    refine ⟨rfl, rfl, hs, fpSign_mul_ne_zero neg hz, by rwa [abs_fpSign_mul neg hz.le], ?_⟩
    have hneg := fpSign_mul_neg_iff neg hz
    generalize RoundMode.ofBits (fcsrRm fcsr) = rm
    cases neg <;> cases rm <;> simp [fpFlush, hneg]

/-- What a delivered answer to an exact result is: as `FpRounded` says, with the sign of the result. -/
theorem FpAnswers.rounded (hf : f = .s ∨ f = .d) (h : FpAnswers f (RoundMode.ofBits (fcsrRm fcsr)) neg q r)
    (ht : r.tiny = true → fcsrFs fcsr = true)
    (ho : fpFlushed (fcsrFs fcsr) f (RoundMode.ofBits (fcsrRm fcsr)) r = .value v fl) : FpRounded f fcsr q v fl ∧ fpNeg f v = neg := by
  rcases h with ⟨rfl, v, rfl, hv, rfl⟩ | ⟨z, hz, rfl, h⟩
  · rw [fpFlushed_normal rfl] at ho
    cases ho
    exact ⟨fpRounded_zero hf hv, rfl⟩
  · rcases h.cases hf with ⟨j, n, hr⟩ | ⟨rfl, hr⟩ | ⟨htiny, hneg, hsmall⟩
    · rw [fpFlushed_normal hr.tiny] at ho
      cases ho
      exact ⟨hr.rounded hz, hr.sign⟩
    · rw [fpFlushed_normal rfl] at ho
      cases ho
      exact ⟨hr.rounded hf hz, fpNeg_fpOverflow hf _ _⟩
    · rw [ht htiny, fpFlushed_tiny htiny hneg] at ho
      cases ho
      exact ⟨fpFlush_rounded (ht htiny) hz hsmall, fpNeg_fpFlush hf _ _⟩

end Sys2Proof.Machine
end

section
/-! SUPPORT. The operations on finite operands answer their exact results (`45_fpu.md` R730 to R734, R748, R749). -/

namespace Sys2Proof.Machine

variable {K : Type*} [Field K] [LinearOrder K] [IsStrictOrderedRing K] {f src dst : FpFmt} {rm : RoundMode} {neg : Bool} {e : ℤ} {m : Nat}
  {q : ℚ} {a b x : DWord}

/-! ### Finite operands -/

theorem FpFinite.not_inf (h : FpFinite f x) : ¬fpIsInf f x = true := fun hi => (fpFinite_iff.mp h).ne (fpIsInf_iff.mp hi)

theorem FpFinite.not_nan (h : FpFinite f x) : fpIsNan f x = false := fpIsNan_eq_false.mpr (fpFinite_iff.mp h).le

theorem fpSig_pos (h : ¬fpIsZero f x = true) : 0 < fpSig f x := by
  rw [fpIsZero_iff, fpMagnitude_eq] at h
  rw [fpSig]
  split
  case isTrue he => simpa [he, Nat.pos_iff_ne_zero] using h
  case isFalse => positivity

theorem fpRat_eq_sig (f : FpFmt) (x : DWord) : fpRat f x = fpSign (fpNeg f x) * (fpSig f x * 2 ^ fpQuantum f x) := by
  rw [fpRat_eq, fpSig_mul]

theorem fpRat_eq_zero_iff : fpRat f x = 0 ↔ fpIsZero f x = true := by
  refine ⟨fun h => ?_, fun h => fpRat_of_magnitude_zero (fpIsZero_iff.mp h)⟩
  by_contra hz
  have := fpSig_pos hz
  exact fpSign_mul_ne_zero (fpNeg f x) (z := fpSig f x * 2 ^ fpQuantum f x) (by positivity) (by rw [← fpRat_eq_sig, h])

theorem fpZero_answers (hf : f = .s ∨ f = .d) (rm : RoundMode) (neg : Bool) (hq : q = 0) :
    FpAnswers f rm neg q (fpExact (fpZero f neg)) :=
  .inl ⟨hq, _, rfl, fpMagnitude_fpPack hf neg (by positivity), fpNeg_fpZero hf neg⟩

/-- An exact result that is a multiple of a power of two. -/
theorem fpRound_answers (rm : RoundMode) (hm : 0 < m) (hq : q = fpSign neg * (m * 2 ^ e)) :
    FpAnswers f rm neg q (fpRound f rm neg m e false) :=
  .inr ⟨m * 2 ^ e, by positivity, hq, fpRound_roundsTo (StickyFloor.natCast m) hm nofun⟩

/-! ### Sums (R730, R731) -/

theorem intCast_eq (v : ℤ) : (v : ℚ) = fpSign (decide (v < 0)) * v.natAbs := by
  rcases lt_or_ge v 0 with h | h
  · simp [fpSign, h, abs_of_neg]
  · simp [fpSign, h.not_gt, abs_of_nonneg h]

theorem fpRoundInt_answers (hf : f = .s ∨ f = .d) (rm : RoundMode) (v e : ℤ) (hq : q = v * 2 ^ e) :
    FpAnswers f rm (if v = 0 then decide (rm = .down) else decide (v < 0)) q (fpRoundInt f rm v e) := by
  rw [fpRoundInt]
  split
  case isTrue h => exact fpZero_answers hf rm _ (by rw [hq, h, Int.cast_zero, zero_mul])
  case isFalse h => exact fpRound_answers rm (Int.natAbs_pos.mpr h) (by rw [hq, intCast_eq, mul_assoc])

theorem fpUnits_mul (h : e ≤ fpQuantum f x) : (fpUnits f x e : ℚ) * 2 ^ e = fpRat f x := by
  have hm : ((fpSig f x * 2 ^ (fpQuantum f x - e).toNat : Nat) : ℚ) * 2 ^ e = fpSig f x * 2 ^ fpQuantum f x := by
    obtain ⟨k, hk⟩ : ∃ k : Nat, fpQuantum f x = e + k := ⟨(fpQuantum f x - e).toNat, by omega⟩
    rw [hk, add_sub_cancel_left, Int.toNat_natCast, zpow_add₀ two_ne_zero, zpow_natCast]
    push_cast
    ring
  rw [fpRat_eq_sig, ← hm, fpUnits]
  cases fpNeg f x <;> simp [fpSign]

theorem fpSum_finite (ha : FpFinite f a) (hb : FpFinite f b) :
    fpSum f rm a b =
      if fpIsZero f a && fpIsZero f b && decide (fpNeg f a = fpNeg f b) then fpExact a
      else fpRoundInt f rm (fpUnits f a (min (fpQuantum f a) (fpQuantum f b)) + fpUnits f b (min (fpQuantum f a) (fpQuantum f b)))
        (min (fpQuantum f a) (fpQuantum f b)) := by
  rw [fpSum, if_neg ha.not_inf, if_neg hb.not_inf]

theorem fpUnits_add_mul (a b : DWord) :
    ((fpUnits f a (min (fpQuantum f a) (fpQuantum f b)) + fpUnits f b (min (fpQuantum f a) (fpQuantum f b)) : ℤ) : ℚ)
      * 2 ^ min (fpQuantum f a) (fpQuantum f b) = fpRat f a + fpRat f b := by
  rw [Int.cast_add, add_mul, fpUnits_mul (min_le_left _ _), fpUnits_mul (min_le_right _ _)]

theorem fpSum_answers (hf : f = .s ∨ f = .d) (rm : RoundMode) (ha : FpFinite f a) (hb : FpFinite f b) :
    ∃ neg, FpAnswers f rm neg (fpRat f a + fpRat f b) (fpSum f rm a b) := by
  rw [fpSum_finite ha hb]
  split
  case isTrue h =>
    obtain ⟨⟨h0, h1⟩, -⟩ := by simpa using h
    refine ⟨fpNeg f a, .inl ⟨?_, a, rfl, fpIsZero_iff.mp h0, rfl⟩⟩
    rw [fpRat_eq_zero_iff.mpr h0, fpRat_eq_zero_iff.mpr h1, add_zero]
  case isFalse => exact ⟨_, fpRoundInt_answers hf rm _ _ (fpUnits_add_mul a b).symm⟩

/-- An exact difference of zero has the sign of equal zeros, and else that of the mode. -/
theorem fpSum_of_sum_zero (ha : FpFinite f a) (hb : FpFinite f b) (h : fpRat f a + fpRat f b = 0) :
    fpSum f rm a b = fpExact (if fpIsZero f a && decide (fpNeg f a = fpNeg f b) then a else fpZero f (decide (rm = .down))) := by
  have hz : fpIsZero f a = true → fpIsZero f b = true := fun h0 => by
    rw [fpRat_eq_zero_iff.mpr h0, zero_add] at h
    exact fpRat_eq_zero_iff.mp h
  have hv := fpUnits_add_mul (f := f) a b
  rw [h, mul_eq_zero, or_iff_left (by positivity), Int.cast_eq_zero] at hv
  rw [fpSum_finite ha hb, hv, fpRoundInt, if_pos rfl]
  cases h0 : fpIsZero f a
  · rfl
  · rw [hz h0, Bool.and_self, apply_ite fpExact]

theorem fpMagnitude_fpFlip (hf : f = .s ∨ f = .d) (x : DWord) : fpMagnitude f (fpFlip f x) = fpMagnitude f x :=
  fpMagnitude_fpPack hf _ (fpMagnitude_lt_two_pow f x)

theorem fpNeg_fpFlip (hf : f = .s ∨ f = .d) (x : DWord) : fpNeg f (fpFlip f x) = !fpNeg f x :=
  fpNeg_fpPack hf _ (fpMagnitude_lt_two_pow f x)

theorem fpRat_fpFlip (hf : f = .s ∨ f = .d) (x : DWord) : fpRat f (fpFlip f x) = -fpRat f x := by
  rw [fpRat_eq, fpRat_eq, fpMagnitude_fpFlip hf, fpNeg_fpFlip hf, fpSign_not, neg_mul]

theorem FpFinite.fpFlip (hf : f = .s ∨ f = .d) (h : FpFinite f x) : FpFinite f (fpFlip f x) := by
  rw [fpFinite_iff, fpMagnitude_fpFlip hf]
  exact fpFinite_iff.mp h

/-! ### Products and quotients (R732, R733) -/

theorem fpProduct_answers (hf : f = .s ∨ f = .d) (rm : RoundMode) (ha : FpFinite f a) (hb : FpFinite f b) :
    FpAnswers f rm (fpNeg f a != fpNeg f b) (fpRat f a * fpRat f b) (fpProduct f rm a b) := by
  rw [fpProduct, if_neg (by simp [ha.not_inf, hb.not_inf])]
  split
  case isTrue h =>
    refine fpZero_answers hf rm _ (mul_eq_zero.mpr ?_)
    rw [fpRat_eq_zero_iff, fpRat_eq_zero_iff]
    exact (Bool.or_eq_true _ _).mp h
  case isFalse h =>
    obtain ⟨h0, h1⟩ := not_or.mp (mt (Bool.or_eq_true _ _).mpr h)
    refine fpRound_answers rm (Nat.mul_pos (fpSig_pos h0) (fpSig_pos h1)) ?_
    rw [fpRat_eq_sig, fpRat_eq_sig, fpSign_bne, zpow_add₀ two_ne_zero]
    push_cast
    ring

/-- The integer quotient and whether there is a remainder tell the quotient. -/
theorem StickyFloor.div (n d : Nat) (hd : 0 < d) : StickyFloor ((n : K) / d) (n / d) (decide (n % d ≠ 0)) := by
  have hd' : (0 : K) < d := by exact_mod_cast hd
  have hn : (n : K) = d * (n / d : Nat) + (n % d : Nat) := by exact_mod_cast (Nat.div_add_mod n d).symm
  have hr : ((n % d : Nat) : K) < d := by exact_mod_cast Nat.mod_lt n hd
  have hr0 : (0 : K) ≤ (n % d : Nat) := Nat.cast_nonneg _
  refine ⟨?_, ?_, ?_⟩
  · rw [le_div_iff₀ hd']
    linarith
  · rw [div_lt_iff₀ hd']
    linarith
  · rw [div_eq_iff hd'.ne', decide_eq_false_iff_not, not_not, ← Nat.cast_eq_zero (R := K)]
    constructor <;> intro h <;> linarith

theorem lt_bitLength {k : Nat} (h : 2 ^ k ≤ m) : k < bitLength m :=
  Nat.lt_succ_of_le ((Nat.le_log2 (Nat.pos_of_ne_zero (by rintro rfl; simp at h) |>.ne')).mpr h)

theorem fpQuotient_answers (hf : f = .s ∨ f = .d) (rm : RoundMode) (ha : FpFinite f a) (hb : FpFinite f b) (h1 : ¬fpIsZero f b = true) :
    FpAnswers f rm (fpNeg f a != fpNeg f b) (fpRat f a / fpRat f b) (fpQuotient f rm a b) := by
  rw [fpQuotient, if_neg ha.not_inf, if_neg hb.not_inf, if_neg h1]
  split
  case isTrue h0 => exact fpZero_answers hf rm _ (by rw [fpRat_eq_zero_iff.mpr h0, zero_div])
  case isFalse h0 =>
    have ha0 := fpSig_pos h0
    have hb0 := fpSig_pos h1
    have hbits : 2 ^ (f.fracBits + 2) ≤ fpSig f a * 2 ^ divShift f (fpSig f b) / fpSig f b := by
      rw [Nat.le_div_iff_mul_le hb0, divShift, pow_add _ (f.fracBits + 3)]
      calc 2 ^ (f.fracBits + 2) * fpSig f b ≤ 2 ^ (f.fracBits + 3) * 2 ^ bitLength (fpSig f b) :=
            Nat.mul_le_mul (Nat.pow_le_pow_right two_pos (Nat.le_succ _)) Nat.lt_log2_self.le
        _ ≤ _ := Nat.le_mul_of_pos_left _ ha0
    refine .inr ⟨(fpSig f a * 2 ^ fpQuantum f a) / (fpSig f b * 2 ^ fpQuantum f b), by positivity, ?_, ?_⟩
    · rw [fpRat_eq_sig, fpRat_eq_sig, mul_div_mul_comm, fpSign_bne_div]
    · have hz : ((fpSig f a : ℚ) * 2 ^ fpQuantum f a) / (fpSig f b * 2 ^ fpQuantum f b) =
          ((fpSig f a * 2 ^ divShift f (fpSig f b) : Nat) : ℚ) / fpSig f b
            * 2 ^ (fpQuantum f a - fpQuantum f b - divShift f (fpSig f b)) := by
        rw [zpow_sub₀ two_ne_zero, zpow_sub₀ two_ne_zero, zpow_natCast]
        push_cast
        field_simp
      rw [hz]
      exact fpRound_roundsTo (StickyFloor.div _ _ hb0) ((by positivity : 0 < 2 ^ (f.fracBits + 2)).trans_le hbits) fun _ =>
        (Nat.lt_succ_self _).trans (lt_bitLength hbits)

/-! ### Conversions (R748, R749) -/

theorem fpToFloat_answers (hf : dst = .s ∨ dst = .d) (rm : RoundMode) (ha : FpFinite src a) :
    FpAnswers dst rm (fpNeg src a) (fpRat src a) (fpToFloat src dst rm a) := by
  rw [fpToFloat, if_neg ha.not_inf]
  split
  case isTrue h0 => exact fpZero_answers hf rm _ (fpRat_eq_zero_iff.mpr h0)
  case isFalse h0 => exact fpRound_answers rm (fpSig_pos h0) (fpRat_eq_sig src a)

theorem fpFromInt_answers (hf : dst = .s ∨ dst = .d) (src : FpFmt) (rm : RoundMode) (a : DWord) :
    FpAnswers dst rm (decide (fpIntOf src a < 0)) (fpIntOf src a) (fpFromInt src dst rm a) := by
  rw [fpFromInt]
  split
  case isTrue h =>
    rw [h]
    exact fpZero_answers hf rm _ Int.cast_zero
  case isFalse h => exact fpRound_answers rm (Int.natAbs_pos.mpr h) (by rw [zpow_zero, mul_one, ← intCast_eq])

end Sys2Proof.Machine
end

section
/-! SUPPORT. Square roots (`45_fpu.md` R734): the integer root finds the integer part of a real root, which `fpRound` rounds once. -/

namespace Sys2Proof.Machine

variable {f : FpFmt} {rm : RoundMode} {q u c : ℚ} {r : FpAnswer} {a : DWord} {j m n : Nat}

/-! ### The integer root -/

/-- The root lies in the `2 ^ k` numbers from `r` up; each bit halves them. -/
theorem isqrt_spec (m : Nat) : ∀ k r, r * r ≤ m → m < (r + 2 ^ k) * (r + 2 ^ k) →
    isqrt m k r * isqrt m k r ≤ m ∧ m < (isqrt m k r + 1) * (isqrt m k r + 1)
  | 0, _, low, high => ⟨low, high⟩
  | k + 1, r, low, high => by
    have half : r + 2 ^ (k + 1) = r + 2 ^ k + 2 ^ k := by rw [pow_succ]; omega
    rw [isqrt]
    split
    case isTrue h => exact isqrt_spec m k _ h (half ▸ high)
    case isFalse h => exact isqrt_spec m k r low (not_le.mp h)

theorem StickyFloor.sqrt (low : n * n ≤ m) (high : m < (n + 1) * (n + 1)) : StickyFloor (√(m : ℝ)) n (decide (n * n ≠ m)) where
  le := Real.le_sqrt_of_sq_le (by rw [sq]; exact_mod_cast low)
  lt := (Real.sqrt_lt' (by positivity)).mpr (by rw [sq]; exact_mod_cast high)
  exact := by
    rw [decide_eq_false_iff_not, not_not, Real.sqrt_eq_iff_mul_self_eq (Nat.cast_nonneg _) (Nat.cast_nonneg _), eq_comm]
    exact_mod_cast Iff.rfl

/-! ### Comparing with a root by squares -/

theorem le_sqrt_div_iff (hq : 0 ≤ q) (hu : 0 < u) (hc : 0 ≤ c) : (c : ℝ) ≤ √(q : ℝ) / u ↔ (c * u) ^ 2 ≤ q := by
  rw [le_div_iff₀ (by exact_mod_cast hu), Real.le_sqrt (by exact_mod_cast mul_nonneg hc hu.le) (by exact_mod_cast hq)]
  exact_mod_cast Iff.rfl

theorem sqrt_div_le_iff (hu : 0 < u) (hc : 0 ≤ c) : √(q : ℝ) / u ≤ c ↔ q ≤ (c * u) ^ 2 := by
  rw [div_le_iff₀ (by exact_mod_cast hu), Real.sqrt_le_left (by exact_mod_cast mul_nonneg hc hu.le)]
  exact_mod_cast Iff.rfl

/-! ### Roots of finite operands -/

theorem fpRat_lt (hf : f = .s ∨ f = .d) (h : FpFinite f a) (hn : fpNeg f a = false) : fpRat f a < 2 ^ ((f.bias : ℤ) + 1) := by
  rw [fpRat_eq, hn, fpSign, if_neg Bool.false_ne_true, one_mul, ← fpMagnitudeRat_infinity hf]
  exact fpMagnitudeRat_strictMono f (fpFinite_iff.mp h)

theorem le_abs_fpRat (h0 : ¬fpIsZero f a = true) (hd : ¬fpIsDenormal f a = true) : 2 ^ (1 - (f.bias : ℤ)) ≤ |fpRat f a| := by
  rw [fpIsZero_iff] at h0
  rw [fpIsDenormal_iff] at hd
  have least := fpMagnitudeRat_places (f := f) (j := 0) (k := 2 ^ f.fracBits) (Nat.pow_le_pow_right two_pos (Nat.le_succ _)) (.inl rfl)
  rw [Nat.zero_mul, Nat.zero_add, Nat.cast_zero, add_zero, Nat.cast_pow, Nat.cast_ofNat, ← zpow_natCast, ← zpow_add₀ two_ne_zero,
    add_comm, minQuantum_add] at least
  rw [fpRat_eq, abs_fpSign_mul _ (fpMagnitudeRat_nonneg f _), ← least]
  exact (fpMagnitudeRat_strictMono f).monotone (by omega)

theorem fpRat_nonneg (hn : fpNeg f a = false) : 0 ≤ fpRat f a := by
  rw [fpRat_eq, hn, fpSign, if_neg Bool.false_ne_true, one_mul]
  exact fpMagnitudeRat_nonneg f _

theorem fpSig_lt (f : FpFmt) (x : DWord) : fpSig f x < 2 ^ (f.fracBits + 1) := by
  have := fpFrac_lt f x
  rw [fpSig, pow_succ]
  split <;> omega

/-- The root of `m * 2 ^ (2 * t)` is that of `m`, scaled. -/
theorem sqrt_mul_zpow (m : Nat) (t : ℤ) : √((m * 2 ^ (2 * t) : ℚ) : ℝ) = √(m : ℝ) * 2 ^ t := by
  push_cast
  rw [Real.sqrt_mul (Nat.cast_nonneg _), mul_comm 2 t, zpow_mul, zpow_ofNat, Real.sqrt_sq (by positivity)]

theorem fpRoot_roundsTo (rm : RoundMode) (h : FpFinite f a) (hn : fpNeg f a = false) (h0 : ¬fpIsZero f a = true) :
    FpRoundsTo f rm false (√(fpRat f a : ℝ)) (fpRoot f rm a) := by
  rw [fpRoot, if_neg h0, if_neg (by rw [hn]; exact Bool.false_ne_true), if_neg h.not_inf]
  dsimp only
  set sh := 2 * f.fracBits + 6 + (if fpQuantum f a % 2 = 0 then 0 else 1) with hsh
  set m := fpSig f a * 2 ^ sh with hm
  obtain ⟨t, ht⟩ : ∃ t, fpQuantum f a = 2 * t + sh := ⟨(fpQuantum f a - sh) / 2, by split at hsh <;> omega⟩
  have long : 2 * f.fracBits + 6 ≤ sh ∧ sh ≤ 2 * f.fracBits + 7 := by split at hsh <;> omega
  have exactly : fpRat f a = m * 2 ^ (2 * t) := by
    rw [fpRat_eq_sig, hn, fpSign, if_neg Bool.false_ne_true, one_mul, ht, zpow_add₀ two_ne_zero, zpow_natCast, hm]
    push_cast
    ring
  have upper : m < (0 + 2 ^ (2 * f.fracBits + 8)) * (0 + 2 ^ (2 * f.fracBits + 8)) := by
    calc m < 2 ^ (f.fracBits + 1) * 2 ^ sh := Nat.mul_lt_mul_of_pos_right (fpSig_lt f a) (by positivity)
      _ ≤ _ := by
        rw [Nat.zero_add, ← pow_add, ← pow_add]
        exact Nat.pow_le_pow_right two_pos (by omega)
  have lower : 2 ^ (f.fracBits + 3) * 2 ^ (f.fracBits + 3) ≤ m := by
    rw [← pow_add]
    exact (Nat.pow_le_pow_right two_pos (by omega)).trans (Nat.le_mul_of_pos_left _ (fpSig_pos h0))
  obtain ⟨low, high⟩ := isqrt_spec m (2 * f.fracBits + 8) 0 (Nat.zero_le m) upper
  have hbits : 2 ^ (f.fracBits + 3) ≤ isqrt m (2 * f.fracBits + 8) 0 :=
    Nat.lt_succ_iff.mp (lt_of_mul_self_lt_mul_self₀ (Nat.zero_le _) (lower.trans_lt high))
  rw [exactly, sqrt_mul_zpow, show (fpQuantum f a - sh) / 2 = t by omega]
  exact fpRound_roundsTo (StickyFloor.sqrt low high) ((by positivity : 0 < 2 ^ (f.fracBits + 3)).trans_le hbits) fun _ =>
    (show f.fracBits + 1 < f.fracBits + 3 by omega).trans (lt_bitLength hbits)

theorem PastLargest.gt {K : Type*} [Field K] [LinearOrder K] [IsStrictOrderedRing K] {neg : Bool} {z : K} (h : PastLargest f rm neg z) :
    2 ^ (f.bias : ℤ) < z := by
  have hM : (2 : K) ^ ((f.bias : ℤ) + 1) = 2 ^ (f.bias : ℤ) * 2 := zpow_add_one₀ two_ne_zero _
  have hu : (0 : K) < 2 ^ ((f.bias : ℤ) - f.fracBits) := by positivity
  have hle : (2 : K) ^ ((f.bias : ℤ) - f.fracBits) ≤ 2 ^ (f.bias : ℤ) := zpow_le_zpow_right₀ one_le_two (by omega)
  cases rm <;> cases neg <;> simp only [PastLargest] at h <;> linarith

/-- The root of a normal number is a normal number. -/
theorem fpRoot_normal (hf : f = .s ∨ f = .d) (rm : RoundMode) (h : FpFinite f a) (hn : fpNeg f a = false) (h0 : ¬fpIsZero f a = true)
    (hd : ¬fpIsDenormal f a = true) : ∃ j n, NormalResult f rm false (√(fpRat f a : ℝ)) (fpRoot f rm a) j n := by
  have hb := (float_expMax hf).2
  rcases (fpRoot_roundsTo rm h hn h0).cases hf with hr | ⟨-, hr⟩ | ⟨-, -, hr⟩
  · exact hr
  · have hsq := Real.lt_sqrt (by positivity) |>.mp hr.gt
    have hlt : (2 ^ (f.bias : ℤ)) ^ 2 < fpRat f a := by exact_mod_cast hsq
    rw [← zpow_ofNat, ← zpow_mul] at hlt
    exact absurd (hlt.trans (fpRat_lt hf h hn)) (not_lt.mpr (zpow_le_zpow_right₀ one_le_two (by omega)))
  · have hle := le_abs_fpRat h0 hd
    rw [abs_of_nonneg (fpRat_nonneg hn)] at hle
    have hone : (2 : ℚ) ^ (1 - (f.bias : ℤ)) ≤ 1 := zpow_le_one_of_nonpos₀ one_le_two (by omega)
    have hsq : ((2 : ℚ) ^ (1 - (f.bias : ℤ))) ^ 2 ≤ fpRat f a := (pow_le_of_le_one (by positivity) hone two_ne_zero).trans hle
    rw [← Rat.cast_le (K := ℝ), Rat.cast_pow, Rat.cast_zpow, Rat.cast_ofNat] at hsq
    exact absurd hr (not_lt.mpr (Real.le_sqrt_of_sq_le hsq))

theorem fpRootUlp_of_binade (hq : 0 < q) (low : (2 ^ f.fracBits * 2 ^ (f.minQuantum + j)) ^ 2 ≤ q)
    (high : q < (2 ^ (f.fracBits + 1) * 2 ^ (f.minQuantum + j)) ^ 2) : fpRootUlp f q = 2 ^ (f.minQuantum + j) := by
  have square : ∀ k : Nat, ((2 : ℚ) ^ k * 2 ^ (f.minQuantum + j)) ^ 2 = 2 ^ ((k + (f.minQuantum + j)) * 2) := fun k => by
    rw [← zpow_natCast 2 k, ← zpow_add₀ two_ne_zero, zpow_mul, zpow_ofNat]
  rw [square] at low high
  have hlow := (Int.zpow_le_iff_le_log (b := 2) (by decide) hq).mp (by exact_mod_cast low)
  have hhigh := (Int.lt_zpow_iff_log_lt (b := 2) (by decide) hq).mp (by exact_mod_cast high)
  rw [fpRootUlp]
  congr 1
  push_cast at hhigh
  omega

/-- A normal result that rounds a real root is the root said of squares. -/
theorem NormalResult.rootRounded (hq : 0 < q) (h : NormalResult f rm false (√(q : ℝ)) r j n) :
    RootRounded rm (fpRootUlp f q) q (fpRat f r.value) ∧ (r.flags.i = false ↔ fpRat f r.value ^ 2 = q) := by
  obtain ⟨u, hu⟩ : ∃ u : ℚ, u = 2 ^ (f.minQuantum + j) := ⟨_, rfl⟩
  have hpos : 0 < u := by rw [hu]; positivity
  have hcast : (2 : ℝ) ^ (f.minQuantum + j) = (u : ℝ) := by rw [hu]; push_cast; rfl
  have le_iff := fun {c : ℚ} => le_sqrt_div_iff (c := c) hq.le hpos
  have ge_iff := fun {c : ℚ} => sqrt_div_le_iff (c := c) (q := q) hpos
  have hrat : fpRat f r.value = n * u := by rw [h.rat, fpSign, if_neg Bool.false_ne_true, one_mul, hu]
  obtain ⟨hr, hlow, hhigh, hi, -⟩ := h
  rw [hcast] at hlow hhigh hr hi
  have hn : 1 ≤ n := Nat.one_le_two_pow.trans (hr.ge_of_ge (by exact_mod_cast hlow))
  have hulp : fpRootUlp f q = u := by
    rw [hu]
    refine fpRootUlp_of_binade hq ?_ ?_ <;> rw [← hu]
    · exact (le_iff (by positivity)).mp (by exact_mod_cast hlow)
    · exact not_le.mp fun h' => not_le.mpr hhigh (by exact_mod_cast (le_iff (c := 2 ^ (f.fracBits + 1)) (by positivity)).mpr h')
  have hn' : (1 : ℚ) ≤ n := by exact_mod_cast hn
  rw [hulp, hrat]
  refine ⟨⟨by positivity, ⟨n, rfl⟩, ?nearest, ?down, ?up⟩, ?inexact⟩
  case nearest =>
    rintro rfl
    have habs := abs_le.mp (show |(n : ℝ) - √(q : ℝ) / u| ≤ 1 / 2 by linarith [hr.1])
    have low := (le_iff (c := n - 1 / 2) (by linarith)).mp (by push_cast; linarith [habs.2])
    have high := (ge_iff (c := n + 1 / 2) (by linarith)).mp (by push_cast; linarith [habs.1])
    rw [show n * u - u / 2 = (n - 1 / 2) * u by ring, show n * u + u / 2 = (n + 1 / 2) * u by ring]
    exact ⟨low, high⟩
  case down =>
    intro hrm
    have htoward : (n : ℝ) ≤ √(q : ℝ) / u ∧ √(q : ℝ) / u < n + 1 := by rcases hrm with rfl | rfl <;> exact hr
    have low := (le_iff (c := n) (by positivity)).mp (by exact_mod_cast htoward.1)
    have high := mt (le_iff (c := n + 1) (by positivity)).mpr (not_le.mpr (by exact_mod_cast htoward.2))
    rw [show n * u + u = (n + 1) * u by ring]
    exact ⟨low, not_le.mp high⟩
  case up =>
    rintro rfl
    have low := (ge_iff (c := n) (by positivity)).mp (by exact_mod_cast hr.1)
    have high := mt (ge_iff (c := n - 1) (by linarith)).mpr (not_le.mpr (by push_cast; linarith [hr.2]))
    rw [show n * u - u = (n - 1) * u by ring]
    exact ⟨low, not_le.mp high⟩
  case inexact =>
    rw [hi, eq_comm, le_antisymm_iff, le_antisymm_iff, ← le_iff (by positivity), ← ge_iff (by positivity), Rat.cast_natCast]

end Sys2Proof.Machine
end

section
/-! SUPPORT. What an operation comes to at the defaults of the parameters: the operands of R790, NaNs, and numbers (`45_fpu.md` R703,
R790). -/

namespace Sys2Proof.Machine

variable {cfg : Config} {op : FpOp} {f dst : FpFmt} {rm : RoundMode} {fcsr : Word} {neg : Bool} {q : ℚ} {r : FpAnswer} {a b v x : DWord}
  {fl : FpFlags}

/-! ### Unimplemented operations and delivered values -/

/-- FCSR as it makes a tiny result an unimplemented operation: FS = 0, or U or I enabled (R790(b)). -/
def TinyUnimplemented (fcsr : Word) : Prop := bit fcsr 24 = false ∨ bit fcsr 8 = true ∨ bit fcsr 7 = true

theorem fpFlushed_ne_unimplemented (fs : Bool) (f : FpFmt) (rm : RoundMode) (r : FpAnswer) : fpFlushed fs f rm r ≠ .unimplemented := by
  rw [fpFlushed]
  split <;> nofun

theorem fpOutcome_eq_unimplemented (hd : FpDefaults cfg) :
    fpOutcome cfg op f fcsr a b = .unimplemented ↔ fpUnimplDefault op f fcsr a b = true := by
  rw [fpOutcome_default hd]
  split
  case isTrue h => exact iff_of_true rfl h
  case isFalse h => exact iff_of_false (fpFlushed_ne_unimplemented _ _ _ _) h

theorem fpOutcome_implemented (hd : FpDefaults cfg) (h : ¬fpUnimplDefault op f fcsr a b = true) :
    fpOutcome cfg op f fcsr a b =
      fpFlushed (fcsrFs fcsr) (op.result f) (op.rounding (RoundMode.ofBits (fcsrRm fcsr)))
        (fpIeee op f (RoundMode.ofBits (fcsrRm fcsr)) a b) :=
  (fpOutcome_default hd op f fcsr a b).trans (if_neg h)

theorem implemented_of_value (hd : FpDefaults cfg) (h : fpOutcome cfg op f fcsr a b = .value v fl) :
    ¬fpUnimplDefault op f fcsr a b = true := fun hu => by
  rw [(fpOutcome_eq_unimplemented hd).mpr hu] at h
  cases h

theorem fpOperandUnimplemented_iff : fpOperandUnimplemented f x = true ↔ FpBadOperand f x := by
  rw [fpOperandUnimplemented, Bool.or_eq_true, FpBadOperand]

theorem not_fpBadOperand_zero (f : FpFmt) : ¬FpBadOperand f 0#64 := by
  rw [← fpOperandUnimplemented_iff]
  cases f <;> decide

/-- Between float formats an operation is unimplemented on the operands of R790(a) and, where it can be tiny, on a tiny result. -/
theorem fpUnimplDefault_float (hf : f ≠ .l) (hop : (op.result f).isInteger = false) :
    fpUnimplDefault op f fcsr a b = true ↔ (FpBadOperand f a ∨ FpBadOperand f b)
      ∨ (TinyUnimplemented fcsr ∧ op.canBeTiny f = true ∧ (fpIeee op f (RoundMode.ofBits (fcsrRm fcsr)) a b).tiny = true) := by
  have hl : (f == .l) = false := by simpa using hf
  simp only [fpUnimplDefault, fpLongUnimplemented, hop, hl, Bool.false_and, Bool.or_false, Bool.or_eq_true, Bool.and_eq_true,
    fpOperandUnimplemented_iff, fcsrFs, Bool.not_eq_true', TinyUnimplemented, or_assoc, and_assoc]

/-- To an integer format an operation is unimplemented on the operands of R790(a) and those that no integer stands for. -/
theorem fpUnimplDefault_toInt (hdst : dst.isInteger = true) :
    fpUnimplDefault (.cvt dst rm) f fcsr a 0#64 = true ↔ FpBadOperand f a ∨ fpNotInteger f dst rm a = true := by
  have htiny : (FpOp.cvt dst rm).canBeTiny f = false := by cases dst <;> simp_all [FpFmt.isInteger, FpOp.canBeTiny]
  have hzero : fpOperandUnimplemented f 0#64 = false := Bool.eq_false_iff.mpr (mt fpOperandUnimplemented_iff.mp (not_fpBadOperand_zero f))
  simp only [fpUnimplDefault, fpLongUnimplemented, htiny, hzero, FpOp.result, FpOp.rounding, hdst, Bool.not_true, Bool.and_false,
    Bool.false_and, Bool.or_false, Bool.true_and, Bool.or_eq_true, fpOperandUnimplemented_iff]

/-- Every bit of an integer operand counts for its number: it is neither denormalised nor a NaN. -/
theorem not_fpBadOperand_integer (hf : f = .w ∨ f = .l) (x : DWord) : ¬FpBadOperand f x := by
  rcases hf with rfl | rfl <;>
    simp [FpBadOperand, fpIsDenormal, fpIsSignaling, fpIsNan, fpExp, fpFrac, FpFmt.fracBits, FpFmt.expBits, Nat.mod_one]

theorem fpUnimplDefault_ofInt (hf : f = .w ∨ f = .l) (hdst : dst = .s ∨ dst = .d) :
    fpUnimplDefault (.cvt dst rm) f fcsr a 0#64 = true ↔ f = .l ∧ (a.toInt < -(2 ^ 55) ∨ 2 ^ 55 - 1 < a.toInt) := by
  have operand : ∀ x, fpOperandUnimplemented f x = false := fun x =>
    Bool.eq_false_iff.mpr (mt fpOperandUnimplemented_iff.mp (not_fpBadOperand_integer hf x))
  have htiny : (FpOp.cvt dst rm).canBeTiny f = false := by rcases hf with rfl | rfl <;> rcases hdst with rfl | rfl <;> rfl
  have hint : dst.isInteger = false := by rcases hdst with rfl | rfl <;> rfl
  rw [fpUnimplDefault, operand, operand, htiny, fpLongUnimplemented, FpOp.result, hint]
  rcases hf with rfl | rfl <;> simp [fpIntOf]

/-! ### NaNs and numbers -/

theorem fpIeee_number (hop : (op.result f).isInteger = false) (ha : fpIsNan f a = false) (hb : fpIsNan f b = false) :
    fpIeee op f rm a b = fpNumber op f rm a b := by
  simp [fpIeee, hop, fpIsSignaling, ha, hb]

theorem fpIeee_nan (hop : (op.result f).isInteger = false) (ha : ¬FpBadOperand f a) (hb : ¬FpBadOperand f b)
    (h : fpIsNan f a = true ∨ fpIsNan f b = true) : fpIeee op f rm a b = fpExact (fpNanResult op (op.result f) a b) := by
  have hsa : fpIsSignaling f a = false := Bool.eq_false_iff.mpr fun h => ha (.inr h)
  have hsb : fpIsSignaling f b = false := Bool.eq_false_iff.mpr fun h => hb (.inr h)
  rw [fpIeee, hop, if_neg Bool.false_ne_true, hsa, hsb, if_neg (by decide), if_pos ((Bool.or_eq_true _ _).mpr h)]

theorem fpIeee_toInt (hdst : dst.isInteger = true) (own : RoundMode) : fpIeee (.cvt dst own) f rm a b = fpToInt f dst own a := if_pos hdst

theorem float_fracBits (hf : f = .s ∨ f = .d) : 2 ≤ f.fracBits := by rcases hf with rfl | rfl <;> decide

theorem fpMagnitude_bit {k : Nat} (hk : k < f.fracBits + f.expBits) : fpMagnitude f x / 2 ^ k % 2 = x.toNat / 2 ^ k % 2 := by
  obtain ⟨n, hn⟩ : ∃ n, f.fracBits + f.expBits = k + (n + 1) := ⟨f.fracBits + f.expBits - k - 1, by omega⟩
  rw [fpMagnitude, hn, pow_add, Nat.mod_mul_right_div_self, Nat.mod_mod_of_dvd _ (dvd_pow_self 2 (Nat.succ_ne_zero n))]

/-- A NaN whose fraction has the top bit clear is quiet. -/
theorem fpQuietNan_fpPack (hf : f = .s ∨ f = .d) (neg : Bool) {k : Nat} (h0 : 0 < k) (hk : k < 2 ^ (f.fracBits - 1)) :
    FpQuietNan f (fpPack f neg (f.infinity + k)) := by
  obtain ⟨p, hp⟩ : ∃ p, f.fracBits = p + 1 := ⟨f.fracBits - 1, by have := float_fracBits hf; omega⟩
  rw [hp, Nat.add_sub_cancel] at hk
  have hm : f.infinity + k < 2 ^ (f.fracBits + f.expBits) := by
    rw [← infinity_add, hp, pow_succ]
    omega
  have hmag := fpMagnitude_fpPack hf neg hm
  refine ⟨fpIsNan_iff.mpr (by rw [hmag]; omega), Bool.eq_false_iff.mpr fun hs => ?_⟩
  obtain ⟨-, hbit⟩ := (fpIsSignaling_iff f _).mp hs
  have even : f.infinity = 2 ^ p * (2 * f.expMax) := by
    rw [FpFmt.infinity, hp, pow_succ]
    ring
  rw [← fpMagnitude_bit (f := f) (by omega), hmag] at hbit
  rw [hp, Nat.add_sub_cancel] at hbit
  rw [even, Nat.mul_add_div (by positivity), Nat.div_eq_of_lt hk] at hbit
  omega

theorem fpQuiet_quiet (hf : f = .s ∨ f = .d) (x : DWord) : FpQuietNan f (fpQuiet f x) := by
  have hpos : 2 ≤ 2 ^ (f.fracBits - 1) := Nat.le_self_pow (by have := float_fracBits hf; omega) 2
  rw [fpQuiet]
  split
  case isTrue => exact fpQuietNan_fpPack hf false (by omega) (by omega)
  case isFalse h => exact fpQuietNan_fpPack hf _ (Nat.pos_of_ne_zero h) (Nat.mod_lt _ (by omega))

/-- The default NaN. -/
theorem fpDefaultNan_eq (hf : f = .s ∨ f = .d) : fpDefaultNan f = if f = .s then 0x7FBFFFFF#64 else 0x7FF7FFFFFFFFFFFF#64 := by
  rcases hf with rfl | rfl <;> decide

/-- A delivered answer to an exact result on numbers is as `FpRounded` says: where the result can be tiny, it is flushed. -/
theorem fpOutcome_rounded (hd : FpDefaults cfg) (hres : op.result f = .s ∨ op.result f = .d)
    (hrm : op.rounding (RoundMode.ofBits (fcsrRm fcsr)) = RoundMode.ofBits (fcsrRm fcsr))
    (hanswer : fpIeee op f (RoundMode.ofBits (fcsrRm fcsr)) a b = r)
    (h : FpAnswers (op.result f) (RoundMode.ofBits (fcsrRm fcsr)) neg q r) (htiny : f ≠ .l ∧ op.canBeTiny f = true ∨ r.tiny = false)
    (ho : fpOutcome cfg op f fcsr a b = .value v fl) : FpRounded (op.result f) fcsr q v fl ∧ fpNeg (op.result f) v = neg := by
  have himpl := implemented_of_value hd ho
  have hint : (op.result f).isInteger = false := by rcases hres with h | h <;> rw [h] <;> rfl
  rw [fpOutcome_implemented hd himpl, hrm, hanswer] at ho
  refine h.rounded hres (fun ht => ?_) ho
  rcases htiny with ⟨hl, hcan⟩ | hnot
  · rw [fpUnimplDefault_float hl hint, hanswer] at himpl
    by_contra hfs
    exact himpl (.inr ⟨.inl (Bool.eq_false_iff.mpr hfs), hcan, ht⟩)
  · exact absurd (hnot.symm.trans ht) Bool.false_ne_true

end Sys2Proof.Machine
end

section
/-! SUPPORT. Conversions to an integer format and the operands that are unimplemented (`45_fpu.md` R740 to R747, R750, R751, R790). -/

namespace Sys2Proof.Machine

variable {cfg : Config} {op : FpOp} {f dst : FpFmt} {rm : RoundMode} {fcsr : Word} {q : ℚ} {r : FpAnswer} {a b : DWord} {m n : ℤ}

/-! ### Rounding to an integer -/

theorem fpRoundToInt_eq (f : FpFmt) (rm : RoundMode) (a : DWord) :
    fpRoundToInt f rm a =
      (if fpNeg f a then -((roundScaled rm (fpNeg f a) (fpSig f a) (fpQuantum f a) 0 false).1 : ℤ)
        else (roundScaled rm (fpNeg f a) (fpSig f a) (fpQuantum f a) 0 false).1,
        (roundScaled rm (fpNeg f a) (fpSig f a) (fpQuantum f a) 0 false).2) := by
  rw [roundScaled, sub_zero, zero_sub]
  rfl

/-- A finite operand is rounded to an integer once. -/
theorem fpRoundToInt_roundedTo (f : FpFmt) (rm : RoundMode) (a : DWord) :
    RoundedTo rm 1 (fpRat f a) (fpRoundToInt f rm a).1 ∧ ((fpRoundToInt f rm a).2 = false ↔ fpRat f a = (fpRoundToInt f rm a).1) := by
  obtain ⟨rounds, exactly⟩ := roundScaled_roundsTo (K := ℚ) (rm := rm) (neg := fpNeg f a) (e := fpQuantum f a) (q := 0)
    (StickyFloor.natCast (fpSig f a)) nofun
  rw [fpRoundToInt_eq]
  set n := (roundScaled rm (fpNeg f a) (fpSig f a) (fpQuantum f a) 0 false).1
  have hcast : ((if fpNeg f a then -(n : ℤ) else n : ℤ) : ℚ) = fpSign (fpNeg f a) * (n * 1) := by cases fpNeg f a <;> simp [fpSign]
  rw [sub_zero] at rounds exactly
  rw [hcast, fpRat_eq_sig]
  refine ⟨RoundsTo.roundedTo one_pos (by positivity) (by rwa [div_one]), exactly.trans ?_⟩
  rw [mul_one, mul_right_inj' (by cases fpNeg f a <;> norm_num [fpSign])]

/-- Of two integers nearest to a number, ties going to even, none is below the other: both would tie, and one of them is odd. -/
theorem nearest_not_lt (hm : |(m : ℚ) - q| * 2 ≤ 1) (hn : |(n : ℚ) - q| * 2 ≤ 1) (tieM : |(m : ℚ) - q| * 2 = 1 → m % 2 = 0)
    (tieN : |(n : ℚ) - q| * 2 = 1 → n % 2 = 0) : ¬m < n := by
  intro hlt
  have hm' := abs_le.mp (show |(m : ℚ) - q| ≤ 1 / 2 by linarith)
  have hn' := abs_le.mp (show |(n : ℚ) - q| ≤ 1 / 2 by linarith)
  have hle : n ≤ m + 1 := by
    have : (n : ℚ) ≤ m + 1 := by linarith [hm'.1, hn'.2]
    exact_mod_cast this
  obtain rfl : n = m + 1 := by omega
  push_cast at hn' tieN
  have hq : q = m + 1 / 2 := by linarith [hm'.1, hn'.2]
  have evenM := tieM (by rw [hq, sub_add_cancel_left, abs_neg, abs_of_pos one_half_pos]; norm_num)
  have evenN := tieN (by rw [hq, add_sub_add_left_eq_sub, abs_of_pos (by norm_num)]; norm_num)
  omega

/-- A mode rounds a number to one integer only. -/
theorem RoundedTo.int_unique (hm : RoundedTo rm 1 q m) (hn : RoundedTo rm 1 q n) : m = n := by
  obtain ⟨⟨k, hk, tieM⟩, nearM, zeroM, upM, downM⟩ := hm
  obtain ⟨⟨l, hl, tieN⟩, nearN, zeroN, upN, downN⟩ := hn
  obtain rfl : m = k := by exact_mod_cast (mul_one (k : ℚ) ▸ hk)
  obtain rfl : n = l := by exact_mod_cast (mul_one (l : ℚ) ▸ hl)
  have adjacent : ∀ {k l : ℤ}, (k : ℚ) < l + 1 → (l : ℚ) < k + 1 → k = l := fun h1 h2 => by
    have h1' := Int.lt_add_one_iff.mp (by exact_mod_cast h1)
    have h2' := Int.lt_add_one_iff.mp (by exact_mod_cast h2)
    exact le_antisymm h1' h2'
  cases rm
  case up => exact adjacent (by linarith [upM rfl, upN rfl]) (by linarith [upM rfl, upN rfl])
  case down => exact adjacent (by linarith [downM rfl, downN rfl]) (by linarith [downM rfl, downN rfl])
  case zero =>
    obtain ⟨signM, leM, ltM⟩ := zeroM rfl
    obtain ⟨signN, leN, ltN⟩ := zeroN rfl
    have habs : |m| = |n| := adjacent (by push_cast; linarith) (by push_cast; linarith)
    rcases abs_eq_abs.mp habs with h | rfl
    · exact h
    · have hprod : (n : ℚ) * q = 0 := le_antisymm (by push_cast at signM; linarith) signN
      rcases mul_eq_zero.mp hprod with h0 | rfl
      · rw [Int.cast_eq_zero.mp h0, neg_zero]
      · rw [abs_zero, abs_nonpos_iff, Int.cast_eq_zero] at leN
        rw [leN, neg_zero]
  case nearest =>
    exact le_antisymm (not_lt.mp (nearest_not_lt (nearN rfl) (nearM rfl) (tieN rfl) (tieM rfl)))
      (not_lt.mp (nearest_not_lt (nearM rfl) (nearN rfl) (tieM rfl) (tieN rfl)))

theorem fpNotInteger_iff :
    fpNotInteger f dst rm a = true ↔ ¬FpFinite f a ∨ ∃ r : ℤ, RoundedTo rm 1 (fpRat f a) r
      ∧ (r < -(2 ^ (dst.intBits - 1)) ∨ 2 ^ (dst.intBits - 1) - 1 < r) := by
  have rounded := (fpRoundToInt_roundedTo f rm a).1
  have special : (fpIsNan f a || fpIsInf f a) = true ↔ ¬FpFinite f a := by
    rw [Bool.or_eq_true, fpIsNan_iff, fpIsInf_iff, fpFinite_iff]
    omega
  rw [fpNotInteger, Bool.or_eq_true, special, overflows_iff]
  refine or_congr_right ⟨fun h => ⟨_, rounded, h⟩, ?_⟩
  rintro ⟨r, hr, h⟩
  rwa [rounded.int_unique hr]

/-- Settles O58: what is delivered is the rounded integer of a finite operand, in range. -/
theorem fpToInteger : Obligations.FpToInteger := by
  intro cfg f dst rm fcsr a v fl hd hf hdst ho
  have hint : dst.isInteger = true := by rcases hdst with rfl | rfl <;> rfl
  have himpl := implemented_of_value hd ho
  obtain ⟨rounded, exactly⟩ := fpRoundToInt_roundedTo f rm a
  rw [fpOutcome_implemented hd himpl, fpIeee_toInt hint] at ho
  rw [fpUnimplDefault_toInt hint, not_or] at himpl
  obtain ⟨-, hnot⟩ := himpl
  rw [fpToInt, if_neg hnot, fpFlushed_normal rfl] at ho
  rw [fpNotInteger_iff, not_or, not_not] at hnot
  obtain ⟨hfinite, hrange⟩ := hnot
  have inside := fun h => hrange ⟨_, rounded, h⟩
  cases ho
  refine ⟨hfinite, _, rounded, rfl, ?_, ?_, exactly, rfl, rfl, rfl, rfl⟩
  · exact not_lt.mp fun h => inside (.inl h)
  · exact not_lt.mp fun h => inside (.inr h)

end Sys2Proof.Machine
end

section
/-! SUPPORT. The operands and results on which each operation is unimplemented (`45_fpu.md` R790). -/

namespace Sys2Proof.Machine

variable {cfg : Config} {op : FpOp} {f : FpFmt} {rm : RoundMode} {fcsr : Word} {q : ℚ} {a b x : DWord}

/-! ### Operands that are no finite numbers -/

theorem fpFinite_or_inf (h : fpIsNan f x = false) : FpFinite f x ∨ fpIsInf f x = true := by
  rw [fpFinite_iff, fpIsInf_iff]
  exact (fpIsNan_eq_false.mp h).lt_or_eq

theorem fpSum_infinite (h : fpIsInf f a = true ∨ fpIsInf f b = true) : (fpSum f rm a b).tiny = false := by
  rw [fpSum]
  split
  case isTrue => split <;> rfl
  case isFalse ha =>
    rw [if_pos (h.resolve_left ha)]
    rfl

theorem fpProduct_infinite (h : fpIsInf f a = true ∨ fpIsInf f b = true) : (fpProduct f rm a b).tiny = false := by
  rw [fpProduct, if_pos ((Bool.or_eq_true _ _).mpr h)]
  split <;> rfl

theorem fpQuotient_infinite (h : fpIsInf f a = true ∨ fpIsInf f b = true) : (fpQuotient f rm a b).tiny = false := by
  rw [fpQuotient]
  split
  case isTrue => split <;> rfl
  case isFalse ha =>
    rw [if_pos (h.resolve_left ha)]
    rfl

theorem fpToFloat_infinite {src dst : FpFmt} (h : fpIsInf src a = true) : (fpToFloat src dst rm a).tiny = false :=
  congrArg FpAnswer.tiny (if_pos h)

theorem fpIsInf_fpFlip (hf : f = .s ∨ f = .d) : fpIsInf f (fpFlip f x) = fpIsInf f x := by
  rw [Bool.eq_iff_iff, fpIsInf_iff, fpIsInf_iff, fpMagnitude_fpFlip hf]

/-! ### Tiny results -/

/-- The quotient by zero is not tiny, as the quotient of rationals by zero is not. -/
theorem fpQuotient_tiny_iff (hf : f = .s ∨ f = .d) (ha : FpFinite f a) (hb : FpFinite f b) :
    (fpQuotient f rm a b).tiny = true ↔ fpRat f a / fpRat f b ≠ 0 ∧ |fpRat f a / fpRat f b| < (2 : ℚ) ^ (1 - (f.bias : ℤ)) := by
  by_cases h1 : fpIsZero f b = true
  · rw [fpQuotient, if_neg ha.not_inf, if_neg hb.not_inf, if_pos h1, fpRat_eq_zero_iff.mpr h1, div_zero]
    refine iff_of_false ?_ fun h => h.1 rfl
    split <;> exact Bool.false_ne_true
  · exact (fpQuotient_answers hf rm ha hb h1).tiny_iff hf

theorem fpRoot_not_tiny (hf : f = .s ∨ f = .d) (hn : fpIsNan f a = false) (hd : ¬fpIsDenormal f a = true) :
    (fpRoot f rm a).tiny = false := by
  by_cases h0 : fpIsZero f a = true
  · rw [fpRoot, if_pos h0]
    rfl
  · cases hneg : fpNeg f a
    case true =>
      rw [fpRoot, if_neg h0, if_pos hneg]
      rfl
    case false =>
      rcases fpFinite_or_inf hn with hfin | hinf
      · obtain ⟨j, n, h⟩ := fpRoot_normal hf rm hfin hneg h0 hd
        exact h.tiny
      · rw [fpRoot, if_neg h0, if_neg (Bool.eq_false_iff.mp hneg), if_pos hinf]
        rfl

/-! ### Unimplemented operations -/

theorem fpNumber_toFloat {src dst : FpFmt} (h : src.isInteger = false) (own : RoundMode) :
    fpNumber (.cvt dst own) src rm a b = fpToFloat src dst own a :=
  if_neg (Bool.eq_false_iff.mp h)

theorem fpIsNan_zero (f : FpFmt) : fpIsNan f 0#64 = false := by cases f <;> decide

/-- Where the result can be tiny: an operand of R790(a), or finite operands with a tiny exact result `q`. -/
theorem unimplemented_iff_tiny (hd : FpDefaults cfg) (hf : f ≠ .l) (hop : (op.result f).isInteger = false) (hcan : op.canBeTiny f = true)
    (finite : FpFinite f a → FpFinite f b → ((fpNumber op f (RoundMode.ofBits (fcsrRm fcsr)) a b).tiny = true
      ↔ q ≠ 0 ∧ |q| < (2 : ℚ) ^ (1 - ((op.result f).bias : ℤ))))
    (infinite : fpIsInf f a = true ∨ fpIsInf f b = true → (fpNumber op f (RoundMode.ofBits (fcsrRm fcsr)) a b).tiny = false) :
    fpOutcome cfg op f fcsr a b = .unimplemented ↔
      (FpBadOperand f a ∨ FpBadOperand f b) ∨ ((FpFinite f a ∧ FpFinite f b) ∧ FpTinyTrap (op.result f) fcsr q) := by
  rw [fpOutcome_eq_unimplemented hd, fpUnimplDefault_float hf hop]
  by_cases hbad : FpBadOperand f a ∨ FpBadOperand f b
  · exact iff_of_true (.inl hbad) (.inl hbad)
  obtain ⟨hba, hbb⟩ := not_or.mp hbad
  rw [or_iff_right hbad, or_iff_right hbad, and_iff_right hcan]
  by_cases hnan : fpIsNan f a = true ∨ fpIsNan f b = true
  · rw [fpIeee_nan hop hba hbb hnan]
    refine iff_of_false (fun h => Bool.false_ne_true h.2) fun ⟨⟨ha, hb⟩, _⟩ => ?_
    rw [ha.not_nan, hb.not_nan] at hnan
    exact hnan.elim Bool.false_ne_true Bool.false_ne_true
  obtain ⟨hna, hnb⟩ := not_or.mp hnan
  rw [Bool.not_eq_true] at hna hnb
  rw [fpIeee_number hop hna hnb]
  by_cases hinf : fpIsInf f a = true ∨ fpIsInf f b = true
  · rw [infinite hinf]
    exact iff_of_false (fun h => Bool.false_ne_true h.2) fun ⟨⟨ha, hb⟩, _⟩ => hinf.elim ha.not_inf hb.not_inf
  · obtain ⟨hia, hib⟩ := not_or.mp hinf
    have ha := (fpFinite_or_inf hna).resolve_right hia
    have hb := (fpFinite_or_inf hnb).resolve_right hib
    rw [finite ha hb, and_iff_right (And.intro ha hb), FpTinyTrap, TinyUnimplemented, and_comm, and_assoc]

/-- Where the result of an operation on one operand is not tiny: an operand of R790(a). -/
theorem unimplemented_iff_bad (hd : FpDefaults cfg) (hf : f ≠ .l) (hop : (op.result f).isInteger = false)
    (normal : op.canBeTiny f = true → ¬FpBadOperand f a → fpIsNan f a = false →
      (fpNumber op f (RoundMode.ofBits (fcsrRm fcsr)) a 0#64).tiny = false) :
    fpOutcome cfg op f fcsr a 0#64 = .unimplemented ↔ FpBadOperand f a := by
  have hzero := not_fpBadOperand_zero f
  rw [fpOutcome_eq_unimplemented hd, fpUnimplDefault_float hf hop, or_iff_left hzero]
  refine or_iff_left_of_imp fun ⟨_, hcan, htiny⟩ => ?_
  by_contra hbad
  cases hn : fpIsNan f a
  case true =>
    rw [fpIeee_nan hop hbad hzero (.inl hn)] at htiny
    exact Bool.false_ne_true htiny
  case false =>
    rw [fpIeee_number hop hn (fpIsNan_zero f), normal hcan hbad hn] at htiny
    exact Bool.false_ne_true htiny

/-- Settles O56 (`fpUnimplemented` is the model's own function): the operations that can be tiny, those that cannot, and the conversions to
and from the integer formats. -/
theorem fpUnimplemented_iff : Obligations.FpUnimplemented := by
  intro cfg f fcsr rm a b hd hf bad finite unimplemented
  have hl : f ≠ .l := by rcases hf with rfl | rfl <;> nofun
  have hint : f.isInteger = false := by rcases hf with rfl | rfl <;> rfl
  refine ⟨?add, ?sub, ?mul, ?div, ?sqrt, ?abs, ?neg, ?narrow, ?widen, ?word, ?long, ?ofLong, ?ofWord⟩
  case add =>
    refine unimplemented_iff_tiny hd hl hint rfl (fun ha hb => ?_) fpSum_infinite
    obtain ⟨neg, h⟩ := fpSum_answers hf _ ha hb
    exact h.tiny_iff hf
  case sub =>
    refine unimplemented_iff_tiny hd hl hint rfl (fun ha hb => ?_) fun h => fpSum_infinite (by rwa [fpIsInf_fpFlip hf])
    obtain ⟨neg, h⟩ := fpSum_answers hf _ ha (hb.fpFlip hf)
    rw [fpRat_fpFlip hf, ← sub_eq_add_neg] at h
    exact h.tiny_iff hf
  case mul => exact unimplemented_iff_tiny hd hl hint rfl (fun ha hb => (fpProduct_answers hf _ ha hb).tiny_iff hf) fpProduct_infinite
  case div => exact unimplemented_iff_tiny hd hl hint rfl (fun ha hb => fpQuotient_tiny_iff hf ha hb) fpQuotient_infinite
  case sqrt => exact unimplemented_iff_bad hd hl hint fun _ hbad hn => fpRoot_not_tiny hf hn fun h => hbad (.inl h)
  case abs | neg => exact unimplemented_iff_bad hd hl hint nofun
  case narrow =>
    have hzero : FpFinite .d 0#64 := fpFinite_of_magnitude_zero (.inr rfl) (Nat.zero_mod _)
    have h := unimplemented_iff_tiny (op := .cvt .s rm) (f := .d) (fcsr := fcsr) (a := a) (b := 0#64) (q := fpRat .d a) hd (by decide)
      rfl rfl
      (fun ha _ => by
        rw [fpNumber_toFloat rfl]
        exact (fpToFloat_answers (.inl rfl) rm ha).tiny_iff (.inl rfl))
      (fun h => by
        rw [fpNumber_toFloat rfl]
        exact fpToFloat_infinite (h.resolve_right hzero.not_inf))
    rwa [or_iff_left (not_fpBadOperand_zero _), and_iff_left hzero] at h
  case widen => exact unimplemented_iff_bad hd (by decide) rfl nofun
  case word | long =>
    exact (fpOutcome_eq_unimplemented hd).trans ((fpUnimplDefault_toInt rfl).trans (or_congr_right fpNotInteger_iff))
  case ofLong =>
    exact (fpOutcome_eq_unimplemented hd).trans ((fpUnimplDefault_ofInt (.inr rfl) hf).trans (and_iff_right rfl))
  case ofWord =>
    exact fun h => nomatch ((fpUnimplDefault_ofInt (.inl rfl) hf).mp ((fpOutcome_eq_unimplemented hd).mp h)).1

end Sys2Proof.Machine
end

section
/-! SUPPORT. The answers of the operations on special operands, and the statements about their values at the defaults of the parameters
(`45_fpu.md` R702, R703, R730 to R737, R748, R749; D87). -/

namespace Sys2Proof.Machine

variable {cfg : Config} {op : FpOp} {f src dst : FpFmt} {rm : RoundMode} {fcsr : Word} {neg : Bool} {q : ℚ} {r : FpAnswer}
  {a b c v x : DWord} {fl : FpFlags}

/-! ### Operands that are neither NaN nor denormalised -/

/-- An operand that is neither a NaN nor denormalised. -/
def FpUsual (f : FpFmt) (x : DWord) : Prop := fpIsNan f x = false ∧ fpIsDenormal f x = false

theorem FpUsual.not_bad (h : FpUsual f x) : ¬FpBadOperand f x := by
  rintro (hd | hs)
  · exact Bool.false_ne_true (h.2.symm.trans hd)
  · rw [fpIsSignaling, h.1] at hs
    exact Bool.false_ne_true hs

theorem fpUsual_zero (f : FpFmt) : FpUsual f 0#64 := ⟨fpIsNan_zero f, Bool.eq_false_iff.mpr fun h => not_fpBadOperand_zero f (.inl h)⟩

theorem fpUsual_of_finite (h : FpFinite f x) (hb : ¬FpBadOperand f x) : FpUsual f x :=
  ⟨h.not_nan, Bool.eq_false_iff.mpr fun h => hb (.inl h)⟩

theorem fpUsual_of_zero (h : fpIsZero f x = true) : FpUsual f x := by
  rw [fpIsZero_iff] at h
  rw [FpUsual, fpIsNan_eq_false, Bool.eq_false_iff, ne_eq, fpIsDenormal_iff]
  omega

theorem fpUsual_of_inf (hf : f = .s ∨ f = .d) (h : fpIsInf f x = true) : FpUsual f x := by
  have : 2 ^ f.fracBits ≤ f.infinity := Nat.le_mul_of_pos_left _ (by have := float_expMax hf; omega)
  rw [fpIsInf_iff] at h
  rw [FpUsual, fpIsNan_eq_false, Bool.eq_false_iff, ne_eq, fpIsDenormal_iff]
  omega

theorem not_isInteger (hf : f = .s ∨ f = .d) : f.isInteger = false := by rcases hf with rfl | rfl <;> rfl

theorem ne_long (hf : f = .s ∨ f = .d) : f ≠ .l := by rcases hf with rfl | rfl <;> nofun

/-- Between float formats an answer that is not tiny is delivered as it is. -/
theorem fpOutcome_not_tiny (hd : FpDefaults cfg) (hf : f = .s ∨ f = .d) (hop : (op.result f).isInteger = false)
    (ha : ¬FpBadOperand f a) (hb : ¬FpBadOperand f b) (h : fpIeee op f (RoundMode.ofBits (fcsrRm fcsr)) a b = r) (ht : r.tiny = false) :
    fpOutcome cfg op f fcsr a b = .value r.value r.flags := by
  rw [fpOutcome_implemented hd, h, fpFlushed_normal ht]
  rw [fpUnimplDefault_float (ne_long hf) hop, h, ht]
  rintro ((h | h) | ⟨-, -, h⟩)
  · exact ha h
  · exact hb h
  · exact Bool.false_ne_true h

/-- So is the answer to operands that are no NaN. -/
theorem fpOutcome_number (hd : FpDefaults cfg) (hf : f = .s ∨ f = .d) (hop : (op.result f).isInteger = false) (ha : FpUsual f a)
    (hb : FpUsual f b) (h : fpNumber op f (RoundMode.ofBits (fcsrRm fcsr)) a b = fpFlagged v fl) :
    fpOutcome cfg op f fcsr a b = .value v fl :=
  fpOutcome_not_tiny hd hf hop ha.not_bad hb.not_bad ((fpIeee_number hop ha.1 hb.1).trans h) rfl

/-- The operands of an operation that delivers a value are none of R790(a). -/
theorem not_bad_of_value (hd : FpDefaults cfg) (hf : f = .s ∨ f = .d) (hop : (op.result f).isInteger = false)
    (h : fpOutcome cfg op f fcsr a b = .value v fl) : ¬FpBadOperand f a ∧ ¬FpBadOperand f b := by
  have himpl := implemented_of_value hd h
  rw [fpUnimplDefault_float (ne_long hf) hop] at himpl
  exact not_or.mp fun hbad => himpl (.inl hbad)

/-! ### Operands from their sign and magnitude -/

theorem toNat_eq_sign_magnitude (hf : f = .s ∨ f = .d) (h : FpOperand f x) :
    x.toNat = (if fpNeg f x then 2 ^ (f.fracBits + f.expBits) else 0) + fpMagnitude f x := by
  have hlt : x.toNat < 2 ^ (f.fracBits + f.expBits) * 2 := by
    rcases hf with rfl | rfl
    · exact h rfl
    · exact x.isLt
  have hdiv := Nat.div_add_mod x.toNat (2 ^ (f.fracBits + f.expBits))
  have hsign : x.toNat / 2 ^ (f.fracBits + f.expBits) < 2 := Nat.div_lt_of_lt_mul hlt
  rw [fpNeg_eq, fpMagnitude]
  interval_cases hbit : x.toNat / 2 ^ (f.fracBits + f.expBits)
  · simp only [Nat.zero_mod, Nat.zero_ne_one, decide_false, Bool.false_eq_true, if_false]
    omega
  · simp only [Nat.mod_succ, decide_true, if_true]
    omega

/-- An operand is its sign and its magnitude bits. -/
theorem fpPack_self (hf : f = .s ∨ f = .d) (h : FpOperand f x) : fpPack f (fpNeg f x) (fpMagnitude f x) = x :=
  BitVec.eq_of_toNat_eq ((toNat_fpPack hf _ (fpMagnitude_lt_two_pow f x)).trans (toNat_eq_sign_magnitude hf h).symm)

theorem fpInf_self (hf : f = .s ∨ f = .d) (h : FpOperand f x) (hi : fpIsInf f x = true) : fpInf f (fpNeg f x) = x := by
  rw [fpInf, ← FpFmt.infinity, ← fpIsInf_iff.mp hi, fpPack_self hf h]

theorem fpZero_self (hf : f = .s ∨ f = .d) (h : FpOperand f x) (hz : fpIsZero f x = true) : fpZero f (fpNeg f x) = x := by
  rw [fpZero, ← fpIsZero_iff.mp hz, fpPack_self hf h]

theorem fpFlip_inf (hi : fpIsInf f x = true) : fpFlip f x = fpInf f (!fpNeg f x) := by
  rw [fpFlip, fpIsInf_iff.mp hi]
  rfl

/-- Flipping the sign bit of an operand flips its sign. -/
theorem xor_signBit (hf : f = .s ∨ f = .d) (h : FpOperand f x) (hc : c.toNat = 2 ^ (f.fracBits + f.expBits)) :
    x ^^^ c = fpFlip f x := by
  have hmag : fpMagnitude f (x ^^^ c) = fpMagnitude f x := by
    rw [fpMagnitude, BitVec.toNat_xor, hc, Nat.xor_mod_two_pow, Nat.mod_self, Nat.xor_zero, fpMagnitude]
  have hneg : fpNeg f (x ^^^ c) = !fpNeg f x := by
    have hbit : c.getLsbD (f.fracBits + f.expBits) = true := by rw [← BitVec.testBit_toNat, hc, Nat.testBit_two_pow_self]
    rw [fpNeg, bit, BitVec.getLsbD_xor, hbit, Bool.xor_true, fpNeg]
  have hop : FpOperand f (x ^^^ c) := by
    rintro rfl
    rw [BitVec.toNat_xor, hc]
    exact Nat.xor_lt_two_pow (h rfl) (by decide)
  rw [fpFlip, ← hmag, ← hneg, fpPack_self hf hop]

/-- Clearing the sign bit of an operand keeps its magnitude. -/
theorem and_magnitudeMask (hf : f = .s ∨ f = .d) (x : DWord) (hc : c.toNat = 2 ^ (f.fracBits + f.expBits) - 1) :
    x &&& c = fpPack f false (fpMagnitude f x) := by
  apply BitVec.eq_of_toNat_eq
  rw [toNat_fpPack hf _ (fpMagnitude_lt_two_pow f x), BitVec.toNat_and, hc, Nat.and_two_pow_sub_one_eq_mod, fpMagnitude]
  exact (Nat.zero_add _).symm

/-! ### Infinities and zeros -/

theorem not_zero_of_inf (hf : f = .s ∨ f = .d) (h : fpIsInf f x = true) : ¬fpIsZero f x = true := by
  have := infinity_pos hf
  rw [fpIsInf_iff] at h
  rw [fpIsZero_iff]
  omega

theorem not_inf_of_zero (hf : f = .s ∨ f = .d) (h : fpIsZero f x = true) : ¬fpIsInf f x = true := fun hi => not_zero_of_inf hf hi h

theorem fpSum_inf_left (ha : fpIsInf f a = true) (h : fpIsInf f b = false ∨ fpNeg f a = fpNeg f b) : fpSum f rm a b = fpExact a := by
  rw [fpSum, if_pos ha, if_neg]
  rcases h with h | h <;> simp [h]

theorem fpSum_inf_right (ha : fpIsInf f a = false) (hb : fpIsInf f b = true) : fpSum f rm a b = fpExact b := by
  rw [fpSum, if_neg (Bool.eq_false_iff.mp ha), if_pos hb]

theorem fpSum_inf_opposite (ha : fpIsInf f a = true) (hb : fpIsInf f b = true) (h : fpNeg f a ≠ fpNeg f b) :
    fpSum f rm a b = fpInvalid f := by
  rw [fpSum, if_pos ha, if_pos (by simp [hb, h])]

theorem fpProduct_inf (h : fpIsInf f a = true ∨ fpIsInf f b = true) (ha : ¬fpIsZero f a = true) (hb : ¬fpIsZero f b = true) :
    fpProduct f rm a b = fpExact (fpInf f (fpNeg f a != fpNeg f b)) := by
  rw [fpProduct, if_pos ((Bool.or_eq_true _ _).mpr h), if_neg (by simp [ha, hb])]

theorem fpProduct_inf_zero (h : fpIsInf f a = true ∨ fpIsInf f b = true) (h0 : fpIsZero f a = true ∨ fpIsZero f b = true) :
    fpProduct f rm a b = fpInvalid f := by
  rw [fpProduct, if_pos ((Bool.or_eq_true _ _).mpr h), if_pos ((Bool.or_eq_true _ _).mpr h0)]

theorem fpQuotient_inf_inf (ha : fpIsInf f a = true) (hb : fpIsInf f b = true) : fpQuotient f rm a b = fpInvalid f := by
  rw [fpQuotient, if_pos ha, if_pos hb]

theorem fpQuotient_inf_left (ha : fpIsInf f a = true) (hb : fpIsInf f b = false) :
    fpQuotient f rm a b = fpExact (fpInf f (fpNeg f a != fpNeg f b)) := by
  rw [fpQuotient, if_pos ha, if_neg (Bool.eq_false_iff.mp hb)]

theorem fpQuotient_inf_right (ha : fpIsInf f a = false) (hb : fpIsInf f b = true) :
    fpQuotient f rm a b = fpExact (fpZero f (fpNeg f a != fpNeg f b)) := by
  rw [fpQuotient, if_neg (Bool.eq_false_iff.mp ha), if_pos hb]

theorem fpQuotient_by_zero (ha : ¬fpIsInf f a = true) (hb : ¬fpIsInf f b = true) (h0 : fpIsZero f b = true) :
    fpQuotient f rm a b =
      if fpIsZero f a then fpInvalid f else fpFlagged (fpInf f (fpNeg f a != fpNeg f b)) { FpFlags.none with z := true } := by
  rw [fpQuotient, if_neg ha, if_neg hb, if_pos h0]

theorem fpRoot_zero (h : fpIsZero f a = true) : fpRoot f rm a = fpExact a := if_pos h

theorem fpRoot_negative (h0 : ¬fpIsZero f a = true) (hn : fpNeg f a = true) : fpRoot f rm a = fpInvalid f := by
  rw [fpRoot, if_neg h0, if_pos hn]

theorem fpRoot_inf (h0 : ¬fpIsZero f a = true) (hn : ¬fpNeg f a = true) (hi : fpIsInf f a = true) : fpRoot f rm a = fpExact a := by
  rw [fpRoot, if_neg h0, if_neg hn, if_pos hi]

/-- V with the default NaN. -/
theorem fpOutcome_invalid (hd : FpDefaults cfg) (hf : f = .s ∨ f = .d) (hop : op.result f = f) (ha : FpUsual f a) (hb : FpUsual f b)
    (h : fpNumber op f (RoundMode.ofBits (fcsrRm fcsr)) a b = fpInvalid f) :
    fpOutcome cfg op f fcsr a b =
      .value (if f = .s then 0x7FBFFFFF#64 else 0x7FF7FFFFFFFFFFFF#64) { FpFlags.none with v := true } := by
  rw [fpOutcome_number hd hf (by rw [hop]; exact not_isInteger hf) ha hb h, fpDefaultNan_eq hf]

/-- A quiet NaN, and no signaling one, gives a quiet NaN and no flag. -/
theorem fpOutcome_nan (hd : FpDefaults cfg) (hf : f = .s ∨ f = .d) (hres : op.result f = .s ∨ op.result f = .d)
    (ha : ¬FpBadOperand f a) (hb : ¬FpBadOperand f b) (h : fpIsNan f a = true ∨ fpIsNan f b = true) :
    ∃ v, fpOutcome cfg op f fcsr a b = .value v FpFlags.none ∧ FpQuietNan (op.result f) v :=
  ⟨_, fpOutcome_not_tiny hd hf (not_isInteger hres) ha hb (fpIeee_nan (not_isInteger hres) ha hb h) rfl, fpQuiet_quiet hres _⟩

/-! ### ABS and NEG (R735, R737) -/

theorem fpExactIn_fpPack (hf : f = .s ∨ f = .d) (ha : FpUsual f a) (neg : Bool) :
    fpExactIn f (fpPack f neg (fpMagnitude f a)) = fpExact (fpPack f neg (fpMagnitude f a)) := by
  have h : fpIsDenormal f (fpPack f neg (fpMagnitude f a)) = false := by
    rw [← ha.2, Bool.eq_iff_iff, fpIsDenormal_iff, fpIsDenormal_iff, fpMagnitude_fpPack hf neg (fpMagnitude_lt_two_pow f a)]
  rw [fpExactIn, h]
  rfl

theorem fpOutcome_abs (hd : FpDefaults cfg) (hf : f = .s ∨ f = .d) (ha : FpUsual f a) :
    fpOutcome cfg .abs f fcsr a 0#64 = .value (a &&& (if f = .s then 0x7FFFFFFF#64 else 0x7FFFFFFFFFFFFFFF#64)) FpFlags.none := by
  rw [and_magnitudeMask hf a (by rcases hf with rfl | rfl <;> rfl)]
  exact fpOutcome_number hd hf (not_isInteger hf) ha (fpUsual_zero f) (fpExactIn_fpPack hf ha false)

theorem fpOutcome_neg (hd : FpDefaults cfg) (hf : f = .s ∨ f = .d) (hop : FpOperand f a) (ha : FpUsual f a) :
    fpOutcome cfg .neg f fcsr a 0#64 = .value (a ^^^ (if f = .s then 0x80000000#64 else 0x8000000000000000#64)) FpFlags.none := by
  rw [xor_signBit hf hop (by rcases hf with rfl | rfl <;> rfl)]
  exact fpOutcome_number hd hf (not_isInteger hf) ha (fpUsual_zero f) (fpExactIn_fpPack hf ha _)

end Sys2Proof.Machine
end

section
/-! SUPPORT. The values that operations deliver at the defaults of the parameters: exact results rounded once, and the corner cases
(`45_fpu.md` R702, R703, R730 to R737, R748, R749, R138; D87). -/

namespace Sys2Proof.Machine

variable {cfg : Config} {op : FpOp} {f dst : FpFmt} {fcsr : Word} {a b v : DWord} {fl : FpFlags}

/-! ### Finite operands -/

section
variable (hd : FpDefaults cfg) (hf : f = .s ∨ f = .d) (ha : FpFinite f a) (hb : FpFinite f b)
include hd hf ha

include hb in
theorem add_rounded (ho : fpOutcome cfg .add f fcsr a b = .value v fl) : FpRounded f fcsr (fpRat f a + fpRat f b) v fl := by
  obtain ⟨neg, h⟩ := fpSum_answers hf (RoundMode.ofBits (fcsrRm fcsr)) ha hb
  exact (fpOutcome_rounded (op := .add) hd hf rfl (fpIeee_number (not_isInteger hf) ha.not_nan hb.not_nan) h
    (.inl ⟨ne_long hf, rfl⟩) ho).1

include hb in
theorem sub_rounded (ho : fpOutcome cfg .sub f fcsr a b = .value v fl) : FpRounded f fcsr (fpRat f a - fpRat f b) v fl := by
  obtain ⟨neg, h⟩ := fpSum_answers hf (RoundMode.ofBits (fcsrRm fcsr)) ha (hb.fpFlip hf)
  rw [fpRat_fpFlip hf, ← sub_eq_add_neg] at h
  exact (fpOutcome_rounded (op := .sub) hd hf rfl (fpIeee_number (not_isInteger hf) ha.not_nan hb.not_nan) h
    (.inl ⟨ne_long hf, rfl⟩) ho).1

include hb in
theorem mul_rounded (ho : fpOutcome cfg .mul f fcsr a b = .value v fl) :
    FpRounded f fcsr (fpRat f a * fpRat f b) v fl ∧ fpNeg f v = (fpNeg f a != fpNeg f b) :=
  fpOutcome_rounded (op := .mul) hd hf rfl (fpIeee_number (not_isInteger hf) ha.not_nan hb.not_nan) (fpProduct_answers hf _ ha hb)
    (.inl ⟨ne_long hf, rfl⟩) ho

include hb in
theorem div_rounded (h0 : fpRat f b ≠ 0) (ho : fpOutcome cfg .div f fcsr a b = .value v fl) :
    FpRounded f fcsr (fpRat f a / fpRat f b) v fl ∧ fpNeg f v = (fpNeg f a != fpNeg f b) :=
  fpOutcome_rounded (op := .div) hd hf rfl (fpIeee_number (not_isInteger hf) ha.not_nan hb.not_nan)
    (fpQuotient_answers hf _ ha hb (mt fpRat_eq_zero_iff.mpr h0)) (.inl ⟨ne_long hf, rfl⟩) ho

/-- The root of a positive finite operand. -/
theorem sqrt_rounded (hpos : 0 < fpRat f a) (ho : fpOutcome cfg .sqrt f fcsr a 0#64 = .value v fl) :
    FpFinite f v ∧ fl.v = false ∧ fl.z = false ∧ fl.o = false ∧ fl.u = false ∧ (fl.i = false ↔ fpRat f v ^ 2 = fpRat f a)
      ∧ RootRounded (RoundMode.ofBits (fcsrRm fcsr)) (fpRootUlp f (fpRat f a)) (fpRat f a) (fpRat f v) := by
  obtain ⟨hba, hbb⟩ := not_bad_of_value (op := .sqrt) hd hf (not_isInteger hf) ho
  have h0 : ¬fpIsZero f a = true := fun h => hpos.ne' (fpRat_eq_zero_iff.mpr h)
  have hneg : fpNeg f a = false := by
    by_contra hn
    rw [Bool.not_eq_false] at hn
    rw [fpRat_eq, hn, fpSign, if_pos rfl] at hpos
    linarith [fpMagnitudeRat_nonneg f (fpMagnitude f a)]
  obtain ⟨j, n, h⟩ := fpRoot_normal hf (RoundMode.ofBits (fcsrRm fcsr)) ha hneg h0 fun h => hba (.inl h)
  have hvalue := fpOutcome_not_tiny (op := .sqrt) (fcsr := fcsr) hd hf (not_isInteger hf) hba hbb
    (fpIeee_number (not_isInteger hf) ha.not_nan (fpIsNan_zero f)) h.tiny
  cases hvalue.symm.trans ho
  obtain ⟨noV, noZ, noO, noU⟩ := h.noFlags
  obtain ⟨rounded, exactly⟩ := h.rootRounded hpos
  exact ⟨h.finite, noV, noZ, noO, noU, exactly, rounded⟩

end

/-! ### Conversions -/

theorem narrow_rounded (hd : FpDefaults cfg) (ha : FpFinite .d a)
    (ho : fpOutcome cfg (.cvt .s (RoundMode.ofBits (fcsrRm fcsr))) .d fcsr a 0#64 = .value v fl) :
    FpRounded .s fcsr (fpRat .d a) v fl ∧ fpNeg .s v = fpNeg .d a :=
  fpOutcome_rounded hd (.inl rfl) rfl ((fpIeee_number rfl ha.not_nan (fpIsNan_zero _)).trans (fpNumber_toFloat rfl _))
    (fpToFloat_answers (.inl rfl) _ ha) (.inl ⟨by decide, rfl⟩) ho

theorem widen_rounded (hd : FpDefaults cfg) (ha : FpFinite .s a)
    (ho : fpOutcome cfg (.cvt .d (RoundMode.ofBits (fcsrRm fcsr))) .s fcsr a 0#64 = .value v fl) :
    FpRounded .d fcsr (fpRat .s a) v fl ∧ fpNeg .d v = fpNeg .s a := by
  have answers := fpToFloat_answers (dst := .d) (.inr rfl) (RoundMode.ofBits (fcsrRm fcsr)) ha
  have hba := (not_bad_of_value hd (.inl rfl) rfl ho).1
  refine fpOutcome_rounded hd (.inr rfl) rfl ((fpIeee_number rfl ha.not_nan (fpIsNan_zero _)).trans (fpNumber_toFloat rfl _)) answers
    (.inr (Bool.eq_false_iff.mpr ?_)) ho
  rw [ne_eq, answers.tiny_iff (.inr rfl), not_and, not_lt]
  intro h0
  have hle := le_abs_fpRat (mt fpRat_eq_zero_iff.mpr h0) fun h => hba (.inl h)
  exact (zpow_le_zpow_right₀ one_le_two (by decide)).trans hle

theorem fpIsNan_integer (hf : f = .w ∨ f = .l) (x : DWord) : fpIsNan f x = false := by
  rcases hf with rfl | rfl <;> simp [fpIsNan, fpFrac, FpFmt.fracBits, Nat.mod_one]

theorem fpFromInt_not_tiny (hdst : dst = .s ∨ dst = .d) (src : FpFmt) (rm : RoundMode) (a : DWord) :
    (fpFromInt src dst rm a).tiny = false := by
  rw [Bool.eq_false_iff, ne_eq, (fpFromInt_answers hdst src rm a).tiny_iff hdst, not_and, not_lt]
  intro h0
  have hb := (float_expMax hdst).2
  have hone : (1 : ℚ) ≤ |(fpIntOf src a : ℚ)| := by exact_mod_cast Int.one_le_abs (by exact_mod_cast h0)
  exact (zpow_le_one_of_nonpos₀ one_le_two (by omega)).trans hone

theorem fpIeee_fromInt (hf : f = .w ∨ f = .l) (hdst : dst = .s ∨ dst = .d) (own rm : RoundMode) (a : DWord) :
    fpIeee (.cvt dst own) f rm a 0#64 = fpFromInt f dst own a := by
  rw [fpIeee_number (op := .cvt dst own) (not_isInteger hdst) (fpIsNan_integer hf a) (fpIsNan_integer hf _)]
  rcases hf with rfl | rfl <;> rfl

theorem ofInt_rounded (hd : FpDefaults cfg) (hf : f = .w ∨ f = .l) (hdst : dst = .s ∨ dst = .d)
    (ho : fpOutcome cfg (.cvt dst (RoundMode.ofBits (fcsrRm fcsr))) f fcsr a 0#64 = .value v fl) :
    FpRounded dst fcsr (fpIntOf f a) v fl ∧ fpNeg dst v = decide (fpIntOf f a < 0) :=
  fpOutcome_rounded (op := .cvt dst _) hd hdst rfl (fpIeee_fromInt hf hdst _ _ a) (fpFromInt_answers hdst f _ a)
    (.inr (fpFromInt_not_tiny hdst f _ a)) ho

/-! ### Zero sums (R731) -/

section
variable (hd : FpDefaults cfg) (hf : f = .s ∨ f = .d) (ha : FpFinite f a) (hb : FpFinite f b)
include hd hf ha hb

theorem add_zero_value (h : fpRat f a + fpRat f b = 0) (ho : fpOutcome cfg .add f fcsr a b = .value v fl) :
    v = (if fpIsZero f a && decide (fpNeg f a = fpNeg f b) then a else fpZero f (decide (RoundMode.ofBits (fcsrRm fcsr) = .down)))
      ∧ fl = FpFlags.none := by
  obtain ⟨hba, hbb⟩ := not_bad_of_value (op := .add) hd hf (not_isInteger hf) ho
  have hvalue := fpOutcome_number (op := .add) (fcsr := fcsr) hd hf (not_isInteger hf) (fpUsual_of_finite ha hba)
    (fpUsual_of_finite hb hbb) (fpSum_of_sum_zero ha hb h)
  cases hvalue.symm.trans ho
  exact ⟨rfl, rfl⟩

theorem sub_zero_value (h : fpRat f a - fpRat f b = 0) (ho : fpOutcome cfg .sub f fcsr a b = .value v fl) :
    v = (if fpIsZero f a && decide (fpNeg f a = !fpNeg f b) then a else fpZero f (decide (RoundMode.ofBits (fcsrRm fcsr) = .down)))
      ∧ fl = FpFlags.none := by
  obtain ⟨hba, hbb⟩ := not_bad_of_value (op := .sub) hd hf (not_isInteger hf) ho
  have hvalue := fpOutcome_number (op := .sub) (fcsr := fcsr) hd hf (not_isInteger hf) (fpUsual_of_finite ha hba)
    (fpUsual_of_finite hb hbb) (fpSum_of_sum_zero ha (hb.fpFlip hf) (by rw [fpRat_fpFlip hf, ← sub_eq_add_neg, h]))
  rw [fpNeg_fpFlip hf] at hvalue
  cases hvalue.symm.trans ho
  exact ⟨rfl, rfl⟩

end

/-- Settles O57: on finite operands by the exact result each operation answers, and on the special ones by its own cases. -/
theorem fpRounding : Obligations.FpRounding := by
  intro cfg f fcsr a b hd hf rm invalid exact sign usual
  have hint := not_isInteger hf
  have zero := fpUsual_zero f
  have hsign : sign = true ↔ fpNeg f a ≠ fpNeg f b := bne_iff_ne
  have hsame : sign = false ↔ fpNeg f a = fpNeg f b := bne_eq_false_iff_eq
  refine ⟨fun v fl ha hb => add_rounded hd hf ha hb, fun v fl ha hb => sub_rounded hd hf ha hb,
    fun v fl ha hb => mul_rounded hd hf ha hb, fun v fl ha hb => div_rounded hd hf ha hb, fun v fl => narrow_rounded hd,
    fun v fl => widen_rounded hd, fun v fl => ofInt_rounded hd (.inl rfl) hf, fun v fl => ofInt_rounded hd (.inr rfl) hf,
    fun v fl => sqrt_rounded hd hf, fun v fl ha ho => ?subSelf, fun v fl hop ha hb h ho => ?addZero,
    fun v fl hop ha hb h ho => ?subZero, fun ha ha0 hb hb0 hbad => ?divByZero,
    fun ha hb => ⟨?divInf, fun hs => ?addInf, fun hs => ?subInf⟩, fun h => ?mulInvalid, fun ha hb => ?divInvalid,
    fun hn h0 hu => ?sqrtInvalid, fun hop h0 => ?sqrtZero,
    fun hop hi hu => ⟨fun h => ?infAdd, fun h => ?infSub, fun h => ?infMul, fun h => ?infDiv, fun h => ?infSqrt⟩,
    fun hop hu hi hib => ⟨?addInfRight, ?subInfRight, fun h => ?mulInfRight, ?divInfRight⟩, fun h => ?narrowInf, fun h => ?widenInf,
    fun hop hu => ⟨fpOutcome_abs hd hf hu, fpOutcome_neg hd hf hop hu⟩, fun ha hb h op hmem => ?nan,
    fun ha h => ⟨fun op hmem => ?nanUnary, fun hs => ?nanNarrow, fun hs => ?nanWiden⟩⟩
  case subSelf =>
    obtain ⟨hv, hfl⟩ := sub_zero_value hd hf ha ha (sub_self _) ho
    exact ⟨by simpa using hv, hfl⟩
  case addZero =>
    rw [(add_zero_value hd hf ha hb h ho).1, apply_ite (fpZero f)]
    refine ite_congr (propext ?_) (fun hc => (fpZero_self hf hop hc.1).symm) fun _ => rfl
    rw [Bool.and_eq_true, decide_eq_true_iff, hsame]
  case subZero =>
    rw [(sub_zero_value hd hf ha hb h ho).1, apply_ite (fpZero f)]
    refine ite_congr (propext ?_) (fun hc => (fpZero_self hf hop hc.1).symm) fun _ => rfl
    rw [Bool.and_eq_true, decide_eq_true_iff, hsign, Bool.eq_not]
  case divByZero =>
    have hz := fpRat_eq_zero_iff.mp hb0
    refine fpOutcome_number hd hf hint (fpUsual_of_finite ha hbad) (fpUsual_of_zero hz) ?_
    exact (fpQuotient_by_zero ha.not_inf hb.not_inf hz).trans (if_neg (mt fpRat_eq_zero_iff.mpr ha0))
  case divInf => exact fpOutcome_invalid hd hf rfl (fpUsual_of_inf hf ha) (fpUsual_of_inf hf hb) (fpQuotient_inf_inf ha hb)
  case addInf =>
    exact fpOutcome_invalid hd hf rfl (fpUsual_of_inf hf ha) (fpUsual_of_inf hf hb) (fpSum_inf_opposite ha hb (hsign.mp hs))
  case subInf =>
    refine fpOutcome_invalid hd hf rfl (fpUsual_of_inf hf ha) (fpUsual_of_inf hf hb) (fpSum_inf_opposite ha ?_ ?_)
    · rwa [fpIsInf_fpFlip hf]
    · rw [fpNeg_fpFlip hf, hsame.mp hs]
      exact (Bool.not_ne_self _).symm
  case mulInvalid =>
    rcases h with ⟨hi, h0⟩ | ⟨h0, hi⟩
    · exact fpOutcome_invalid hd hf rfl (fpUsual_of_inf hf hi) (fpUsual_of_zero h0) (fpProduct_inf_zero (.inl hi) (.inr h0))
    · exact fpOutcome_invalid hd hf rfl (fpUsual_of_zero h0) (fpUsual_of_inf hf hi) (fpProduct_inf_zero (.inr hi) (.inl h0))
  case divInvalid =>
    refine fpOutcome_invalid hd hf rfl (fpUsual_of_zero ha) (fpUsual_of_zero hb) ?_
    exact (fpQuotient_by_zero (not_inf_of_zero hf ha) (not_inf_of_zero hf hb) hb).trans (if_pos ha)
  case sqrtInvalid => exact fpOutcome_invalid hd hf rfl hu zero (fpRoot_negative (Bool.eq_false_iff.mp h0) hn)
  case sqrtZero =>
    refine fpOutcome_number hd hf hint (fpUsual_of_zero h0) zero ?_
    rw [fpZero_self hf hop h0]
    exact fpRoot_zero h0
  case infAdd =>
    refine fpOutcome_number hd hf hint (fpUsual_of_inf hf hi) hu ?_
    rw [fpInf_self hf hop hi]
    exact fpSum_inf_left hi (h.imp_right hsame.mp)
  case infSub =>
    refine fpOutcome_number hd hf hint (fpUsual_of_inf hf hi) hu ?_
    rw [fpInf_self hf hop hi]
    refine fpSum_inf_left hi ?_
    rw [fpIsInf_fpFlip hf, fpNeg_fpFlip hf]
    exact h.imp_right fun hs => Bool.eq_not.mpr (hsign.mp hs)
  case infMul =>
    exact fpOutcome_number hd hf hint (fpUsual_of_inf hf hi) hu
      (fpProduct_inf (.inl hi) (not_zero_of_inf hf hi) (Bool.eq_false_iff.mp h))
  case infDiv => exact fpOutcome_number hd hf hint (fpUsual_of_inf hf hi) hu (fpQuotient_inf_left hi h)
  case infSqrt =>
    refine fpOutcome_number hd hf hint (fpUsual_of_inf hf hi) zero ?_
    rw [← h, fpInf_self hf hop hi]
    exact fpRoot_inf (not_zero_of_inf hf hi) (Bool.eq_false_iff.mp h) hi
  case addInfRight =>
    refine fpOutcome_number hd hf hint hu (fpUsual_of_inf hf hib) ?_
    rw [fpInf_self hf hop hib]
    exact fpSum_inf_right hi hib
  case subInfRight =>
    refine fpOutcome_number hd hf hint hu (fpUsual_of_inf hf hib) ?_
    rw [← fpFlip_inf hib]
    exact fpSum_inf_right hi ((fpIsInf_fpFlip hf).trans hib)
  case mulInfRight =>
    exact fpOutcome_number hd hf hint hu (fpUsual_of_inf hf hib)
      (fpProduct_inf (.inr hib) (Bool.eq_false_iff.mp h) (not_zero_of_inf hf hib))
  case divInfRight => exact fpOutcome_number hd hf hint hu (fpUsual_of_inf hf hib) (fpQuotient_inf_right hi hib)
  case narrowInf =>
    exact fpOutcome_number hd (.inr rfl) rfl (fpUsual_of_inf (.inr rfl) h) (fpUsual_zero _) ((fpNumber_toFloat rfl _).trans (if_pos h))
  case widenInf =>
    exact fpOutcome_number hd (.inl rfl) rfl (fpUsual_of_inf (.inl rfl) h) (fpUsual_zero _) ((fpNumber_toFloat rfl _).trans (if_pos h))
  case nan =>
    have hres : op.result f = f := by fin_cases hmem <;> rfl
    obtain ⟨v, hv, hq⟩ := fpOutcome_nan (op := op) hd hf (by rwa [hres]) ha hb h
    exact ⟨v, hv, hres ▸ hq⟩
  case nanUnary =>
    have hres : op.result f = f := by fin_cases hmem <;> rfl
    obtain ⟨v, hv, hq⟩ := fpOutcome_nan (op := op) hd hf (by rwa [hres]) ha zero.not_bad (.inl h)
    exact ⟨v, hv, hres ▸ hq⟩
  case nanNarrow => exact fpOutcome_nan hd hf (.inl rfl) ha zero.not_bad (.inl h)
  case nanWiden => exact fpOutcome_nan hd hf (.inr rfl) ha zero.not_bad (.inl h)

end Sys2Proof.Machine
end

section
/-! SUPPORT. The arithmetic instructions (`45_fpu.md` R703, R730 to R737): each does what its operation answers, and ABS and NEG of a number
touch the sign bit only. -/

namespace Sys2Proof.Machine

variable {i : Instr} {op : FpOp} {f : FpFmt} {fd fs : RegIdx} {v : DWord} {s : State}

/-- With no flag nothing traps. -/
theorem FpDoes.of_exact {o : FpOutcome} (h : FpDoes i o f fd s) (ho : o = .value v FpFlags.none) :
    Answers i s (FpResult f fd v FpFlags.none s) :=
  h.1 v FpFlags.none ho BitVec.zero_and

theorem fpRead_operand (f : FpFmt) (n : RegIdx) (s : State) : FpOperand f (s.fpRead f n) := by
  rintro rfl
  exact (zext32_toNat _).trans_lt (s.fgr32 n).isLt

/-- Settles O52: the instructions are the operations of R703 on their operands; ABS and NEG at the defaults are those of O57. -/
theorem fpArithmetic : Obligations.FpArithmetic := by
  intro fd fs ft s hl hu
  have absS : FpDoes (.absS fd fs) _ .s fd s := fpArith_does hl (withCop1_open hu)
  have absD : FpDoes (.absD fd fs) _ .d fd s := fpArith_does hl (withCop1_open hu)
  have negS : FpDoes (.negS fd fs) _ .s fd s := fpArith_does hl (withCop1_open hu)
  have negD : FpDoes (.negD fd fs) _ .d fd s := fpArith_does hl (withCop1_open hu)
  refine ⟨?_, ?_, ?_, ?_, ?_, ?_, ?_, ?_, ?_, ?_, absS, absD, negS, negD, fun hd hn hz => ?single, fun hd hn hz => ?double⟩
  case single =>
    exact ⟨absS.of_exact (fpOutcome_abs hd (.inl rfl) ⟨hn, hz⟩),
      negS.of_exact (fpOutcome_neg hd (.inl rfl) (fpRead_operand .s fs s) ⟨hn, hz⟩)⟩
  case double =>
    exact ⟨absD.of_exact (fpOutcome_abs hd (.inr rfl) ⟨hn, hz⟩),
      negD.of_exact (fpOutcome_neg hd (.inr rfl) (fpRead_operand .d fs s) ⟨hn, hz⟩)⟩
  all_goals exact fpArith_does hl (withCop1_open hu)

end Sys2Proof.Machine
end

section
/-! SUPPORT. The event list (`60_exceptions.md` R900 to R903): what adding, removing and bringing nearer do to its order and its members,
said once. -/

namespace Sys2Proof.Machine

variable {q : Scheduler} {k : EventKind} {c el step : Int}

/-! ### Times -/

/-- A time that 64 bits hold reads back as it was written (R900). -/
theorem remaining_ofInt (k : EventKind) {t : Int} (seq : Nat) (low : -(2 ^ 63) ≤ t) (high : t < 2 ^ 63) :
    Event.remaining ⟨k, BitVec.ofInt 64 t, seq⟩ = t :=
  (BitVec.toInt_ofInt ..).trans (Int.bmod_eq_of_le (by simp; omega) (by simp; omega))

theorem remaining_lt (e : Event) : e.remaining < 2 ^ 63 := BitVec.toInt_lt

/-- An event brought nearer by `step` (R901). -/
def Event.nearer (step : Int) (e : Event) : Event := { e with cyclesRemaining := e.cyclesRemaining - BitVec.ofInt 64 step }

theorem elapse_events (step : Int) (q : Scheduler) : (q.elapse step).events = q.events.map (Event.nearer step) := rfl

/-- No event's time wraps that is not late already (R900). -/
theorem nearer_remaining {e : Event} (he : 0 ≤ e.remaining) (low : 0 ≤ step) (high : step < 2 ^ 63) :
    (e.nearer step).remaining = e.remaining - step := by
  have hs : (BitVec.ofInt 64 step).toInt = step :=
    (BitVec.toInt_ofInt ..).trans (Int.bmod_eq_of_le (by simp; omega) (by simp; omega))
  have hl := remaining_lt e
  unfold Event.remaining Event.nearer at *
  rw [BitVec.toInt_sub, hs]
  exact Int.bmod_eq_of_le (by simp; omega) (by simp; omega)

/-! ### Inserting -/

theorem insertEvent_perm (e : Event) (l : List Event) : (insertEvent e l).Perm (e :: l) := by
  induction l with
  | nil => exact .refl _
  | cons f fs ih =>
    unfold insertEvent
    split
    · exact (ih.cons f).trans (.swap e f fs)
    · exact .refl _

/-- Inserting an event newer than every other keeps the order of R900. -/
theorem insertEvent_sorted {e : Event} {l : List Event} (hl : l.Pairwise Event.before) (new : ∀ g ∈ l, g.seq < e.seq) :
    (insertEvent e l).Pairwise Event.before := by
  induction l with
  | nil => exact List.pairwise_singleton _ _
  | cons f fs ih =>
    obtain ⟨hf, hfs⟩ := List.pairwise_cons.mp hl
    unfold insertEvent
    split
    case isTrue hle =>
      refine List.pairwise_cons.mpr ⟨fun g hg => ?_, ih hfs fun g hg => new g (.tail f hg)⟩
      rcases List.mem_cons.mp ((insertEvent_perm e fs).mem_iff.mp hg) with rfl | hg
      · have := new f (.head fs)
        unfold Event.before
        omega
      · exact hf g hg
    case isFalse hlt =>
      refine List.pairwise_cons.mpr ⟨fun g hg => .inl ?_, hl⟩
      rcases List.mem_cons.mp hg with rfl | hg
      · omega
      · have := hf g hg
        unfold Event.before at this
        omega

/-! ### Adding and removing (R901) -/

theorem mem_remove {g : Event} : g ∈ (q.remove k).events ↔ g ∈ q.events ∧ g.kind ≠ k := by
  simp [Scheduler.remove]

/-- The event that `add_event` puts into the list. -/
def Scheduler.added (k : EventKind) (c el : Int) (q : Scheduler) : Event := ⟨k, BitVec.ofInt 64 (c + el), q.nextSeq⟩

theorem mem_add {g : Event} : g ∈ (q.add k c el).events ↔ g = q.added k c el ∨ g ∈ (q.remove k).events :=
  (insertEvent_perm _ _).mem_iff.trans List.mem_cons

theorem Scheduler.Wf.remove (h : q.Wf) (k : EventKind) : (q.remove k).Wf where
  sorted := h.sorted.filter _
  kinds := h.kinds.sublist (List.filter_sublist.map _)
  seq e he := h.seq e (mem_remove.mp he).1

theorem Scheduler.Wf.add (h : q.Wf) (k : EventKind) (c el : Int) : (q.add k c el).Wf where
  sorted := insertEvent_sorted (h.remove k).sorted (h.remove k).seq
  kinds := by
    refine ((insertEvent_perm _ _).map _).nodup_iff.mpr (List.nodup_cons.mpr ⟨?_, (h.remove k).kinds⟩)
    rintro hk
    obtain ⟨g, hg, hgk⟩ := List.mem_map.mp hk
    exact (mem_remove.mp hg).2 hgk
  seq e he := by
    rcases mem_add.mp he with rfl | he
    · exact Nat.lt_succ_self _
    · exact Nat.lt_succ_of_lt ((h.remove k).seq e he)

/-- Bringing every event nearer keeps their order when no time wraps. -/
theorem Scheduler.Wf.elapse (h : q.Wf) (future : ∀ e ∈ q.events, 0 ≤ e.remaining) (low : 0 ≤ step) (high : step < 2 ^ 63) :
    (q.elapse step).Wf where
  sorted := by
    refine List.pairwise_map.mpr (h.sorted.imp_of_mem fun {e f} he hf hb => ?_)
    have het := nearer_remaining (future e he) low high
    have hft := nearer_remaining (future f hf) low high
    have hes : (e.nearer step).seq = e.seq := rfl
    have hfs : (f.nearer step).seq = f.seq := rfl
    change (e.nearer step).before (f.nearer step)
    unfold Event.before at hb ⊢
    omega
  kinds := by
    have hk : (q.elapse step).events.map Event.kind = q.events.map Event.kind := by
      rw [elapse_events, List.map_map]; rfl
    exact hk ▸ h.kinds
  seq e he := by
    obtain ⟨g, hg, rfl⟩ := List.mem_map.mp he
    exact h.seq g hg

/-- The front leaves the list. -/
theorem Scheduler.Wf.pop {e : Event} {rest : List Event} (h : q.Wf) (he : q.events = e :: rest) :
    Scheduler.Wf { q with events := rest } where
  sorted := (List.pairwise_cons.mp (he ▸ h.sorted)).2
  kinds := by
    have := h.kinds
    rw [he] at this
    exact (List.nodup_cons.mp this).2
  seq g hg := h.seq g (he ▸ .tail e hg)

/-- With the front in the future every event is: the list is sorted (R900). -/
theorem Scheduler.Wf.future_of_not_due (h : q.Wf) (hd : q.due = false) : ∀ e ∈ q.events, 0 < e.remaining := by
  unfold Scheduler.due at hd
  split at hd
  case h_1 e rest he =>
    have hfront : 0 < e.remaining := by simpa using hd
    intro g hg
    rcases List.mem_cons.mp (he ▸ hg) with rfl | hg
    · exact hfront
    · have hb := (List.pairwise_cons.mp (he ▸ h.sorted)).1 g hg
      unfold Event.before at hb
      omega
  case h_2 he =>
    intro g hg
    exact absurd (he ▸ hg) List.not_mem_nil

end Sys2Proof.Machine
end

section
/-! SUPPORT. What feeds the event list keeps its invariant: the devices' transfers, the timers, the collaborators, and the advance itself
(`60_exceptions.md` R900 to R967). One lemma for each operation, named after it with the ending `_events`. -/

namespace Sys2Proof.Machine

/-! ### The invariant, within an advance and between advances -/

/-- An event's time as `State.Timely` bounds it, within an advance or between advances. -/
def Event.InTime (within : Bool) (e : Event) : Prop :=
  -(2 ^ 62) ≤ e.remaining ∧ (within = false → 0 ≤ e.remaining ∧ ((∀ n, e.kind ≠ .collab n) → 0 < e.remaining))

/-- `State.SchedInv` with the bounds of an advance or those between advances, whatever `State.advancing` says: the flag is set only when the
advance is over (R901, log entry 14). -/
structure State.EventsInv (within : Bool) (s : State) : Prop where
  sched : s.sched.Wf
  inTime : ∀ e ∈ s.sched.events, e.InTime within
  halfline : FitsTime s.cfg.cyclesPerHalfline
  audioCur : ∀ q, s.ai.cur = some q → FitsTime q.duration
  audioNext : ∀ q, s.ai.next = some q → FitsTime q.duration

/-- The cycles of a `run()` for which a new event's time does not wrap (R901, log entry 15). -/
def Elapsed (el : Int) : Prop := 0 ≤ el ∧ el < 2 ^ 62

theorem elapsed_zero : Elapsed 0 := ⟨le_rfl, by norm_num⟩

variable {s t : State} {w : Bool} {el : Int}

theorem schedInv_iff : s.SchedInv ↔ s.EventsInv s.advancing := by
  constructor
  · intro h
    exact { h with inTime := fun e he => ⟨h.timely.late e he, fun hw => h.timely.future hw e he⟩ }
  · intro h
    exact { h with timely := ⟨fun e he => (h.inTime e he).1, fun ha e he => (h.inTime e he).2 ha⟩ }

theorem State.EventsInv.congr (h : s.EventsInv w) (same : t.sched = s.sched ∧ t.ai = s.ai ∧ t.cfg = s.cfg) : t.EventsInv w := by
  obtain ⟨sched, ai, cfg⟩ := same
  exact ⟨sched ▸ h.sched, sched ▸ h.inTime, cfg ▸ h.halfline, ai ▸ h.audioCur, ai ▸ h.audioNext⟩

/-- Between advances is stronger than within one. -/
theorem State.EventsInv.within (h : s.EventsInv false) : s.EventsInv true :=
  { h with inTime := fun e he => ⟨(h.inTime e he).1, nofun⟩ }

/-! ### Adding and removing events -/

theorem removeEvent_events (h : s.EventsInv w) (k : EventKind) : State.EventsInv w { s with sched := s.sched.remove k } :=
  { h with
    sched := h.sched.remove k
    inTime := fun e he => h.inTime e (mem_remove.mp he).1 }

theorem addEvent_events {k : EventKind} {c : Int} (h : s.EventsInv w) (he : Elapsed el) (low : 0 ≤ c) (high : c ≤ 2 ^ 62)
    (own : (∀ n, k ≠ .collab n) → 0 < c) : (s.addEvent k c el).EventsInv w := by
  obtain ⟨elow, ehigh⟩ := he
  refine { h with sched := h.sched.add k c el, inTime := fun e hm => ?_ }
  rcases mem_add.mp hm with rfl | hm
  · have ht : (s.sched.added k c el).remaining = c + el := remaining_ofInt k _ (by omega) (by omega)
    refine ⟨by omega, fun _ => ⟨by omega, fun hk => ?_⟩⟩
    have := own hk
    omega
  · exact h.inTime e (mem_remove.mp hm).1

/-- An event of this core's own is added with a positive number of cycles (R913). -/
theorem addOwnEvent_events {k : EventKind} {c : Nat} (h : s.EventsInv w) (he : Elapsed el) (hc : FitsTime c) :
    (s.addEvent k c el).EventsInv w := by
  obtain ⟨low, high⟩ := hc
  exact addEvent_events h he (by omega) (by omega) fun _ => by omega

theorem compareDelay_fits (count compare : Word) : FitsTime (compareDelay count compare) := by
  have := (compare - count - 1#32).isLt
  unfold FitsTime compareDelay
  omega

theorem scheduleCompare_events (h : s.EventsInv w) (he : Elapsed el) : (s.scheduleCompare el).EventsInv w :=
  addOwnEvent_events (removeEvent_events h .compareInterrupt) he (compareDelay_fits _ _)

/-! ### Collaborators (R970) -/

theorem dmaWrite_events {a : Nat} {b : Byte} (h : s.EventsInv w) : (s.dmaWrite a b).EventsInv w := h.congr (by simp)

theorem applyAction_events (h : s.EventsInv w) (he : Elapsed el) (a : CollabAction) : (s.applyAction el a).EventsInv w := by
  cases a with
  | setSp | clearSp | setDp => exact { h with }
  | writeRdram a b => exact dmaWrite_events h
  | addEvent n c =>
    have hc := c.isLt
    exact addEvent_events h he (by omega) (by omega) fun hk => absurd rfl (hk n)
  | removeEvent n => exact removeEvent_events h _

theorem collabCall_events {c : CollabCall} (h : s.EventsInv w) (he : Elapsed el) : (s.collabCall el c).2.EventsInv w := by
  have actions : ∀ (l : List CollabAction) (s : State), s.EventsInv w → (l.foldl (State.applyAction el) s).EventsInv w := by
    intro l
    induction l with
    | nil => exact fun _ h => h
    | cons a l ih => exact fun s h => ih _ (applyAction_events h he a)
  exact actions _ _ { h with }

/-! ### Starting a transfer (R941, R951, R966) -/

theorem aiDmaCycles_fits (len : Word) (dacrate : BitVec 14) : FitsTime (aiDmaCycles len dacrate) := by
  have := (Config.aiDmaCyclesPred len.toNat dacrate.toNat).isLt
  unfold FitsTime aiDmaCycles
  omega

theorem piDmaCycles_fits (len : Nat) : FitsTime (piDmaCycles len) := by
  have := (Config.piDmaCyclesPred len).isLt
  unfold FitsTime piDmaCycles
  omega

theorem siDmaCycles_fits : FitsTime siDmaCycles := by
  have := Config.siDmaCyclesPred.isLt
  unfold FitsTime siDmaCycles
  omega

/-- A start of AI adds one event; the interrupt and the copy do not touch the list. -/
theorem aiStart_sched (el : Int) (q : AiRequest) (s : State) : (s.aiStart el q).sched = s.sched.add .aiDma q.duration el := by
  unfold State.aiStart
  dsimp only
  split <;> split <;> rfl

theorem aiStart_events {q : AiRequest} (h : s.EventsInv w) (he : Elapsed el) (hq : FitsTime q.duration) :
    (s.aiStart el q).EventsInv w := by
  have started := aiStart_started el q s
  have added : (s.addEvent .aiDma q.duration el).EventsInv w := addOwnEvent_events h he hq
  have current : State.EventsInv w { s.addEvent .aiDma q.duration el with ai := { s.ai with cur := some q } } :=
    { added with audioCur := fun p hp => by cases hp; exact hq }
  exact current.congr ⟨aiStart_sched el q s, started.ai, by rw [started.frame]; rfl⟩

theorem piCopyBytes_events {d : PiDirection} {n dram : Nat} {cart : Word} (h : s.EventsInv w) (he : Elapsed el) :
    (State.piCopyBytes el d n dram cart s).EventsInv w := by
  induction n generalizing dram cart s with
  | zero => exact h
  | succ n ih =>
    cases d with
    | toRdram => exact ih (dmaWrite_events (collabCall_events h he))
    | toCart => exact ih (collabCall_events h he)

theorem piStart_events {q : PiRequest} (h : s.EventsInv w) (he : Elapsed el) : (s.piStart el q).EventsInv w := by
  unfold State.piStart
  refine addOwnEvent_events ?_ he (piDmaCycles_fits _)
  dsimp only
  split
  · exact piCopyBytes_events { h with } he
  · exact { h with }

theorem siCopy_events {q : SiRequest} (h : s.EventsInv w) : (s.siCopy q).EventsInv w := by
  rw [(siCopy_copied q s).frame]
  exact { h with }

theorem siStart_events {q : SiRequest} (h : s.EventsInv w) (he : Elapsed el) : (s.siStart el q).EventsInv w := by
  unfold State.siStart
  refine addOwnEvent_events ?_ he siDmaCycles_fits
  dsimp only
  split
  · exact siCopy_events { h with }
  · exact { h with }

/-! ### The callbacks (R904) -/

theorem aiFire_events (h : s.EventsInv w) : s.aiFire.EventsInv w := by
  unfold State.aiFire
  extract_lets copied signalled
  have hc : copied.EventsInv w := by
    unfold copied
    split
    · exact { h with }
    · exact h
  have hs : signalled.EventsInv w := by
    unfold signalled
    split
    · exact hc
    · exact { hc with }
  split
  case h_1 q hq => exact aiStart_events { hs with audioCur := nofun, audioNext := nofun } elapsed_zero (hs.audioNext q hq)
  case h_2 => exact { hs with audioCur := nofun }

theorem piFire_events (h : s.EventsInv w) : s.piFire.EventsInv w := by
  unfold State.piFire
  extract_lets copied _ idle signalled
  have hc : copied.EventsInv w := by
    unfold copied
    split
    · exact piCopyBytes_events h elapsed_zero
    · exact h
  have hi : idle.EventsInv w := by
    unfold idle
    split
    · exact { hc with }
    · exact hc
  have hs : signalled.EventsInv w := { hi with }
  split
  · exact piStart_events { hs with } elapsed_zero
  · exact hs

theorem siFire_events (h : s.EventsInv w) : s.siFire.EventsInv w := by
  unfold State.siFire
  extract_lets copied _ signalled
  have hc : copied.EventsInv w := by
    unfold copied
    split
    · exact siCopy_events h
    · exact h
  have hs : signalled.EventsInv w := { hc with }
  split
  · exact siStart_events { hs with } elapsed_zero
  · exact hs

theorem viFire_events (h : s.EventsInv w) : s.viFire.EventsInv w := by
  unfold State.viFire
  extract_lets wrap _ counted told signalled
  have ht : told.EventsInv w := by
    unfold told
    split <;> exact { h with }
  have hs : signalled.EventsInv w := by
    unfold signalled
    split
    · exact { ht with }
    · exact ht
  exact addOwnEvent_events hs elapsed_zero hs.halfline

theorem onFire_events {k : EventKind} (h : s.EventsInv w) : (s.onFire k).EventsInv w := by
  cases k with
  | compareInterrupt => exact scheduleCompare_events { h with } elapsed_zero
  | viHalfline => exact viFire_events h
  | aiDma => exact aiFire_events h
  | piDma => exact piFire_events h
  | siDma => exact siFire_events h
  | collab n => exact collabCall_events h elapsed_zero

/-! ### The advance (R901, R902) -/

theorem fireDue_events {n : Nat} (h : s.EventsInv w) : (State.fireDue n s).EventsInv w := by
  induction n generalizing s with
  | zero => exact h
  | succ n ih =>
    unfold State.fireDue
    split
    case h_1 e rest he =>
      have popped : State.EventsInv w { s with sched := { s.sched with events := rest } } :=
        { h with
          sched := h.sched.pop he
          inTime := fun g hg => h.inTime g (he ▸ .tail e hg) }
      split
      · exact ih (onFire_events popped)
      · exact h
    case h_2 => exact h

/-- When an advance is over nothing is due, and so every event is in the future. -/
theorem continueAdvance_schedInv (h : s.EventsInv true) : s.continueAdvance.SchedInv := by
  have hf := fireDue_events (n := s.sched.events.length) h
  refine schedInv_iff.mpr { hf with inTime := fun e he => ⟨(hf.inTime e he).1, fun hd => ?_⟩ }
  have := hf.sched.future_of_not_due hd e he
  exact ⟨this.le, fun _ => this⟩

theorem advanceEvents_schedInv (h : s.EventsInv false) (he : Elapsed el) : (s.advanceEvents el).SchedInv := by
  obtain ⟨elow, ehigh⟩ := he
  have future : ∀ e ∈ s.sched.events, 0 ≤ e.remaining := fun e he => ((h.inTime e he).2 rfl).1
  refine continueAdvance_schedInv { h with sched := h.sched.elapse future elow (by omega), inTime := fun e he => ⟨?_, nofun⟩ }
  obtain ⟨g, hg, rfl⟩ := List.mem_map.mp he
  have hr := nearer_remaining (future g hg) elow (by omega)
  have := future g hg
  change -(2 ^ 62) ≤ (g.nearer el).remaining
  omega

end Sys2Proof.Machine
end

section
/-! SUPPORT. What an access does to the event list between advances: a device or a collaborator adds its events at the cycles of this `run()`,
and nothing else touches the list (`60_exceptions.md` R901, R911, R970). One lemma for each operation, named after it with the ending
`_between`; a gate, a check or a translation hands on the state it is given. -/

namespace Sys2Proof.Machine

/-! ### Pieces of instructions and their ends -/

/-- However a piece of an instruction answers, the state it hands on satisfies `P`. -/
def Res.Ends {α : Type} (P : State → Prop) : Res α → Prop
  | .ok _ t => P t
  | .raise _ t => P t
  | .refuse _ => True

/-- A next state, if there is one, satisfies `P`. -/
def Result.Ends (P : State → Prop) : Result → Prop
  | .next t => P t
  | .fault _ => True
  | .refused _ => True

theorem Result.Ends.next {P : State → Prop} {r : Result} {t : State} (h : Result.Ends P r) (hr : r = .next t) : P t := by
  subst hr; exact h

theorem Res.Ends.bind {α β : Type} {P : State → Prop} {r : Res α} {k : α → State → Res β} (hr : r.Ends P)
    (hk : ∀ a t, P t → (k a t).Ends P) : (r.bind k).Ends P := by
  cases r with
  | ok a t => exact hk a t hr
  | raise e t => exact hr
  | refuse q => trivial

theorem Res.Ends.withAddress {α : Type} {P : State → Prop} {r : Res α} (hr : r.Ends P) (a : DWord) : (r.withAddress a).Ends P := by
  cases r with
  | ok v t => exact hr
  | raise e t => exact hr
  | refuse q => trivial

section Gates

/-! ### Gates, checks and translation hand on the state they are given -/

variable {P : State → Prop} {s : State}

theorem checkCop_ends {n : BitVec 2} (h : P s) : (checkCop n s).Ends P := by
  unfold checkCop
  split
  · split
    · exact h
    · trivial
    · split <;> exact h
  · split <;> exact h

theorem require64_ends (h : P s) : (require64 s).Ends P := by
  unfold require64
  split
  · exact h
  · split <;> exact h
  · split <;> exact h
  · trivial

theorem translate_ends {a : DWord} {kind : AccessKind} (h : P s) : (translate a kind s).Ends P := by
  have looked (b : DWord) : (tlbLookup b kind s).Ends P := by
    unfold tlbLookup
    split
    · exact h
    · split
      · exact h
      · split <;> exact h
  unfold translate
  split
  · trivial
  · split
    · exact h
    · split
      · exact h
      · exact h
      · exact looked _

theorem accessAllowed_ends (h : P s) : (accessAllowed s).Ends P := by
  unfold accessAllowed
  split
  · trivial
  · split
    · trivial
    · exact h
  · exact h

theorem checkAligned_ends {kind : AccessKind} {a : DWord} {n : Nat} (h : P s) : (checkAligned kind a n s).Ends P := by
  unfold checkAligned
  split <;> exact h

theorem locate_ends {kind : AccessKind} {a : DWord} {n : Nat} (h : P s) : (locate kind a n s).Ends P :=
  (accessAllowed_ends h).bind fun _ _ h => (checkAligned_ends h).bind fun _ _ h => translate_ends h

theorem locateFetch_ends {pc : DWord} (h : P s) : (locateFetch pc s).Ends P :=
  (accessAllowed_ends h).bind fun _ _ h => (checkAligned_ends h).bind fun _ _ h => translate_ends h

theorem dataChecks_ends {kind : AccessKind} {pa : Word} (h : P s) : (dataChecks kind pa s).Ends P := by
  unfold dataChecks
  split
  · exact h
  · split <;> exact h

end Gates

/-! ### Between advances -/

/-- The event list between advances, in a `run()` whose cycles leave its times room (log entry 15). -/
structure State.Between (s : State) : Prop where
  events : s.EventsInv false
  idle : s.advancing = false
  cycles : s.runCycles.toNat < 2 ^ 62

/-- What `State.Between` is about. -/
def State.timing (s : State) : Scheduler × Ai × Config × Bool × BitVec 64 := (s.sched, s.ai, s.cfg, s.advancing, s.runCycles)

variable {s t : State}

theorem State.Between.congr (h : s.Between) (same : t.timing = s.timing) : t.Between := by
  simp only [State.timing, Prod.mk.injEq] at same
  obtain ⟨sched, ai, cfg, advancing, runCycles⟩ := same
  exact ⟨h.events.congr ⟨sched, ai, cfg⟩, advancing ▸ h.idle, runCycles ▸ h.cycles⟩

theorem State.Between.schedInv (h : s.Between) : s.SchedInv := schedInv_iff.mpr (h.idle ▸ h.events)

theorem State.Between.elapsed (h : s.Between) : Elapsed s.elapsed := by
  have := h.cycles
  unfold Elapsed State.elapsed
  omega

/-- A data access leaves the run loop alone, so only its events are in question. -/
theorem State.Between.of_processor (h : s.Between) (same : t.processor = s.processor) (ht : t.EventsInv false) : t.Between where
  events := ht
  idle := (show t.processor.advancing = s.processor.advancing from congrArg State.advancing same).trans h.idle
  cycles := by
    have hc : t.processor.runCycles = s.processor.runCycles := congrArg State.runCycles same
    change t.runCycles = s.runCycles at hc
    exact hc ▸ h.cycles

theorem Res.Ends.between {α : Type} {r : Res α} (h : s.Between) (keeps : r.KeepsProcessor s)
    (hr : r.Ends (State.EventsInv false)) : r.Ends State.Between := by
  cases r with
  | ok a t => exact h.of_processor keeps hr
  | raise e t => exact h.of_processor keeps hr
  | refuse q => trivial

/-! ### Device registers (R911) -/

section Registers

variable {w : Bool} {el : Int}

theorem aiRequest_events {len : Word} (h : s.EventsInv w) (he : Elapsed el) : (s.aiRequest el len).Ends (State.EventsInv w) := by
  have hd := aiDmaCycles_fits len s.ai.dacrate
  unfold State.aiRequest
  split
  · exact h
  · dsimp only
    split
    · exact aiStart_events h he hd
    · exact { h with audioNext := fun q hq => by cases hq; exact hd }
    · trivial

theorem piRequest_events {d : PiDirection} {len : Nat} (h : s.EventsInv w) (he : Elapsed el) :
    (s.piRequest el d len).Ends (State.EventsInv w) := by
  unfold State.piRequest
  dsimp only
  split
  · exact piStart_events h he
  · exact { h with }
  · trivial

theorem siRequest_events {d : SiDirection} (h : s.EventsInv w) (he : Elapsed el) :
    (s.siRequest el d).Ends (State.EventsInv w) := by
  unfold State.siRequest
  dsimp only
  split
  · exact siStart_events h he
  · exact { h with }
  · trivial

/-- Of the register writes only those that request a transfer reach the event list. -/
theorem slotWrite_events {d : Device} {i : Nat} {v : Word} (h : s.EventsInv w) (he : Elapsed el) :
    (s.slotWrite el d i v).Ends (State.EventsInv w) := by
  cases d with
  | mi =>
    show State.EventsInv w (State.miWrite i v _)
    unfold State.miWrite State.miModeWrite
    dsimp only
    split
    · split <;> exact { h with }
    · exact { h with }
    · exact { h with }
  | vi =>
    show State.EventsInv w (State.viWrite i v _)
    unfold State.viWrite
    split <;> exact { h with }
  | ai =>
    show Res.Ends _ (State.aiWrite el i v _)
    unfold State.aiWrite
    split
    case h_2 => exact aiRequest_events { h with } he
    all_goals exact { h with }
  | pi =>
    show Res.Ends _ (State.piWrite el i v _)
    unfold State.piWrite
    split
    case h_3 | h_4 => exact piRequest_events { h with } he
    case h_5 => split <;> exact { h with }
    all_goals exact { h with }
  | ri => exact { h with }
  | si =>
    show Res.Ends _ (State.siWrite el i v _)
    unfold State.siWrite
    split
    case h_2 | h_3 => exact siRequest_events { h with } he
    all_goals exact { h with }

end Registers

theorem readReg_between {el : Int} {d : Device} {pa : Word} (h : s.Between) : (s.readReg el d pa).Ends State.Between := by
  unfold State.readReg
  split
  · exact h
  · trivial

theorem writeReg_between {d : Device} {pa v : Word} (h : s.Between) : (s.writeReg s.elapsed d pa v).Ends State.Between := by
  unfold State.writeReg
  split
  · exact .between h (slotWrite_processor _ _ _ _ _) (slotWrite_events h.events h.elapsed)
  · trivial

theorem collabCall_between {c : CollabCall} (h : s.Between) : (s.collabCall s.elapsed c).2.Between :=
  h.of_processor (collabCall_processor _ _ _) (collabCall_events h.events h.elapsed)

/-! ### The bus (R230) -/

theorem cartReadBytes_between {pa : Word} {n : Nat} (h : s.Between) : (s.cartReadBytes pa n).2.Between := by
  induction n generalizing pa s with
  | zero => exact h
  | succ n ih => exact ih (collabCall_between h)

theorem cartWriteBytes_between {pa : Word} {bs : List (Option Byte)} (h : s.Between) : (s.cartWriteBytes pa bs).Between := by
  induction bs generalizing pa s with
  | nil => exact h
  | cons b bs ih =>
    cases b with
    | none => exact ih h
    | some b => exact ih (collabCall_between h)

theorem windowRead_between {r : Region} {pa : Word} (h : s.Between) : (s.windowRead r pa).Ends State.Between := by
  unfold State.windowRead
  split
  · exact readReg_between h
  · exact collabCall_between h
  · exact h

theorem windowWrite_between {r : Region} {pa v : Word} (h : s.Between) : (s.windowWrite r pa v).Ends State.Between := by
  unfold State.windowWrite
  split
  · exact writeReg_between h
  · exact collabCall_between h
  · exact h

theorem windowReadBytes_between {r : Region} {pa : Word} {n : Nat} (h : s.Between) : (s.windowReadBytes r pa n).Ends State.Between := by
  unfold State.windowReadBytes
  split
  · exact (windowRead_between h).bind fun _ _ h => (windowRead_between h).bind fun _ _ h => h
  · exact (windowRead_between h).bind fun _ _ h => h

theorem physRead_between {pa : Word} {n : Nat} (h : s.Between) : (physRead pa n s).Ends State.Between := by
  unfold physRead
  split
  case h_5 => exact cartReadBytes_between h
  case h_6 => exact windowReadBytes_between h
  all_goals exact h

theorem physWrite_between {whole : Bool} {pa : Word} {bs : List (Option Byte)} (h : s.Between) :
    (physWrite whole pa bs s).Ends State.Between := by
  unfold physWrite
  split
  case h_1 | h_2 => exact h.congr rfl
  case h_3 | h_4 => exact h
  case h_5 => exact cartWriteBytes_between h
  case h_6 =>
    split
    · exact windowWrite_between h
    · trivial

theorem lineRead_between {pa : Word} {n : Nat} (h : s.Between) : (lineRead pa n s).Ends State.Between := by
  unfold lineRead
  split
  case h_5 => exact cartReadBytes_between h
  case h_6 => trivial
  all_goals exact h

theorem lineWrite_between {pa : Word} {bs : List Byte} (h : s.Between) : (lineWrite pa bs s).Ends State.Between := by
  unfold lineWrite
  split
  case h_1 | h_2 => exact h.congr rfl
  case h_3 | h_4 => exact h
  case h_5 => exact cartWriteBytes_between h
  case h_6 => trivial

/-! ### The caches (R240 to R250, R585) -/

theorem writeBackIf_between {also : Bool} {pa : Word} (h : s.Between) : (writeBackIf also pa s).Ends State.Between := by
  unfold writeBackIf
  split
  · exact (lineWrite_between h).bind fun _ _ h => h.congr rfl
  · exact h

theorem iFill_between {pa : Word} (h : s.Between) : (iFill pa s).Ends State.Between :=
  (lineRead_between h).bind fun _ _ h => h.congr rfl

theorem cachedFetch_between {pa : Word} (h : s.Between) : (cachedFetch pa s).Ends State.Between := by
  refine Res.Ends.bind ?_ fun _ _ h => h
  unfold iEnsure
  split
  · trivial
  · split
    · exact h.congr rfl
    · exact iFill_between h

theorem dEnsure_between {pa : Word} (h : s.Between) : (dEnsure pa s).Ends State.Between := by
  have filled : (dFill pa s).Ends State.Between :=
    (writeBackIf_between h).bind fun _ _ h => (lineRead_between h).bind fun _ _ h => h.congr rfl
  unfold dEnsure
  split
  · trivial
  · split
    · exact h.congr rfl
    · exact filled.bind fun _ _ h => h.congr rfl

/-- Every operation of CACHE: a write-back or a fill, or nothing that reaches the bus. -/
theorem cacheOp_between {op : BitVec 5} {pa : Word} (h : s.Between) : (cacheOp op pa s).Ends State.Between := by
  have thenLine {also : Bool} {k : State → State} (hk : ∀ u, (k u).timing = u.timing) :
      ((writeBackIf also pa s).bind fun _ u => .ok () (k u)).Ends State.Between :=
    (writeBackIf_between h).bind fun _ _ h => h.congr (hk _)
  unfold cacheOp
  split
  case h_1 | h_3 | h_4 | h_5 | h_6 => exact h.congr rfl
  case h_2 | h_7 => exact thenLine fun _ => rfl
  case h_8 =>
    refine h.congr ?_
    unfold iHitInvalidate
    split <;> rfl
  case h_9 =>
    refine h.congr ?_
    unfold dHitInvalidate
    split <;> rfl
  case h_10 => exact iFill_between h
  case h_11 =>
    unfold dHitWriteBackInvalidate
    split
    · exact thenLine fun _ => rfl
    · exact h
  case h_12 =>
    unfold iHitWriteBack
    split
    · exact (lineWrite_between h).bind fun _ _ h => h.congr rfl
    · exact h
  case h_13 =>
    unfold dHitWriteBack
    split
    · exact thenLine fun _ => rfl
    · exact h
  case h_14 => exact h

/-! ### Accesses (R503, R550, R551, R580) -/

theorem loadAt_between {pa : Word} {c : Bool} {n : Nat} (h : s.Between) : (loadAt pa c n s).Ends State.Between := by
  refine (dataChecks_ends h).bind fun _ _ h => ?_
  split
  · exact (dEnsure_between h).bind fun _ _ h => h
  · exact physRead_between (h.congr rfl)

theorem storeAt_between {whole : Bool} {pa : Word} {c : Bool} {bs : List (Option Byte)} (h : s.Between) :
    (storeAt whole pa c bs s).Ends State.Between := by
  refine (dataChecks_ends h).bind fun _ _ h => ?_
  split
  · exact (dEnsure_between h).bind fun _ _ h => h.congr rfl
  · exact physWrite_between (h.congr rfl)

theorem memReadPa_between {a : DWord} {n : Nat} (h : s.Between) : (memReadPa a n s).Ends State.Between :=
  (locate_ends h).bind fun _ _ h => (loadAt_between h).bind fun _ _ h => h

theorem memRead_between {a : DWord} {n : Nat} (h : s.Between) : (memRead a n s).Ends State.Between :=
  (memReadPa_between h).bind fun _ _ h => h

theorem memWrite_between {a : DWord} {n : Nat} {v : DWord} (h : s.Between) : (memWrite a n v s).Ends State.Between :=
  (locate_ends h).bind fun _ _ h => storeAt_between h

theorem memWriteMasked_between {a : DWord} {n : Nat} {v m : DWord} (h : s.Between) : (memWriteMasked a n v m s).Ends State.Between :=
  (locate_ends h).bind fun _ _ h => storeAt_between h

theorem memWriteConditional_between {a : DWord} {n : Nat} {v : DWord} (h : s.Between) :
    (memWriteConditional a n v s).Ends State.Between := by
  refine (locate_ends h).bind fun _ _ h => ?_
  split
  · exact (storeAt_between h).bind fun _ _ h => h
  · exact h

theorem fetchWord_between {pc : DWord} (h : s.Between) : (fetchWord pc s).Ends State.Between := by
  refine (locateFetch_ends h).bind fun _ _ h => ?_
  split
  · exact h
  · refine Res.Ends.bind ?_ fun _ _ h => h
    split
    · exact cachedFetch_between h
    · exact physRead_between (h.congr rfl)

end Sys2Proof.Machine
end

section
/-! SUPPORT. Instructions, steps of the CPU, the run loop and the calls of the host keep the invariant of the event list: the shared ends of
instructions touch none of it, and the rest are accesses (`60_exceptions.md` R900 to R908). -/

namespace Sys2Proof.Machine

variable {s t : State}

/-! ### What instructions are made of -/

theorem takeException_between {e : Exc} (h : s.Between) : (takeException e s).Between := h.congr (by simp [State.timing])

theorem Res.Ends.finish {α : Type} {r : Res α} {k : α → State → Result} (hr : r.Ends State.Between)
    (hk : ∀ a t, t.Between → Result.Ends State.Between (k a t)) : Result.Ends State.Between (r.finish k) := by
  cases r with
  | ok a t => exact hk a t hr
  | raise e t => exact takeException_between hr
  | refuse q => trivial

theorem withCop_between {n : BitVec 2} {k : State → Result} (h : s.Between)
    (hk : ∀ t, t.Between → Result.Ends State.Between (k t)) : Result.Ends State.Between (withCop n k s) :=
  (checkCop_ends h).finish fun _ => hk

theorem with64_between {k : State → Result} (h : s.Between)
    (hk : ∀ t, t.Between → Result.Ends State.Between (k t)) : Result.Ends State.Between (with64 k s) :=
  (require64_ends h).finish fun _ => hk

theorem done_between (h : s.Between) : Result.Ends State.Between s.done := h.congr (by simp [State.timing])

theorem setX_between {r : RegIdx} {v : DWord} (h : s.Between) : (s.setX r v).Between := h.congr (by simp [State.timing])

theorem finishWord_between {rd : RegIdx} {v : Word} (h : s.Between) : Result.Ends State.Between (finishWord rd v s) :=
  done_between (setX_between h)

theorem finishDouble_between {rd : RegIdx} {v : DWord} (h : s.Between) : Result.Ends State.Between (finishDouble rd v s) :=
  done_between (setX_between h)

theorem finishHiLo_between {hi lo : DWord} (h : s.Between) : Result.Ends State.Between (finishHiLo hi lo s) :=
  done_between (h.congr rfl)

theorem finishTrappingWord_between {rd : RegIdx} {i : Int} (h : s.Between) :
    Result.Ends State.Between (finishTrappingWord rd i s) := by
  unfold finishTrappingWord
  split
  · exact takeException_between h
  · exact finishWord_between h

theorem finishTrappingDouble_between {rd : RegIdx} {i : Int} (h : s.Between) :
    Result.Ends State.Between (finishTrappingDouble rd i s) := by
  unfold finishTrappingDouble
  split
  · exact takeException_between h
  · exact finishDouble_between h

theorem trapIf_between {c : Bool} (h : s.Between) : Result.Ends State.Between (trapIf c s) := by
  unfold trapIf
  split
  · exact takeException_between h
  · exact done_between h

theorem advance_between {b : BranchState} {skip : Bool} (h : s.Between) : (s.advance b skip).Between :=
  h.congr (by simp [State.timing])

theorem branch_between {c : Bool} {target : DWord} (h : s.Between) : Result.Ends State.Between (s.branch c target) := by
  unfold State.branch
  split
  · refine advance_between ?_
    split <;> exact h.congr rfl
  · exact advance_between h

theorem branchLikely_between {c : Bool} {target : DWord} (h : s.Between) : Result.Ends State.Between (s.branchLikely c target) := by
  unfold State.branchLikely
  split
  · show State.Between (if c then _ else _)
    split
    · exact advance_between (h.congr rfl)
    · exact advance_between h
  · exact advance_between h

theorem loadWith_between {ext : DWord → DWord} {n : Nat} {rt base : RegIdx} {offset : Half} (h : s.Between) :
    Result.Ends State.Between (loadWith ext n rt base offset s) :=
  (memRead_between h).finish fun _ _ h => finishDouble_between h

theorem storeWith_between {n : Nat} {rt base : RegIdx} {offset : Half} (h : s.Between) :
    Result.Ends State.Between (storeWith n rt base offset s) :=
  (memWrite_between h).finish fun _ _ h => done_between h

theorem loadMerge_between {merge : Nat → DWord → DWord → DWord} {n : Nat} {rt base : RegIdx} {offset : Half} (h : s.Between) :
    Result.Ends State.Between (loadMerge merge n rt base offset s) :=
  ((memRead_between h).withAddress _).finish fun _ _ h => finishDouble_between h

theorem storeMasked_between {place : Nat → DWord → DWord × DWord} {n : Nat} {rt base : RegIdx} {offset : Half} (h : s.Between) :
    Result.Ends State.Between (storeMasked place n rt base offset s) :=
  ((memWriteMasked_between h).withAddress _).finish fun _ _ h => done_between h

theorem loadLinked_between {ext : DWord → DWord} {n : Nat} {rt base : RegIdx} {offset : Half} (h : s.Between) :
    Result.Ends State.Between (loadLinked ext n rt base offset s) :=
  (memReadPa_between h).finish fun _ _ h => finishDouble_between (h.congr rfl)

theorem storeConditional_between {n : Nat} {rt base : RegIdx} {offset : Half} (h : s.Between) :
    Result.Ends State.Between (storeConditional n rt base offset s) :=
  (memWriteConditional_between h).finish fun _ _ h => finishDouble_between h

theorem execCache_between {op : BitVec 5} {base : RegIdx} {offset : Half} (h : s.Between) :
    Result.Ends State.Between (execCache op base offset s) :=
  (checkCop_ends h).finish fun _ _ h => (translate_ends h).finish fun _ _ h => (cacheOp_between h).finish fun _ _ h => done_between h

/-- A write to Count or Compare schedules the next match at the cycles elapsed (R905). -/
theorem writeCop0_between {n : RegIdx} {v : DWord} (h : s.Between) : (writeCop0 n v s).Between := by
  unfold writeCop0
  dsimp only
  split
  · exact { h with events := scheduleCompare_events { h.events with } h.elapsed }
  · exact { h with events := scheduleCompare_events { h.events with } h.elapsed }
  · exact h.congr rfl

theorem setFgr32_between {n : RegIdx} {v : Word} (h : s.Between) : (s.setFgr32 n v).Between := h.congr (by simp [State.timing])

theorem setFgr64_between {n : RegIdx} {v : DWord} (h : s.Between) : (s.setFgr64 n v).Between := h.congr (by simp [State.timing])

theorem fpWrite_between {f : FpFmt} {n : RegIdx} {v : DWord} (h : s.Between) : (s.fpWrite f n v).Between :=
  h.congr (by simp [State.timing])

theorem fpUnimplementedTrap_between (h : s.Between) : (fpUnimplementedTrap s).Between := takeException_between (h.congr rfl)

theorem fpArith_between {o : FpOutcome} {dst : FpFmt} {fd : RegIdx} (h : s.Between) :
    Result.Ends State.Between (fpArith o dst fd s) := by
  unfold fpArith
  split
  · exact fpUnimplementedTrap_between h
  · split
    · exact takeException_between (h.congr rfl)
    · exact done_between (fpWrite_between (h.congr rfl))

theorem fpCompare_between {f : FpFmt} {cond : BitVec 4} {fs ft : RegIdx} (h : s.Between) :
    Result.Ends State.Between (fpCompare f cond fs ft s) := by
  unfold fpCompare
  dsimp only
  split
  · exact takeException_between (h.congr rfl)
  · exact done_between (h.congr rfl)

theorem writeFcr_between {n : RegIdx} {v : Word} (h : s.Between) : Result.Ends State.Between (writeFcr n v s) := by
  unfold writeFcr
  dsimp only
  split
  · split
    · exact takeException_between (h.congr rfl)
    · exact done_between (h.congr rfl)
  · exact done_between h

/-! ### Instructions -/

/-- Every instruction, by the shared operation it ends in. -/
theorem exec_between {i : Instr} (h : s.Between) : Result.Ends State.Between (exec i s) := by
  cases i
  case add | sub | addi => exact finishTrappingWord_between h
  case addu | subu | addiu | lui | sll | srl | sra | sllv | srlv | srav => exact finishWord_between h
  case dadd | dsub | daddi => exact with64_between h fun _ h => finishTrappingDouble_between h
  case daddu | dsubu | daddiu | dsll | dsrl | dsra | dsll32 | dsrl32 | dsra32 | dsllv | dsrlv | dsrav =>
    exact with64_between h fun _ h => finishDouble_between h
  case and | or | xor | nor | andi | ori | xori | slt | sltu | slti | sltiu | mfhi | mflo => exact finishDouble_between h
  case mult | multu | div | divu | mthi | mtlo => exact finishHiLo_between h
  case dmult | dmultu | ddiv | ddivu => exact with64_between h fun _ h => finishHiLo_between h
  case j | jr | beq | bne | blez | bgtz | bltz | bgez => exact branch_between h
  case jal | jalr | bltzal | bgezal => exact branch_between (setX_between h)
  case beql | bnel | blezl | bgtzl | bltzl | bgezl => exact branchLikely_between h
  case bltzall | bgezall => exact branchLikely_between (setX_between h)
  case lb | lbu | lh | lhu | lw => exact loadWith_between h
  case lwu | ld => exact with64_between h fun _ h => loadWith_between h
  case sb | sh | sw => exact storeWith_between h
  case sd => exact with64_between h fun _ h => storeWith_between h
  case lwl | lwr => exact loadMerge_between h
  case ldl | ldr => exact with64_between h fun _ h => loadMerge_between h
  case swl | swr => exact storeMasked_between h
  case sdl | sdr => exact with64_between h fun _ h => storeMasked_between h
  case ll => exact loadLinked_between h
  case lld => exact with64_between h fun _ h => loadLinked_between h
  case sc => exact storeConditional_between h
  case scd => exact with64_between h fun _ h => storeConditional_between h
  case sync => exact done_between h
  case cache => exact execCache_between h
  case syscall | brk => exact takeException_between h
  case tge | tgeu | tlt | tltu | teq | tne | tgei | tgeiu | tlti | tltiu | teqi | tnei => exact trapIf_between h
  case mfc0 | mfc1 | cfc1 => exact withCop_between h fun _ h => finishWord_between h
  case dmfc0 | dmfc1 => exact withCop_between h fun _ h => with64_between h fun _ h => finishDouble_between h
  case mtc0 => exact withCop_between h fun _ h => done_between (writeCop0_between h)
  case dmtc0 => exact withCop_between h fun _ h => with64_between h fun _ h => done_between (writeCop0_between h)
  case tlbr | tlbwi | tlbwr | tlbp => exact withCop_between h fun _ h => done_between (h.congr rfl)
  case eret => exact withCop_between h fun _ h => h.congr (by simp [State.timing])
  case lwc1 => exact withCop_between h fun _ h => (memRead_between h).finish fun _ _ h => done_between (setFgr32_between h)
  case ldc1 => exact withCop_between h fun _ h => (memRead_between h).finish fun _ _ h => done_between (setFgr64_between h)
  case swc1 | sdc1 => exact withCop_between h fun _ h => (memWrite_between h).finish fun _ _ h => done_between h
  case mtc1 => exact withCop_between h fun _ h => done_between (setFgr32_between h)
  case dmtc1 => exact withCop_between h fun _ h => with64_between h fun _ h => done_between (setFgr64_between h)
  case ctc1 => exact withCop_between h fun _ h => writeFcr_between h
  case bc1f | bc1t => exact withCop_between h fun _ h => branch_between h
  case bc1fl | bc1tl => exact withCop_between h fun _ h => branchLikely_between h
  case movS | movD => exact withCop_between h fun _ h => done_between (fpWrite_between h)
  case cop2 | lwc2 | ldc2 | swc2 | sdc2 => exact withCop_between h fun _ h => takeException_between h
  case addS | addD | subS | subD | mulS | mulD | divS | divD | sqrtS | sqrtD | absS | absD | negS | negD | roundLS | roundLD
      | truncLS | truncLD | ceilLS | ceilLD | floorLS | floorLD | roundWS | roundWD | truncWS | truncWD | ceilWS | ceilWD
      | floorWS | floorWD | cvtSD | cvtSW | cvtSL | cvtDS | cvtDW | cvtDL | cvtWS | cvtWD | cvtLS | cvtLD =>
    exact withCop_between h fun _ h => fpArith_between h
  all_goals exact withCop_between h fun _ h => fpCompare_between h

theorem execReserved_between {r : Reject} (h : s.Between) : Result.Ends State.Between (execReserved r s) := by
  cases r with
  | reservedMajor | reservedSpecial | reservedRegimm => exact takeException_between h
  | reservedCop0 | reservedCop1 => exact withCop_between h fun _ h => takeException_between h
  | unimplementedCop1 => exact withCop_between h fun _ h => fpUnimplementedTrap_between h

/-! ### The CPU's step and the run loop -/

theorem executeWord_between {w : Word} (h : s.Between) : Result.Ends State.Between (executeWord w s) := by
  have charged {r : Result} (hr : Result.Ends State.Between r) : Result.Ends State.Between (onNext (State.chargeExtra w) r) := by
    cases r with
    | next t => exact State.Between.congr hr (by simp [State.timing])
    | fault e => trivial
    | refused q => trivial
  refine charged ?_
  split
  · exact exec_between h
  · exact execReserved_between h

theorem stepBody_between (h : s.Between) : Result.Ends State.Between (stepBody s) := by
  unfold stepBody
  split
  · exact takeException_between h
  · exact (fetchWord_between h).finish fun _ _ h => executeWord_between h

/-- A step of the CPU adds its events at the cycles before it, and leaves the sum of cycles it ends with to the bound it is given. -/
theorem cpuStep_between (h : s.Between) (hs : cpuStep s = .next t) (bound : t.runCycles.toNat < 2 ^ 62) : t.Between := by
  obtain ⟨-, u, hu, rfl⟩ := cpuStep_next hs
  have resolved : s.resolveBranch.Between := h.congr (by simp [State.timing])
  have begun : s.atBoundary.Between := resolved.congr rfl
  have ended := (stepBody_between begun).next hu
  exact ⟨{ ended.events with }, ended.idle, bound⟩

theorem runRsp_events {n : Nat} (h : s.EventsInv false) : (runRsp n s).EventsInv false := by
  unfold runRsp
  split
  · exact { collabCall_events h elapsed_zero with }
  · exact h

/-- The end of an iteration brings every event nearer by the cycles of its `run()`. -/
theorem endIteration_schedInv (h : s.Between) : (endIteration s).SchedInv :=
  have advanced := advanceEvents_schedInv (runRsp_events (n := s.runCycles.toNat) h.events) h.elapsed
  { advanced with timely := { advanced.timely with } }

/-! ### Calls of the host -/

/-- The two events of cold reset are in order, of two kinds, and in the future (R1001). -/
theorem reset_events {n : Nat} (h : FitsTime n) :
    (Scheduler.reset n).Wf ∧ ∀ e ∈ (Scheduler.reset n).events, 0 < e.remaining := by
  obtain ⟨low, high⟩ := h
  have halfline : Event.remaining ⟨.viHalfline, BitVec.ofNat 64 n, 1⟩ = n := remaining_ofInt .viHalfline (t := n) 1 (by omega) (by omega)
  have compare : Event.remaining ⟨.compareInterrupt, 0x200000000#64, 0⟩ = 2 ^ 33 := by decide
  unfold Scheduler.reset
  split
  · refine ⟨⟨?_, by simp, by simp⟩, by simp [halfline, compare, low]⟩
    simp only [List.pairwise_pair, Event.before, halfline, compare]
    omega
  · refine ⟨⟨?_, by simp, by simp⟩, by simp [halfline, compare, low]⟩
    simp only [List.pairwise_pair, Event.before, halfline, compare]
    omega

theorem coldReset_schedInv (h : FitsTime s.cfg.cyclesPerHalfline) : (coldReset s).SchedInv where
  sched := (reset_events h).1
  timely :=
    { late := fun e he => by have := (reset_events h).2 e he; omega
      future := fun _ e he => ⟨((reset_events h).2 e he).le, fun _ => (reset_events h).2 e he⟩ }
  halfline := h
  audioCur := nofun
  audioNext := nofun

theorem hostAccess_schedInv {α : Type} {r : Res α} {k : α → State → State} (h : hostAccess r k s = .next t)
    (hr : r.Ends State.Between) (hk : ∀ a u, (k a u).timing = u.timing) : t.SchedInv := by
  cases r with
  | ok a u =>
    cases h
    have accessed : (k a u).SchedInv := (State.Between.congr hr (hk a u)).schedInv
    exact { accessed with timely := { accessed.timely with } }
  | raise e u => cases h
  | refuse q => cases h

theorem hostCall_schedInv {c : HostCall} (h : s.Between) (hs : hostCall c s = .next t) : t.SchedInv := by
  have outside : s.outsideRun.Between := { events := { h.events with }, idle := h.idle, cycles := by simp [State.outsideRun] }
  have quiet (hu : t.timing = s.timing) : t.SchedInv := (h.congr hu).schedInv
  cases c with
  | readVirtual w a => exact hostAccess_schedInv hs (memRead_between outside) fun _ _ => rfl
  | writeVirtual w a v => exact hostAccess_schedInv hs (memWrite_between outside) fun _ _ => rfl
  | readReg pa =>
    refine hostAccess_schedInv hs ?_ fun _ _ => rfl
    unfold hostReadReg
    split
    · exact readReg_between outside
    · trivial
  | writeReg pa v =>
    refine hostAccess_schedInv hs ?_ fun _ _ => rfl
    unfold hostWriteReg
    split
    · exact writeReg_between outside
    · trivial
  | powerOn =>
    cases hs
    unfold powerOn
    split
    · exact coldReset_schedInv h.events.halfline
    · exact h.schedInv
  | softReset =>
    cases hs
    have reset := coldReset_schedInv h.events.halfline
    exact { reset with timely := { reset.timely with } }
  | raiseInterrupt src | clearInterrupt src => cases hs; cases src <;> exact quiet rfl
  | setPad b | setStop b => cases hs; exact quiet rfl
  | loadFirmware image =>
    cases hs
    refine quiet ?_
    unfold loadFirmware
    split <;> rfl

/-- Settles O5: the rest of an advance ends with nothing due or goes on, a call of the host and a step of the CPU add events in the future,
and the end of an iteration brings events nearer by less than 2^62 cycles. -/
theorem stepKeepsSchedInv : Obligations.StepKeepsSchedInv := by
  intro s t h ⟨bound, boundAfter⟩ hs
  have between (idle : s.advancing = false) : s.Between := ⟨idle ▸ schedInv_iff.mp h, idle, bound⟩
  rcases step_cases hs with ⟨advancing, rfl⟩ | ⟨idle, c, rest, -, hc⟩ | ⟨idle, -, -, -, rfl⟩ | ⟨idle, -, -, -, u, hu, rfl⟩
  · exact continueAdvance_schedInv (advancing ▸ schedInv_iff.mp h)
  · have called : State.Between { s with inputs := rest } := (between idle).congr rfl
    exact hostCall_schedInv called hc
  · exact endIteration_schedInv (between idle)
  · have stepped := cpuStep_between (between idle) hu (boundAfter u hu)
    unfold afterStep
    split
    · exact endIteration_schedInv stepped
    · exact stepped.schedInv

end Sys2Proof.Machine
end

section
/-! SUPPORT. Interrupts and trap entry (`60_exceptions.md` R820 to R825, R845): the pending lines bit by bit, and what an exception taken
comes to. -/

namespace Sys2Proof.Machine

variable {s t : State} {e : Exc}

/-! ### The interrupt condition (R845) -/

/-- Some pending line is unmasked: a bit of Cause.IP and the bit of Status.IM beside it. -/
theorem pending_unmasked_iff (s : State) :
    s.ip &&& s.im ≠ 0#8 ↔ ∃ k : Fin 8, bit s.status (8 + k) = true ∧ bit s.causeView (8 + k) = true := by
  have some_bit : ∀ x : BitVec 8, x ≠ 0#8 ↔ ∃ k : Fin 8, bit x k.val = true := by decide
  rw [some_bit]
  refine exists_congr fun k => ?_
  simp only [bit, State.ip, State.im, bitField, BitVec.getLsbD_and, BitVec.getLsbD_extractLsb', k.isLt, decide_true, Bool.true_and,
    Bool.and_eq_true, and_comm]

/-- Settles O11: the eight lines of Cause.IP are the software bits, the aggregator, the external lines and the timer. -/
theorem interruptCondition : Obligations.InterruptCondition := by
  intro s
  obtain ⟨aggregator, external, stored⟩ := causeView_bits s
  have lines : (∃ k : Fin 8, bit s.status (8 + k) = true ∧ bit s.causeView (8 + k) = true) ↔
      (bit s.status 8 = true ∧ bit s.causeView 8 = true) ∨ (bit s.status 9 = true ∧ bit s.causeView 9 = true)
        ∨ (bit s.status 10 = true ∧ bit s.causeView 10 = true)
        ∨ (∃ k : Fin 4, bit s.status (11 + k) = true ∧ bit s.causeView (11 + k) = true)
        ∨ (bit s.status 15 = true ∧ bit s.causeView 15 = true) := by
    simp only [Fin.exists_fin_succ, Fin.exists_fin_zero]
    simp [or_assoc]
  simp only [stored 8 (by omega) (by omega), stored 9 (by omega) (by omega), stored 15 (by omega) (by omega), aggregator, miLine_iff,
    external] at lines
  rw [State.interruptPending, ← lines, ← pending_unmasked_iff]
  simp [and_assoc]

/-! ### Trap entry (R820, R824, R825) -/

theorem ExceptionTaken.exl (h : ExceptionTaken e s t) : t.exl = true := by
  rw [State.exl, State.status, h.status]
  exact bit_setBit_self (by decide) _ _

/-- With EXL = 0 EPC and BD are of the instruction, or of the branch whose delay slot it is in (R824). -/
theorem ExceptionTaken.of_exl_clear (h : ExceptionTaken e s t) (clear : s.exl = false) :
    t.cop0.epc = (if s.branchState.inSlot then s.pc - 4#64 else s.pc) ∧ bit t.cop0.cause 31 = s.branchState.inSlot := by
  have epc := h.epc
  have bd := h.bd
  rw [clear] at epc bd
  exact ⟨epc, bd⟩

/-- With EXL = 1 EPC and BD keep their values, and no exception is a refill (R824, R825). -/
theorem ExceptionTaken.of_exl_set (h : ExceptionTaken e s t) (set : s.exl = true) :
    t.cop0.epc = s.cop0.epc ∧ bit t.cop0.cause 31 = bit s.cop0.cause 31
      ∧ t.pc = if s.bev = true then 0xFFFFFFFFBFC00380#64 else 0xFFFFFFFF80000180#64 := by
  have epc := h.epc
  have bd := h.bd
  have pc := h.pc
  rw [set] at epc bd pc
  refine ⟨epc, bd, pc.trans ?_⟩
  rw [Bool.not_true, Bool.and_false]
  cases s.bev <;> rfl

/-- Settles O16: with the latch clear the exception is taken as R820 says. -/
theorem trapEntry : Obligations.TrapEntry := by
  intro e s
  refine ⟨fun latched => if_pos latched, fun clear => ?_⟩
  have h := takeException_taken e s clear
  refine ⟨h.exl, mode_of_exl h.exl, h.branch, h.pc ▸ vectorOf_mem _ _ _, h.of_exl_set, fun exl slot => ?_, fun exl outside => ?_,
    h.frame.gpr, h.frame.hiLo, h.frame.memory⟩
  · have inSlot : s.branchState.inSlot = true := by rcases slot with hb | hb <;> rw [hb] <;> rfl
    obtain ⟨epc, bd⟩ := h.of_exl_clear exl
    rw [inSlot] at epc bd
    exact ⟨epc, bd⟩
  · obtain ⟨epc, bd⟩ := h.of_exl_clear exl
    rw [outside] at epc bd
    exact ⟨epc, bd⟩

end Sys2Proof.Machine
end

section
/-! SUPPORT. The event list as the rules of the timer and the DMAs use it (`60_exceptions.md` R901, R902, R905, R932, R941 to R967): looking
an event up, an advance that fires nothing or one event, the callbacks, and the writes that request a transfer. -/

namespace Sys2Proof.Machine

variable {s : State} {q : Scheduler} {k : EventKind} {c el step : Int}

/-! ### Looking an event up -/

theorem find_remove {j : EventKind} (h : j ≠ k) : (q.remove k).find j = q.find j := by
  unfold Scheduler.find Scheduler.remove
  rw [List.find?_filter]
  congr 1
  funext e
  by_cases he : e.kind = j
  · simp [he, h]
  · simp [he]

theorem find_add_self (q : Scheduler) (k : EventKind) (c el : Int) : (q.add k c el).find k = some (q.added k c el) :=
  (find_insertEvent (q.added k c el) (q.remove k).events k).1 rfl fun _ hg => (mem_remove.mp hg).2

theorem find_add_other {j : EventKind} (h : j ≠ k) : (q.add k c el).find j = q.find j :=
  ((find_insertEvent (q.added k c el) (q.remove k).events j).2 h.symm).trans (find_remove h)

/-! ### An advance (R901) -/

/-- Where nothing is due nothing fires. -/
theorem fireDue_of_future (n : Nat) (future : ∀ g ∈ s.sched.events, 0 < g.remaining) : State.fireDue n s = s := by
  cases n with
  | zero => rfl
  | succ n =>
    unfold State.fireDue
    split
    case h_1 e rest he => exact if_neg (not_le.mpr (future e (he ▸ .head rest)))
    case h_2 => rfl

/-- An advance is over when nothing is due in the state it has fired to. -/
theorem continueAdvance_of_fireDue {t : State} (ht : State.fireDue s.sched.events.length s = t)
    (future : ∀ g ∈ t.sched.events, 0 < g.remaining) : s.continueAdvance = { t with advancing := false } := by
  have notDue : t.sched.due = false := by
    unfold Scheduler.due
    split
    case h_1 e rest he => simpa using future e (he ▸ .head rest)
    case h_2 => rfl
  unfold State.continueAdvance
  simp only [ht, notDue]

/-- Where the front is due it fires, and where nothing is due after its callback the advance is over. -/
theorem continueAdvance_fires {e : Event} {rest : List Event} {t : State} (he : s.sched.events = e :: rest) (due : e.remaining ≤ 0)
    (ht : State.onFire e.kind { s with sched := { s.sched with events := rest } } = t)
    (future : ∀ g ∈ t.sched.events, 0 < g.remaining) : s.continueAdvance = { t with advancing := false } := by
  refine continueAdvance_of_fireDue ?_ future
  calc State.fireDue s.sched.events.length s
    _ = State.fireDue rest.length t := by
      rw [he, List.length_cons, State.fireDue, he]
      exact (if_pos due).trans (by rw [ht])
    _ = t := fireDue_of_future _ future

/-- An advance that brings the front to its time fires it (R901). -/
theorem advanceEvents_fires {e : Event} {rest : List Event} {t : State} (he : s.sched.events = e :: rest) (pending : 0 ≤ e.remaining)
    (due : e.remaining ≤ step) (bound : step < 2 ^ 63)
    (ht : State.onFire e.kind { s with sched := { s.sched with events := rest }.elapse step } = t)
    (future : ∀ g ∈ t.sched.events, 0 < g.remaining) : s.advanceEvents step = { t with advancing := false } := by
  have hr := nearer_remaining pending (by omega) bound
  refine continueAdvance_fires (e := e.nearer step) (rest := rest.map (Event.nearer step)) ?_ (by omega) ht future
  exact (elapse_events step s.sched).trans (by rw [he]; rfl)

/-- What does not come due stays in the future. -/
theorem elapse_future (low : 0 ≤ step) (later : ∀ g ∈ q.events, step < g.remaining) :
    ∀ g ∈ (q.elapse step).events, 0 < g.remaining := by
  intro g hg
  obtain ⟨e, he, rfl⟩ := List.mem_map.mp hg
  have hl := later e he
  have hb := remaining_lt e
  have hr := nearer_remaining (e := e) (by omega) low (by omega)
  change 0 < (e.nearer step).remaining
  omega

/-- An advance with nothing due only brings every event nearer (R901). -/
theorem advanceEvents_quiet (low : 0 ≤ step) (later : ∀ e ∈ s.sched.events, step < e.remaining) :
    s.advanceEvents step = { s with sched := s.sched.elapse step, advancing := false } := by
  have future := elapse_future low later
  exact continueAdvance_of_fireDue (fireDue_of_future _ future) future

/-! ### The timer and the halfline (R905, R932) -/

theorem compareFire_sched (s : State) :
    s.compareFire.sched = (s.sched.remove .compareInterrupt).add .compareInterrupt (compareDelay s.count s.cop0.compare) 0 := rfl

theorem compareAdded_remaining (q : Scheduler) (count compare : Word) :
    (q.added k (compareDelay count compare) 0).remaining = compareDelay count compare := by
  obtain ⟨low, high⟩ := compareDelay_fits count compare
  exact (remaining_ofInt k _ (by omega) (by omega)).trans (add_zero _)

/-- The next match is in the future, and the other events stay. -/
theorem compareFire_future (future : ∀ g ∈ s.sched.events, 0 < g.remaining) : ∀ g ∈ s.compareFire.sched.events, 0 < g.remaining := by
  intro g hg
  rw [compareFire_sched] at hg
  rcases mem_add.mp hg with rfl | hg
  · rw [compareAdded_remaining]
    have := (compareDelay_fits s.count s.cop0.compare).1
    omega
  · exact future g (mem_remove.mp (mem_remove.mp hg).1).1

theorem compareFire_next (s : State) : (s.compareFire.sched.find .compareInterrupt).map Event.remaining =
    some (2 * (((s.cop0.compare.toNat + 2 ^ 33 - s.count33.toNat / 2 - 1) % 2 ^ 32 : ℕ) : ℤ) + 2) := by
  rw [compareFire_sched, find_add_self, Option.map_some, compareAdded_remaining, compareDelay_eq, toNat_count]
  have := s.count33.isLt
  congr 1
  omega

/-- The halfline's first half (R932): VI_V_CURRENT steps or wraps, and a wrap tells the host that a frame is ready. -/
def State.viStepped (s : State) : State :=
  let wrap : Bool := decide (s.vi.vSync.toNat ≤ s.vi.vCurrent.toNat)
  let t := { s with vi := { s.vi with vCurrent := if wrap then 0#10 else s.vi.vCurrent + 1#10 } }
  if wrap then t.output .frameReady else t

theorem viFire_eq (s : State) : s.viFire =
    (if s.viStepped.vi.vCurrent.setWidth 32 = s.viStepped.vi.vIntr then State.setMi .vi s.viStepped else s.viStepped).addEvent
      .viHalfline s.viStepped.cfg.cyclesPerHalfline 0 := by
  unfold State.viFire
  rw [State.viStepped]
  dsimp only
  split <;> split <;> rfl

theorem viStepped_eq (s : State) : s.viStepped =
    { s with
      vi := { s.vi with vCurrent := if s.vi.vSync.toNat ≤ s.vi.vCurrent.toNat then 0#10 else s.vi.vCurrent + 1#10 }
      outputs := if s.vi.vSync.toNat ≤ s.vi.vCurrent.toNat then .frameReady :: s.outputs else s.outputs } := by
  unfold State.viStepped
  by_cases wraps : s.vi.vSync.toNat ≤ s.vi.vCurrent.toNat
  · simp only [wraps, decide_true, if_true, State.output]
  · simp only [wraps, decide_false, if_false, Bool.false_eq_true]

theorem viFire_vi (s : State) : s.viFire.vi =
    { s.vi with vCurrent := if s.vi.vSync.toNat ≤ s.vi.vCurrent.toNat then 0#10 else s.vi.vCurrent + 1#10 } := by
  have stepped : s.viFire.vi = s.viStepped.vi := by
    rw [viFire_eq]
    split <;> rfl
  rw [stepped, viStepped_eq]

/-- The halfline raises its interrupt where it reaches VI_V_INTR, and touches no other (R932). -/
theorem viFire_mi (s : State) :
    s.viFire.mi = if s.viFire.vi.vCurrent.toNat = s.vi.vIntr.toNat then { s.mi with intr := setBit s.mi.intr 3 true } else s.mi := by
  have stepped : s.viFire.mi = if s.viStepped.vi.vCurrent.setWidth 32 = s.viStepped.vi.vIntr then
      { s.viStepped.mi with intr := setBit s.viStepped.mi.intr 3 true } else s.viStepped.mi := by
    rw [viFire_eq]
    split <;> rfl
  rw [stepped, viFire_vi, viStepped_eq]
  simp only [← BitVec.toNat_inj, BitVec.toNat_setWidth_of_le (show 10 ≤ 32 by decide)]

theorem viFire_sched (s : State) : s.viFire.sched = s.sched.add .viHalfline s.cfg.cyclesPerHalfline 0 := by
  have stepped : s.viFire.sched = s.viStepped.sched.add .viHalfline s.viStepped.cfg.cyclesPerHalfline 0 := by
    rw [viFire_eq]
    split <;> rfl
  rw [stepped, viStepped_eq]

end Sys2Proof.Machine
end

section
/-! SUPPORT. The transfers of AI, PI and SI (`60_exceptions.md` R941, R942, R951, R952, R966, R967): the completion callback as the state
after completion and the start of the buffered request. -/

namespace Sys2Proof.Machine

variable {s : State}

/-- The bytes of the finished transfer are passed on and its interrupt raised, unless the parameters had that done at its start. -/
def State.aiSignalled (s : State) (q : AiRequest) : State :=
  let t := if s.cfg.dmaCopyAt = .completion then s.aiCopy q else s
  if s.cfg.aiIrqAtStart then t else t.setMi .ai

theorem aiSignalled_eq (s : State) (q : AiRequest) : s.aiSignalled q = { s with
    mi := if s.cfg.aiIrqAtStart then s.mi else { s.mi with intr := setBit s.mi.intr 2 true }
    outputs := (if s.cfg.aiIrqAtStart then [] else [.interruptRaised .ai])
      ++ (if s.cfg.dmaCopyAt = .completion then [s.audioOut q] else []) ++ s.outputs } := by
  unfold State.aiSignalled
  rw [aiCopy_eq]
  cases s.cfg.dmaCopyAt <;> cases s.cfg.aiIrqAtStart <;> rfl

theorem aiFire_eq {q : AiRequest} (hq : s.ai.cur = some q) : s.aiFire =
    match s.ai.next with
    | some p => State.aiStart 0 p (s.aiDone q)
    | none => s.aiDone q := by
  have finished : s.aiFire = match (s.aiSignalled q).ai.next with
      | some p => State.aiStart 0 p { s.aiSignalled q with ai := { (s.aiSignalled q).ai with cur := none, next := none } }
      | none => { s.aiSignalled q with ai := { (s.aiSignalled q).ai with cur := none } } := by
    unfold State.aiFire State.aiSignalled
    rw [hq]
    cases s.cfg.dmaCopyAt <;> rfl
  rw [finished, aiSignalled_eq]
  dsimp only
  cases hn : s.ai.next with
  | none => simp only [State.aiDone]
  | some p => rfl

theorem piFire_eq {q : PiRequest} (hq : s.pi.cur = some q) : s.piFire =
    match s.pi.next with
    | some p => State.piStart 0 p (s.piDone q)
    | none => s.piDone q := by
  have kept := (piCopied_cfg 0 q s).2
  unfold State.piFire State.piDone
  simp only [hq, piCopy_eq_piCopied]
  cases hc : s.cfg.dmaCopyAt with
  | start =>
    simp only [hq, State.setMi]
    cases hn : s.pi.next <;> rfl
  | completion =>
    simp only [kept, hq, State.setMi]
    cases hn : s.pi.next <;> rfl

/-- The state a finished serial transfer leaves once its bytes are copied (R967). -/
def State.siMoved (s : State) (q : SiRequest) : State := if s.cfg.dmaCopyAt = .completion then s.siCopy q else s

theorem siMoved_copied (s : State) (q : SiRequest) : SiCopiedIf (s.cfg.dmaCopyAt = .completion) q s (s.siMoved q) := by
  refine ⟨fun now => ?_, fun later => if_neg later⟩
  rw [State.siMoved, if_pos now]
  exact siCopy_copied q s

theorem siMoved_si (s : State) (q : SiRequest) : (s.siMoved q).si = s.si := by
  have copied : (s.siCopy q).si = s.si := by rw [(siCopy_copied q s).frame]
  unfold State.siMoved
  split
  · exact copied
  · rfl

theorem siFire_eq {q : SiRequest} (hq : s.si.cur = some q) : s.siFire =
    match s.si.next with
    | some p => State.siStart 0 p (s.siMoved q).siDone
    | none => (s.siMoved q).siDone := by
  have kept := siMoved_si s q
  have finished : s.siFire = match (s.siMoved q).si.next with
      | some p => State.siStart 0 p (s.siMoved q).siDone
      | none => State.setMi .si { s.siMoved q with si := { (s.siMoved q).si with cur := none } } := by
    unfold State.siFire State.siMoved
    rw [hq]
    cases s.cfg.dmaCopyAt <;> rfl
  rw [finished, kept]
  cases hn : s.si.next with
  | none => simp only [State.siDone, State.setMi, MiSource.index, kept, hn]
  | some p => rfl

end Sys2Proof.Machine
end

section
/-! SUPPORT. The requests of transfers (`60_exceptions.md` R941, R951, R966), and the statement on the scheduler, the timer and the DMAs. -/

namespace Sys2Proof.Machine

variable {s : State} {el : Int}

/-! ### Adding an event and the passing of time (R900, R901) -/

theorem find_add_remaining (q : Scheduler) (k : EventKind) {c : Int} (low : 0 ≤ c + el) (high : c + el < 2 ^ 63) :
    ((q.add k c el).find k).map Event.remaining = some (c + el) := by
  rw [find_add_self]
  exact congrArg some (remaining_ofInt k q.nextSeq (by omega) high)

theorem elapse_times {step : Int} {q : Scheduler} (low : 0 ≤ step) (high : step < 2 ^ 63)
    (pending : ∀ e ∈ q.events, 0 ≤ e.remaining) :
    (q.elapse step).events.map (fun e => (e.kind, e.remaining, e.seq)) = q.events.map fun e => (e.kind, e.remaining - step, e.seq) := by
  rw [elapse_events, List.map_map]
  refine List.map_congr_left fun e he => ?_
  change (e.kind, (e.nearer step).remaining, e.seq) = _
  rw [nearer_remaining (pending e he) low high]

/-- An advance is over exactly when nothing is due (R902). -/
theorem continueAdvance_advancing (s : State) :
    s.continueAdvance.advancing = true ↔ ∃ e rest, s.continueAdvance.sched.events = e :: rest ∧ e.remaining ≤ 0 := by
  change (State.fireDue s.sched.events.length s).sched.due = true ↔
    ∃ e rest, (State.fireDue s.sched.events.length s).sched.events = e :: rest ∧ e.remaining ≤ 0
  unfold Scheduler.due
  split
  case h_1 e rest he => simp [he]
  case h_2 he => simp [he]

/-! ### Requests -/

theorem aiRequest_ignored {len : Word} (h : len = 0#32 ∨ s.ai.enable = false) : s.aiRequest el len = .ok () s := if_pos h

/-- An audio request starts, is buffered, or is refused (R941). -/
theorem aiRequest_cases {len : Word} (nonzero : len ≠ 0#32) (enabled : s.ai.enable = true) :
    let q : AiRequest := ⟨s.ai.addr, len, aiDmaCycles len s.ai.dacrate⟩
    (s.ai.cur = none → s.aiRequest el len = .ok () (s.aiStart el q))
      ∧ (s.ai.cur ≠ none → s.ai.next = none → s.aiRequest el len = .ok () { s with ai := { s.ai with next := some q } })
      ∧ (s.ai.cur ≠ none → s.ai.next ≠ none → s.aiRequest el len = .refuse .requestBufferFull) := by
  have heard : ¬(len = 0#32 ∨ s.ai.enable = false) := by simp [nonzero, enabled]
  unfold State.aiRequest
  rw [if_neg heard]
  cases s.ai.cur <;> cases s.ai.next <;> simp

/-- A request of PI starts, is buffered, or is refused (R951). -/
theorem piRequest_cases (s : State) (dir : PiDirection) (len : Nat) :
    let q : PiRequest := ⟨dir, s.pi.dram, s.pi.cart, len⟩
    (s.pi.cur = none → s.piRequest el dir len = .ok () (s.piStart el q))
      ∧ (s.pi.cur ≠ none → s.pi.next = none → s.piRequest el dir len = .ok () { s with pi := { s.pi with next := some q } })
      ∧ (s.pi.cur ≠ none → s.pi.next ≠ none → s.piRequest el dir len = .refuse .requestBufferFull) := by
  unfold State.piRequest
  cases s.pi.cur <;> cases s.pi.next <;> simp

/-- A request of SI starts, is buffered, or is refused (R966). -/
theorem siRequest_cases (s : State) (dir : SiDirection) :
    let q : SiRequest := ⟨dir, s.si.dram⟩
    (s.si.cur = none → s.siRequest el dir = .ok () (s.siStart el q))
      ∧ (s.si.cur ≠ none → s.si.next = none → s.siRequest el dir = .ok () { s with si := { s.si with next := some q } })
      ∧ (s.si.cur ≠ none → s.si.next ≠ none → s.siRequest el dir = .refuse .requestBufferFull) := by
  unfold State.siRequest
  cases s.si.cur <;> cases s.si.next <;> simp

/-- The length a write of PI_RD_LEN or PI_WR_LEN asks for. -/
theorem piLength (v : Word) : (v &&& 0x00FFFFFF#32).toNat + 1 = v.toNat % 2 ^ 24 + 1 := by
  rw [BitVec.toNat_and, show (0x00FFFFFF#32).toNat = 2 ^ 24 - 1 from rfl, Nat.and_two_pow_sub_one_eq_mod]

theorem slotWrite_pi_length (v : Word) (s : State) {p : Nat × PiDirection} (hp : p ∈ [(2, PiDirection.toCart), (3, .toRdram)]) :
    s.slotWrite el .pi p.1 v =
      State.piRequest el p.2 (v.toNat % 2 ^ 24 + 1) { s with pi := { s.pi with raw := s.pi.raw.setIfInBounds p.1 v } } := by
  rw [← piLength]
  fin_cases hp <;> rfl

theorem slotWrite_si_address (v : Word) (s : State) {p : Nat × SiDirection} (hp : p ∈ [(1, SiDirection.pifToRdram), (4, .rdramToPif)]) :
    s.slotWrite el .si p.1 v = State.siRequest el p.2 { s with si := { s.si with raw := s.si.raw.setIfInBounds p.1 v } } := by
  fin_cases hp <;> rfl

/-! ### The statement -/

/-- Settles O59: the events' times through the rules of `Scheduler.add` and `Scheduler.elapse`, the callbacks by their equations, the
transfers by the starts and the completions of the DMA laws. -/
theorem timerAndScheduler : Obligations.TimerAndScheduler := by
  unfold Obligations.TimerAndScheduler
  refine ⟨?add, ?elapse, ?quiet, ?compare, ?finished, ?timer, ?halfline, ?front, ?bytes,
    ?aiWrite, ?aiFire, ?piWrite, ?piFire, ?siWrite, ?siFire⟩
  case add =>
    intro q k c el wf low high
    exact ⟨wf.add k c el, find_add_remaining q k low high, fun j hj => find_add_other hj⟩
  case elapse => exact fun step q low high pending => ⟨rfl, elapse_times low high pending⟩
  case quiet => exact fun step s low later => advanceEvents_quiet low later
  case compare =>
    intro step e rest s he kind pending due bound later
    refine advanceEvents_fires he pending due bound (by rw [kind]; rfl) (compareFire_future ?_)
    exact elapse_future (q := { s.sched with events := rest }) (by omega) later
  case finished =>
    intro s
    exact ⟨continueAdvance_advancing s, fun h => if_pos h⟩
  case timer => exact fun s => ⟨rfl, compareFire_next s⟩
  case halfline =>
    intro s
    refine ⟨?_, fun h => ?_, fun h => ?_, fun k hk => ?_, ?_⟩
    · rw [viFire_vi]
      split
      · rfl
      · exact BitVec.toNat_add ..
    · rw [viFire_mi, if_pos h]
      exact bit_setBit_self (by decide) _ _
    · rw [viFire_mi, if_neg h]
    · rw [viFire_mi]
      split
      · simp only [bit, getLsbD_setBit]
        exact if_neg (by omega)
      · rfl
    · rw [viFire_sched, find_add_self]
      simp [Scheduler.added]
  case front => exact fun step e rest s he pending due bound => advanceEvents_fires he pending due bound rfl
  case bytes =>
    refine fun a b s => ⟨rfl, fun wf x => ?_⟩
    unfold State.dmaWrite
    split
    case isTrue inside => simp [Memory.read_write wf, inside]
    case isFalse outside => simp [outside]
  case aiWrite =>
    intro v el s len r q
    refine ⟨aiRequest_ignored (s := r), fun nonzero enabled => ?_⟩
    obtain ⟨starts, buffers, refuses⟩ := aiRequest_cases (s := r) (el := el) nonzero enabled
    exact ⟨fun h => ⟨_, starts h, aiStart_started el q r⟩, buffers, refuses⟩
  case aiFire =>
    intro q s hq
    refine ⟨fun hn => ?_, fun p hn => ?_⟩
    · exact (aiFire_eq hq).trans (by rw [hn])
    · rw [show s.onFire .aiDma = State.aiStart 0 p (s.aiDone q) from (aiFire_eq hq).trans (by rw [hn])]
      exact aiStart_started 0 p _
  case piWrite =>
    intro v el s p hp r q
    rw [slotWrite_pi_length v s hp]
    obtain ⟨starts, buffers, refuses⟩ := piRequest_cases (el := el) r p.2 (v.toNat % 2 ^ 24 + 1)
    exact ⟨fun h => ⟨_, starts h, piStart_started el q r⟩, buffers, refuses⟩
  case piFire =>
    intro q s hq
    refine ⟨fun hn => ?_, fun p hn => ?_⟩
    · exact (piFire_eq hq).trans (by rw [hn])
    · rw [show s.onFire .piDma = State.piStart 0 p (s.piDone q) from (piFire_eq hq).trans (by rw [hn])]
      exact piStart_started 0 p _
  case siWrite =>
    intro v el s p hp r q
    rw [slotWrite_si_address v s hp]
    obtain ⟨starts, buffers, refuses⟩ := siRequest_cases (el := el) r p.2
    exact ⟨fun h => ⟨_, starts h, siStart_started el q r⟩, buffers, refuses⟩
  case siFire =>
    intro q s hq
    refine ⟨s.siMoved q, siMoved_copied s q, fun hn => ?_, fun p hn => ?_⟩
    · exact (siFire_eq hq).trans (by rw [hn])
    · rw [show s.onFire .siDma = State.siStart 0 p (s.siMoved q).siDone from (siFire_eq hq).trans (by rw [hn])]
      exact siStart_started 0 p _

end Sys2Proof.Machine
end

section
/-! SUPPORT. Uncached accesses of words, up to their instruction's end (`43_loadstore.md` R550, `20_memory.md` R230, R233, R246): what a
register's write, a collaborator or the cartridge leaves of the state that completing reads, and where each instruction's access goes. -/

namespace Sys2Proof.Machine

variable {s u : State} {el : Int}

/-! ### What completing reads -/

/-- The general registers and what completing an instruction reads are as they were. -/
structure SameControl (s u : State) : Prop where
  gpr : u.gpr = s.gpr
  latch : u.excLatch = s.excLatch
  cycles : u.stepCycles = s.stepCycles
  target : u.branchTarget = s.branchTarget
  branch : u.branchState = s.branchState
  pc : u.pc = s.pc

theorem SameControl.of_collab (h : CollabChanged s u) : SameControl s u := by
  obtain ⟨_, _, _, _, _, rfl⟩ := h
  exact ⟨rfl, rfl, rfl, rfl, rfl, rfl⟩

/-- What completes after an access that cost `c` cycles, completes with those cycles. -/
theorem SameControl.charged (h : SameControl s u) {c : Nat} {t : State} (ends : Completed 0 (u.addCycles c) t) : Completed c s t := by
  have charged : Completed c u t := ⟨ends.latch, ends.cycles, ends.target, ends.outside, ends.takenSlot, ends.notTakenSlot⟩
  exact charged.of_eq h.latch h.cycles h.target h.branch h.pc

/-- An instruction completes after its access, which cost `c` cycles. -/
theorem done_charged (h : SameControl s u) (c : Nat) : ∃ t, (u.addCycles c).done = .next t ∧
    t = { u with pc := t.pc, branchState := t.branchState, stepCycles := t.stepCycles } ∧ Completed c s t := by
  refine ⟨_, rfl, ?_, h.charged (retire_completed _)⟩
  unfold State.retire State.advance
  split <;> rfl

/-- An instruction writes a general register and completes after its access, which cost `c` cycles. -/
theorem finishDouble_charged (h : SameControl s u) (rd : RegIdx) (v : DWord) (c : Nat) :
    ∃ t, finishDouble rd v (u.addCycles c) = .next t ∧
      t = { u with gpr := t.gpr, pc := t.pc, branchState := t.branchState, stepCycles := t.stepCycles }
      ∧ GprSet rd v s t ∧ Completed c s t := by
  have wrote := setX_retire_wroteGpr rd v (u.addCycles c)
  refine ⟨_, rfl, ?_, fun r => ?_, h.charged wrote.rest.completed⟩
  · unfold State.retire State.advance State.setX
    split <;> split <;> rfl
  · rw [wrote.gpr r, State.x, State.x, addCycles_gpr, h.gpr]

/-! ### Register writes (R911) -/

theorem piCopied_changed (el : Int) (q : PiRequest) (s : State) : CollabChanged s (s.piCopied el q) := by
  have byte (s : State) (i : Nat) : CollabChanged s (s.piCopiedByte el q i) := by
    unfold State.piCopiedByte
    split
    · exact (collabCall_changed el _ s).trans (applyAction_changed el _ (.writeRdram _ _))
    · exact collabCall_changed el _ s
  unfold State.piCopied
  generalize List.range q.len = is
  induction is generalizing s with
  | nil => exact ⟨s.mem, s.mi, s.sched, s.outputs, s.collabState, rfl⟩
  | cons i is ih => exact (byte s i).trans (ih _)

theorem aiStart_control (el : Int) (q : AiRequest) (s : State) : SameControl s (s.aiStart el q) := by
  rw [(aiStart_started el q s).frame]
  exact ⟨rfl, rfl, rfl, rfl, rfl, rfl⟩

theorem piStart_control (el : Int) (q : PiRequest) (s : State) : SameControl s (s.piStart el q) := by
  have copied : SameControl s (if s.cfg.dmaCopyAt = .start then s.piCopied el q else s) := by
    split
    · exact .of_collab (piCopied_changed el q s)
    · exact ⟨rfl, rfl, rfl, rfl, rfl, rfl⟩
  rw [(piStart_started el q s).frame]
  exact ⟨copied.gpr, copied.latch, copied.cycles, copied.target, copied.branch, copied.pc⟩

theorem siStart_control (el : Int) (q : SiRequest) (s : State) : SameControl s (s.siStart el q) := by
  obtain ⟨u, ⟨now, later⟩, frame⟩ := (siStart_started el q s).copied
  have copied : SameControl s u := by
    by_cases h : s.cfg.dmaCopyAt = .start
    · rw [(now h).frame]
      exact ⟨rfl, rfl, rfl, rfl, rfl, rfl⟩
    · rw [later h]
      exact ⟨rfl, rfl, rfl, rfl, rfl, rfl⟩
  rw [frame]
  exact ⟨copied.gpr, copied.latch, copied.cycles, copied.target, copied.branch, copied.pc⟩

theorem aiWrite_control (i : Nat) (v : Word) : (s.aiWrite el i v).Ends (SameControl s) := by
  unfold State.aiWrite State.aiRequest
  split
  case h_2 =>
    split
    · exact ⟨rfl, rfl, rfl, rfl, rfl, rfl⟩
    · dsimp only
      split
      · exact aiStart_control _ _ _
      · exact ⟨rfl, rfl, rfl, rfl, rfl, rfl⟩
      · trivial
  all_goals exact ⟨rfl, rfl, rfl, rfl, rfl, rfl⟩

theorem piRequest_control (dir : PiDirection) (len : Nat) : (s.piRequest el dir len).Ends (SameControl s) := by
  unfold State.piRequest
  dsimp only
  split
  · exact piStart_control _ _ _
  · exact ⟨rfl, rfl, rfl, rfl, rfl, rfl⟩
  · trivial

theorem piWrite_control (i : Nat) (v : Word) : (s.piWrite el i v).Ends (SameControl s) := by
  unfold State.piWrite
  split
  case h_3 | h_4 => exact piRequest_control _ _
  case h_5 => split <;> exact ⟨rfl, rfl, rfl, rfl, rfl, rfl⟩
  all_goals exact ⟨rfl, rfl, rfl, rfl, rfl, rfl⟩

theorem siWrite_control (i : Nat) (v : Word) : (s.siWrite el i v).Ends (SameControl s) := by
  unfold State.siWrite State.siRequest
  split
  case h_2 | h_3 =>
    dsimp only
    split
    · exact siStart_control _ _ _
    · exact ⟨rfl, rfl, rfl, rfl, rfl, rfl⟩
    · trivial
  all_goals exact ⟨rfl, rfl, rfl, rfl, rfl, rfl⟩

theorem Res.Ends.mono {α : Type} {P Q : State → Prop} {r : Res α} (h : r.Ends P) (hPQ : ∀ t, P t → Q t) : r.Ends Q := by
  cases r with
  | ok a t => exact hPQ t h
  | raise e t => exact hPQ t h
  | refuse q => trivial

theorem slotWrite_control (d : Device) (i : Nat) (v : Word) : (s.slotWrite el d i v).Ends (SameControl s) := by
  cases d with
  | mi =>
    change SameControl s (State.miWrite i v _)
    unfold State.miWrite State.miModeWrite
    split
    · dsimp only
      split <;> exact ⟨rfl, rfl, rfl, rfl, rfl, rfl⟩
    · exact ⟨rfl, rfl, rfl, rfl, rfl, rfl⟩
    · exact ⟨rfl, rfl, rfl, rfl, rfl, rfl⟩
  | vi =>
    change SameControl s (State.viWrite i v _)
    unfold State.viWrite
    split <;> exact ⟨rfl, rfl, rfl, rfl, rfl, rfl⟩
  | ri => exact ⟨rfl, rfl, rfl, rfl, rfl, rfl⟩
  | ai => exact (aiWrite_control i v).mono fun _ h => ⟨h.gpr, h.latch, h.cycles, h.target, h.branch, h.pc⟩
  | pi => exact (piWrite_control i v).mono fun _ h => ⟨h.gpr, h.latch, h.cycles, h.target, h.branch, h.pc⟩
  | si => exact (siWrite_control i v).mono fun _ h => ⟨h.gpr, h.latch, h.cycles, h.target, h.branch, h.pc⟩

theorem slotWrite_ok_control {d : Device} {i : Nat} {v : Word} (h : s.slotWrite el d i v = .ok () u) : SameControl s u := by
  have ends := slotWrite_control (s := s) (el := el) d i v
  rw [h] at ends
  exact ends

/-! ### Words as bytes (R201) -/

/-- The low word of a value, from its bytes. -/
theorem append_bytes {n : Nat} (h : 32 ≤ n) (v : BitVec n) :
    bitField v 24 8 ++ bitField v 16 8 ++ bitField v 8 8 ++ bitField v 0 8 = v.setWidth 32 := by
  rw [BitVec.setWidth_eq_extractLsb' h]
  unfold bitField
  rw [BitVec.extractLsb'_append_extractLsb'_eq_extractLsb' (show 24 = 16 + 8 from rfl),
    BitVec.extractLsb'_append_extractLsb'_eq_extractLsb' (show 16 = 8 + 8 from rfl),
    BitVec.extractLsb'_append_extractLsb'_eq_extractLsb' (show 8 = 0 + 8 from rfl)]

theorem bytesOf_word (w : Word) : bytesOf (zext32 w) 4 = (List.range 4).map fun k => bitField w (8 * (3 - k)) 8 := by
  apply List.ext_getElem?
  intro k
  by_cases hk : k < 4
  · rw [getElem_bytesOf_word w k hk, List.getElem?_map, List.getElem?_range hk, Option.map_some]
  · rw [List.getElem?_eq_none (by rw [length_bytesOf]; omega), List.getElem?_eq_none (by simp; omega)]

theorem low32_ofBytes_word (w : Word) : low32 (ofBytes (bytesOf (zext32 w) 4)) = w := by
  rw [bytesOf_word, low32_ofBytes_four]
  exact (append_bytes le_rfl w).trans (BitVec.setWidth_eq w)

theorem wholeBytes_word (v : DWord) :
    wholeBytes 4 v = [some (bitField v 24 8), some (bitField v 16 8), some (bitField v 8 8), some (bitField v 0 8)] := by
  simp only [wholeBytes, bytesOf, BitVec.setWidth_ushiftRight_eq_extractLsb, List.map_cons, List.map_nil]

theorem wholeWord_wholeBytes (v : DWord) : wholeWord true (wholeBytes 4 v) = some (low32 v) := by
  rw [wholeBytes_word]
  exact congrArg some (append_bytes (by decide) v)

/-! ### Where an uncached access goes (R550, R246) -/

section
variable {n : Nat} {rt base : RegIdx} {offset : Half} {ea v : DWord} {pa : Word}
variable (allowed : s.accessible) (aligned : ea.toNat % n = 0)
include allowed aligned

theorem memRead_uncached (placed : translate ea .load s = .ok (pa, false) s) (unwatched : s.watchHits .load pa = false)
    (noError : busError s.cfg pa .load = false) :
    memRead ea n s = (physRead pa n (s.addCycles (s.uncachedCost pa n))).bind fun bs u => .ok (ofBytes bs) u := by
  unfold memRead memReadPa loadAt
  rw [locate_ok allowed aligned placed, bind_ok, dataChecks_ok unwatched noError]
  simp only [bind_ok, Bool.false_eq_true, if_false, uncachedLoad]
  cases physRead pa n (s.addCycles (s.uncachedCost pa n)) <;> rfl

section
variable (placed : translate ea .store s = .ok (pa, false) s) (unwatched : s.watchHits .store pa = false)
  (noError : busError s.cfg pa .store = false)
include placed unwatched noError

theorem memWrite_uncached (v : DWord) : memWrite ea n v s = physWrite true pa (wholeBytes n v) (s.addCycles (s.uncachedCost pa n)) := by
  have length : (wholeBytes n v).length = n := by rw [wholeBytes, List.length_map, length_bytesOf]
  unfold memWrite storeAt
  rw [locate_ok allowed aligned placed, bind_ok, dataChecks_ok unwatched noError]
  simp only [bind_ok, Bool.false_eq_true, if_false, uncachedStore, length]

theorem memWriteConditional_uncached (linked : s.llBit = true) (v : DWord) : memWriteConditional ea n v s =
    (physWrite true pa (wholeBytes n v) (s.addCycles (s.uncachedCost pa n))).bind fun _ u => .ok true u := by
  have stored := memWrite_uncached allowed aligned placed unwatched noError v
  rw [memWrite, locate_ok allowed aligned placed, bind_ok] at stored
  rw [memWriteConditional, locate_ok allowed aligned placed, bind_ok, if_pos linked, stored]

end
end

/-! ### What it reaches -/

theorem physRead_window {pa : Word} (window : (s.region pa).isWindow = true) (aligned : pa.toNat % 4 = 0) :
    physRead pa 4 s = (s.windowRead (s.region pa) pa).bind fun w u => .ok (bytesOf (zext32 w) 4) u := by
  have unchanged : pa &&& 0xFFFFFFFC#32 = pa :=
    BitVec.eq_of_toNat_eq ((toNat_and_align 2 (.inl rfl)).trans (by omega))
  have whole (w : Word) : selectBytes w pa 4 = bytesOf (zext32 w) 4 := by
    rw [selectBytes, aligned, List.drop_zero, List.take_of_length_le (length_bytesOf _ _).le]
  have composed (r : Region) : s.windowReadBytes r pa 4 = (s.windowRead r pa).bind fun w u => .ok (bytesOf (zext32 w) 4) u := by
    unfold State.windowReadBytes
    simp only [unchanged, whole]
    rfl
  unfold physRead
  cases hr : s.region pa with
  | device d => exact composed _
  | collab k => exact composed _
  | rdram | openBus | cart | pifRom | pifRam => rw [hr] at window; cases window

theorem physWrite_word {pa : Word} (window : (s.region pa).isWindow = true) (v : DWord) :
    physWrite true pa (wholeBytes 4 v) s = s.windowWrite (s.region pa) pa (low32 v) := by
  unfold physWrite
  cases hr : s.region pa with
  | device d => simp only [wholeWord_wholeBytes]
  | collab k => simp only [wholeWord_wholeBytes]
  | rdram | openBus | cart | pifRom | pifRam => rw [hr] at window; cases window

end Sys2Proof.Machine
end

section
/-! SUPPORT. LW, SW, SWC1 and SC to the windows of devices and collaborators and to the cartridge (`60_exceptions.md` R911, `20_memory.md`
R233). -/

namespace Sys2Proof.Machine

variable {s u : State} {rt base : RegIdx} {offset : Half} {pa : Word}

theorem uncachedCost_word (s : State) (pa : Word) : s.uncachedCost pa 4 = s.cfg.costs.uncached4 := by
  unfold State.uncachedCost
  split <;> rfl

theorem addCycles_region (n : Nat) : (s.addCycles n).region pa = s.region pa := rfl

/-! ### The cartridge, a byte a call (R233) -/

theorem cartReadBytes_addCycles (pa : Word) (k n : Nat) (s : State) :
    (s.addCycles n).cartReadBytes pa k = ((s.cartReadBytes pa k).1, (s.cartReadBytes pa k).2.addCycles n) := by
  induction k generalizing pa s with
  | zero => rfl
  | succ k ih =>
    simp only [State.cartReadBytes, show (s.addCycles n).elapsed = s.elapsed from rfl, cartRead_addCycles, ih]

theorem cartWriteBytes_addCycles (pa : Word) (bs : List (Option Byte)) (n : Nat) (s : State) :
    (s.addCycles n).cartWriteBytes pa bs = (s.cartWriteBytes pa bs).addCycles n := by
  induction bs generalizing pa s with
  | nil => rfl
  | cons b bs ih =>
    cases b with
    | none => exact ih _ _
    | some b => simp only [State.cartWriteBytes, show (s.addCycles n).elapsed = s.elapsed from rfl, cartWrite_addCycles, ih]

theorem elapsed_of_changed (h : CollabChanged s u) : u.elapsed = s.elapsed := by
  obtain ⟨_, _, _, _, _, rfl⟩ := h
  rfl

theorem cartRead_elapsed (el : Int) (a : Word) (s : State) : (s.cartRead el a).2.elapsed = s.elapsed :=
  elapsed_of_changed (collabCall_changed el _ s)

theorem cartWrite_elapsed (el : Int) (a : Word) (b : Byte) (s : State) : (s.cartWrite el a b).elapsed = s.elapsed :=
  elapsed_of_changed (collabCall_changed el _ s)

/-- A word of the cartridge: four calls, lowest address first. -/
def State.cartWord (pa : Word) (s : State) : Word × State :=
  let r0 := s.cartRead s.elapsed pa
  let r1 := r0.2.cartRead s.elapsed (pa + 1#32)
  let r2 := r1.2.cartRead s.elapsed (pa + 2#32)
  let r3 := r2.2.cartRead s.elapsed (pa + 3#32)
  (r0.1 ++ r1.1 ++ r2.1 ++ r3.1, r3.2)

/-- A word to the cartridge: four calls, lowest address first. -/
def State.cartWordWrite (pa : Word) (v : DWord) (s : State) : State :=
  (((s.cartWrite s.elapsed pa (bitField v 24 8)).cartWrite s.elapsed (pa + 1#32) (bitField v 16 8)).cartWrite s.elapsed (pa + 2#32)
    (bitField v 8 8)).cartWrite s.elapsed (pa + 3#32) (bitField v 0 8)

theorem cartReadBytes_word (pa : Word) (s : State) :
    low32 (ofBytes (s.cartReadBytes pa 4).1) = (s.cartWord pa).1 ∧ (s.cartReadBytes pa 4).2 = (s.cartWord pa).2 := by
  simp only [State.cartReadBytes, State.cartWord, cartRead_elapsed, BitVec.add_assoc, BitVec.reduceAdd, and_true]
  generalize s.cartRead s.elapsed pa = r0
  generalize r0.2.cartRead s.elapsed (pa + 1#32) = r1
  generalize r1.2.cartRead s.elapsed (pa + 2#32) = r2
  generalize r2.2.cartRead s.elapsed (pa + 3#32) = r3
  exact low32_ofBytes_four fun k => [r0.1, r1.1, r2.1, r3.1].getD k 0#8

theorem cartWriteBytes_word (pa : Word) (v : DWord) (s : State) : s.cartWriteBytes pa (wholeBytes 4 v) = s.cartWordWrite pa v := by
  rw [wholeBytes_word]
  simp only [State.cartWriteBytes, State.cartWordWrite, cartWrite_elapsed, BitVec.add_assoc, BitVec.reduceAdd]

theorem cartWord_changed (pa : Word) (s : State) : CollabChanged s (s.cartWord pa).2 :=
  (((collabCall_changed _ _ _).trans (collabCall_changed _ _ _)).trans (collabCall_changed _ _ _)).trans (collabCall_changed _ _ _)

theorem cartWordWrite_changed (pa : Word) (v : DWord) (s : State) : CollabChanged s (s.cartWordWrite pa v) :=
  (((collabCall_changed _ _ _).trans (collabCall_changed _ _ _)).trans (collabCall_changed _ _ _)).trans (collabCall_changed _ _ _)

/-! ### LW -/

section
variable (allowed : s.accessible) (aligned : (effectiveAddress base offset s).toNat % 4 = 0)
  (placed : translate (effectiveAddress base offset s) .load s = .ok (pa, false) s) (unwatched : s.watchHits .load pa = false)
  (noError : busError s.cfg pa .load = false)
include allowed aligned placed unwatched noError

/-- A word that the access reads is what LW writes. -/
theorem execLw_uncached {bs : List Byte} (read : physRead pa 4 (s.addCycles s.cfg.costs.uncached4) = .ok bs u) :
    exec (.lw rt base offset) s = finishDouble rt (sext32 (low32 (ofBytes bs))) u := by
  change loadWith (sextLow 32) 4 rt base offset s = _
  rw [loadWith, memRead_uncached allowed aligned placed unwatched noError, uncachedCost_word, read]
  rfl

theorem execLw_window (window : (s.region pa).isWindow = true) {w : Word}
    (read : State.windowRead (s.region pa) pa (s.addCycles s.cfg.costs.uncached4) = .ok w u) :
    exec (.lw rt base offset) s = finishDouble rt (sext32 w) u := by
  have word : pa.toNat % 4 = 0 := by
    have := translate_mod placed
    omega
  have bytes : physRead pa 4 (s.addCycles s.cfg.costs.uncached4) = .ok (bytesOf (zext32 w) 4) u := by
    rw [physRead_window (s := s.addCycles _) window word]
    exact congrArg (Res.bind · _) read
  rw [execLw_uncached allowed aligned placed unwatched noError bytes, low32_ofBytes_word]

theorem execLw_device {d : Device} (device : s.region pa = .device d)
    (inside : s.cfg.deviceMirroring = true ∨ pa.toNat % 0x100000 / 4 < d.slots) :
    exec (.lw rt base offset) s =
      finishDouble rt (sext32 (s.slotRead s.elapsed d (pa.toNat % 0x100000 / 4 % d.slots))) (s.addCycles s.cfg.costs.uncached4) := by
  refine execLw_window allowed aligned placed unwatched noError (by rw [device]; rfl) ?_
  rw [device, windowRead_device (s := s.addCycles _) inside]
  rfl

theorem execLw_collab {k : Collaborator} (collab : s.region pa = .collab k) : exec (.lw rt base offset) s =
    finishDouble rt (sext32 (s.collabRead k pa).1) ((s.collabRead k pa).2.addCycles s.cfg.costs.uncached4) := by
  refine execLw_window allowed aligned placed unwatched noError (by rw [collab]; rfl) ?_
  rw [collab]
  simp only [State.windowRead, collabRead_addCycles]

theorem execLw_cart (cart : s.region pa = .cart) : exec (.lw rt base offset) s =
    finishDouble rt (sext32 (s.cartWord pa).1) ((s.cartWord pa).2.addCycles s.cfg.costs.uncached4) := by
  obtain ⟨word, state⟩ := cartReadBytes_word pa s
  have bytes : physRead pa 4 (s.addCycles s.cfg.costs.uncached4) =
      .ok (s.cartReadBytes pa 4).1 ((s.cartReadBytes pa 4).2.addCycles s.cfg.costs.uncached4) := by
    unfold physRead
    rw [addCycles_region, cart]
    simp only [cartReadBytes_addCycles]
  rw [execLw_uncached allowed aligned placed unwatched noError bytes, word, state]

end

/-! ### SW, SWC1 and SC -/

theorem physWrite_device {d : Device} (device : s.region pa = .device d)
    (inside : s.cfg.deviceMirroring = true ∨ pa.toNat % 0x100000 / 4 < d.slots) (v : DWord) :
    physWrite true pa (wholeBytes 4 v) (s.addCycles s.cfg.costs.uncached4) =
      (s.slotWrite s.elapsed d (pa.toNat % 0x100000 / 4 % d.slots) (low32 v)).bind fun _ u => .ok () (u.addCycles s.cfg.costs.uncached4) := by
  rw [physWrite_word (by rw [addCycles_region, device]; rfl), addCycles_region, device, State.windowWrite, State.writeReg, addCycles_cfg,
    slotIndex_some inside]
  exact slotWrite_addCycles _ _ _ _ _ _

theorem physWrite_collab {k : Collaborator} (collab : s.region pa = .collab k) (v : DWord) :
    physWrite true pa (wholeBytes 4 v) (s.addCycles s.cfg.costs.uncached4) =
      .ok () ((s.collabWrite k pa (low32 v)).addCycles s.cfg.costs.uncached4) := by
  rw [physWrite_word (by rw [addCycles_region, collab]; rfl), addCycles_region, collab, State.windowWrite, collabWrite_addCycles]

theorem physWrite_cart (cart : s.region pa = .cart) (v : DWord) :
    physWrite true pa (wholeBytes 4 v) (s.addCycles s.cfg.costs.uncached4) =
      .ok () ((s.cartWordWrite pa v).addCycles s.cfg.costs.uncached4) := by
  unfold physWrite
  rw [addCycles_region, cart, ← cartWriteBytes_word]
  exact congrArg _ (cartWriteBytes_addCycles _ _ _ _)

section
variable (allowed : s.accessible) (aligned : (effectiveAddress base offset s).toNat % 4 = 0)
  (placed : translate (effectiveAddress base offset s) .store s = .ok (pa, false) s) (unwatched : s.watchHits .store pa = false)
  (noError : busError s.cfg pa .store = false)
include allowed aligned placed unwatched noError

theorem execSw_uncached : exec (.sw rt base offset) s =
    (physWrite true pa (wholeBytes 4 (s.x rt)) (s.addCycles s.cfg.costs.uncached4)).finish fun _ u => u.done := by
  change storeWith 4 rt base offset s = _
  rw [storeWith, memWrite_uncached allowed aligned placed unwatched noError, uncachedCost_word]

theorem execSwc1_uncached (usable : s.cu 1 = true) : exec (.swc1 rt base offset) s =
    (physWrite true pa (wholeBytes 4 (zext32 (s.fgr32 rt))) (s.addCycles s.cfg.costs.uncached4)).finish fun _ u => u.done := by
  refine (withCop1_open usable).trans ?_
  rw [memWrite_uncached allowed aligned placed unwatched noError, uncachedCost_word]

theorem execSc_uncached (linked : s.llBit = true) : exec (.sc rt base offset) s =
    (physWrite true pa (wholeBytes 4 (s.x rt)) (s.addCycles s.cfg.costs.uncached4)).finish fun _ u => finishDouble rt 1#64 u := by
  change storeConditional 4 rt base offset s = _
  rw [storeConditional, memWriteConditional_uncached allowed aligned placed unwatched noError linked, uncachedCost_word]
  cases physWrite true pa (wholeBytes 4 (s.x rt)) (s.addCycles s.cfg.costs.uncached4) <;> rfl

end

/-! ### Their ends -/

theorem Answers.of_done {i : Instr} {c : Nat} (ends : exec i s = (u.addCycles c).done) (h : SameControl s u) :
    Answers i s fun t => t = { u with pc := t.pc, branchState := t.branchState, stepCycles := t.stepCycles } ∧ Completed c s t := by
  obtain ⟨t, ht, completed⟩ := done_charged h c
  exact ⟨t, ends.trans ht, completed⟩

theorem Answers.of_finishDouble {i : Instr} {v : DWord} {c : Nat} (ends : exec i s = finishDouble rt v (u.addCycles c))
    (h : SameControl s u) :
    Answers i s fun t => t = { u with gpr := t.gpr, pc := t.pc, branchState := t.branchState, stepCycles := t.stepCycles }
      ∧ GprSet rt v s t ∧ Completed c s t := by
  obtain ⟨t, ht, completed⟩ := finishDouble_charged h rt v c
  exact ⟨t, ends.trans ht, completed⟩

/-- A load that changes nothing but its register and the cycles. -/
theorem Answers.of_load {i : Instr} {v : DWord} {c : Nat} (ends : exec i s = finishDouble rt v (s.addCycles c)) :
    Answers i s fun t => GprSet rt v s t ∧ SameHiLo s t ∧ SameSystem s t ∧ SameFpu s t ∧ SameMemory s t ∧ SamePlatform s t
      ∧ Completed c s t := by
  obtain ⟨t, ht, wrote⟩ := finishDouble_answers rt v (s.addCycles c)
  have unchanged : SameControl s s := ⟨rfl, rfl, rfl, rfl, rfl, rfl⟩
  exact ⟨t, ends.trans ht, wrote.gpr, wrote.hiLo, wrote.system, wrote.rest.fpu, wrote.rest.memory,
    wrote.rest.platform.trans (by constructor <;> rfl), unchanged.charged wrote.rest.completed⟩

end Sys2Proof.Machine
end

section
/-! SUPPORT. The registers of the devices (`60_exceptions.md` R920 to R965): what a write that stores leaves in each slot, and what the
composed slots read. -/

namespace Sys2Proof.Machine

variable {s : State} {el : Int} {v : Word}

/-! ### Register arrays -/

theorem slotGet_set_self {n : Nat} (r : Vector Word n) {i : Nat} (h : i < n) (w : Word) : slotGet (r.setIfInBounds i w) i = w := by
  simp [slotGet, h]

theorem slotGet_set_other {n : Nat} (r : Vector Word n) {i j : Nat} (h : j ≠ i) (w : Word) :
    slotGet (r.setIfInBounds i w) j = slotGet r j := by
  rw [slotGet, slotGet, Vector.getElem?_setIfInBounds_ne h.symm]

/-! ### VI (R930) -/

/-- What VI's slots read, in their order. -/
def State.viSlots (s : State) : List Word :=
  [s.vi.ctrl, s.vi.origin, s.vi.width, s.vi.vIntr, s.vi.vCurrent.setWidth 32, s.vi.burst, s.vi.vSync, s.vi.hSync, s.vi.hSyncLeap, s.vi.hVideo,
    s.vi.vVideo, s.vi.vBurst, s.vi.xScale, s.vi.yScale]

theorem viRead_eq_slots (j : Nat) (s : State) : s.viRead j = s.viSlots.getD j 0#32 := by
  by_cases hj : j < 14
  · interval_cases j <;> rfl
  · have beyond : s.viSlots.length ≤ j := by simpa [State.viSlots] using hj
    rw [List.getD_eq_default _ _ beyond]
    unfold State.viRead
    split
    case h_15 => simp [slotGet, hj]
    all_goals exact absurd (by decide) hj

/-- The VI registers but VI_V_CURRENT store under their masks. -/
theorem viWrite_stores {p : Nat × Word}
    (hp : p ∈ [(0, 0x0001FFFF#32), (1, 0x00FFFFFF#32), (2, 0x00000FFF#32), (3, 0x000003FF#32), (5, 0x3FFFFFFF#32), (6, 0x000003FF#32),
      (7, 0x001F0FFF#32), (8, 0x0FFF0FFF#32), (9, 0x03FF03FF#32), (10, 0x03FF03FF#32), (11, 0x03FF03FF#32), (12, 0x0FFF0FFF#32),
      (13, 0x0FFF0FFF#32)]) (s : State) :
    (s.viWrite p.1 v).viSlots = s.viSlots.set p.1 (v &&& p.2) ∧ (s.viWrite p.1 v).mi = s.mi ∧ p.1 < 14 := by
  fin_cases hp <;> exact ⟨rfl, rfl, by decide⟩

theorem viSlots_raw (s : State) (r : Vector Word 14) : ({ s with vi := { s.vi with raw := r } } : State).viSlots = s.viSlots := rfl

/-! ### PI (R950) -/

/-- A BSD_DOM register stores under its mask. -/
theorem piWrite_domain {k : Nat} (hk : k < 8) (v : Word) (s : State) : ∃ u, s.slotWrite el .pi (k + 5) v = .ok () u
    ∧ u.slotRead el .pi (k + 5) = v &&& piDomainMask k ∧ u.mi = s.mi
    ∧ ∀ j, j ≠ k + 5 → u.slotRead el .pi j = s.slotRead el .pi j := by
  refine ⟨_, rfl, slotGet_set_self _ hk _, rfl, fun j hj => ?_⟩
  by_cases low : j < 5
  · interval_cases j <;> rfl
  · obtain ⟨m, rfl⟩ := Nat.exists_eq_add_of_le' (Nat.le_of_not_lt low)
    exact slotGet_set_other s.pi.domain (by omega) _

/-- PI_DRAM_ADDR and PI_CART_ADDR store under their masks. -/
theorem piWrite_address {p : Nat × Word} (hp : p ∈ [(0, 0x00FFFFFE#32), (1, 0xFFFFFFFE#32)]) (v : Word) (s : State) :
    ∃ u, s.slotWrite el .pi p.1 v = .ok () u ∧ u.slotRead el .pi p.1 = v &&& p.2 ∧ u.mi = s.mi
      ∧ ∀ j, j ≠ p.1 → u.slotRead el .pi j = s.slotRead el .pi j := by
  fin_cases hp
  · refine ⟨_, rfl, rfl, rfl, fun j hj => ?_⟩
    change State.piRead j _ = State.piRead j s
    unfold State.piRead
    split
    case h_1 => exact absurd rfl hj
    all_goals rfl
  · refine ⟨_, rfl, rfl, rfl, fun j hj => ?_⟩
    change State.piRead j _ = State.piRead j s
    unfold State.piRead
    split
    case h_2 => exact absurd rfl hj
    all_goals rfl

/-! ### SI (R965) -/

theorem siRead_of_stored {s u : State} {i j : Nat} (raw : u.si.raw = s.si.raw.setIfInBounds i v) (dram : u.si.dram = s.si.dram)
    (other : j ≠ i) (status : j = 6 → u.siStatus = s.siStatus) : u.siRead j = s.siRead j := by
  unfold State.siRead
  split
  case h_1 => exact dram
  case h_2 => exact status rfl
  case h_3 => rw [raw, slotGet_set_other _ other]

/-- SI_DRAM_ADDR stores under its mask. -/
theorem siWrite_dram (v : Word) (s : State) : ∃ u, s.slotWrite el .si 0 v = .ok () u ∧ u.slotRead el .si 0 = v &&& 0x00FFFFFF#32
    ∧ u.mi = s.mi ∧ ∀ j, j ≠ 0 → u.slotRead el .si j = s.slotRead el .si j := by
  refine ⟨_, rfl, rfl, rfl, fun j hj => ?_⟩
  change State.siRead j _ = State.siRead j s
  unfold State.siRead
  split
  case h_1 => exact absurd rfl hj
  case h_2 => rfl
  case h_3 => exact slotGet_set_other s.si.raw hj v

/-- The slots without a behaviour of their own store what is written. -/
theorem siWrite_raw {i : Nat} (hi : i ∈ [2, 3, 5]) (v : Word) (s : State) : ∃ u, s.slotWrite el .si i v = .ok () u
    ∧ u.slotRead el .si i = v &&& 0xFFFFFFFF#32 ∧ u.mi = s.mi ∧ ∀ j, j ≠ i → u.slotRead el .si j = s.slotRead el .si j := by
  have stored : s.slotWrite el .si i v = .ok () { s with si := { s.si with raw := s.si.raw.setIfInBounds i v } } := by
    fin_cases hi <;> rfl
  refine ⟨_, stored, ?_, rfl, fun j hj => siRead_of_stored rfl rfl hj fun _ => rfl⟩
  have inside : i < 7 := by fin_cases hi <;> decide
  rw [show 0xFFFFFFFF#32 = BitVec.allOnes 32 from rfl, BitVec.and_allOnes]
  fin_cases hi <;> exact slotGet_set_self s.si.raw inside v

/-- The slots that request a transfer store what is written, where the request is not refused. -/
theorem siWrite_request {i : Nat} (hi : i ∈ [1, 4]) {u : State} (written : s.slotWrite el .si i v = .ok () u) :
    u.slotRead el .si i = v ∧ ∀ j, j ≠ i → j ≠ 6 → u.slotRead el .si j = s.slotRead el .si j := by
  have stored : u.si.raw = s.si.raw.setIfInBounds i v ∧ u.si.dram = s.si.dram := by
    fin_cases hi <;> exact siRequest_stored written
  obtain ⟨raw, dram⟩ := stored
  refine ⟨?_, fun j hj status => siRead_of_stored raw dram hj fun h => absurd h status⟩
  have read : u.slotRead el .si i = slotGet u.si.raw i := by fin_cases hi <;> rfl
  have inside : i < 7 := by fin_cases hi <;> decide
  rw [read, raw, slotGet_set_self _ inside]

/-! ### MI (R920) -/

theorem miModeWrite_mi (v : Word) (s : State) : (s.miModeWrite v).mi = { s.mi with
    initLength := bitField v 0 7
    initMode := bit v 8 || (s.mi.initMode && !bit v 7)
    ebusTest := bit v 10 || (s.mi.ebusTest && !bit v 9)
    rdramReg := bit v 13 || (s.mi.rdramReg && !bit v 12)
    intr := if bit v 11 = true then setBit s.mi.intr 5 false else s.mi.intr } := by
  unfold State.miModeWrite
  cases bit v 11 <;> rfl

theorem bit_maskCommand (v : Word) {k : Nat} (hk : k < 6) (m : BitVec 6) (j : Nat) : bit (maskCommand v k m) j =
    if j = k then bit v (2 * k + 1) || (bit m k && !bit v (2 * k)) else bit m j := by
  unfold maskCommand
  by_cases hj : j = k
  · subst hj
    cases bit v (2 * j) <;> cases bit v (2 * j + 1) <;> simp [bit_setBit_self hk]
  · have other (m : BitVec 6) (b : Bool) : bit (setBit m k b) j = bit m j := by simp [bit, getLsbD_setBit, hj]
    cases bit v (2 * k) <;> cases bit v (2 * k + 1) <;> simp [other, hj]

/-- Each source of MI_MASK by its pair of bits, set winning. -/
theorem bit_maskWrite (v : Word) (m : BitVec 6) (k : Fin 6) :
    bit (maskWrite v m) k.val = (bit v (2 * k.val + 1) || (bit m k.val && !bit v (2 * k.val))) := by
  have pair {k : Nat} (hk : k < 6) := bit_maskCommand v hk
  unfold maskWrite
  simp only [pair (show 0 < 6 by decide), pair (show 1 < 6 by decide), pair (show 2 < 6 by decide), pair (show 3 < 6 by decide),
    pair (show 4 < 6 by decide), pair (show 5 < 6 by decide)]
  fin_cases k <;> rfl

/-! ### The composed slots -/

theorem toNat_or_flag {w : Word} {k : Nat} (hw : w.toNat < 2 ^ k) (hk : k < 32) (b : Bool) :
    (w ||| (boolBit 32 b <<< k)).toNat = w.toNat + b.toNat * 2 ^ k := by
  have flag : (boolBit 32 b <<< k).toNat = 2 ^ k * b.toNat := by
    have : 2 ^ k < 2 ^ 32 := Nat.pow_lt_pow_right (by decide) hk
    cases b
    · simp [boolBit]
    · simp only [boolBit, if_true, BitVec.toNat_shiftLeft, BitVec.toNat_ofNat, Nat.shiftLeft_eq, Bool.toNat_true]
      rw [Nat.mod_eq_of_lt (by omega)]
      omega
  rw [BitVec.toNat_or, flag, Nat.or_comm, ← Nat.two_pow_add_eq_or_of_lt hw, Nat.mul_comm, Nat.add_comm]

theorem toNat_boolBit (b : Bool) : (boolBit 32 b).toNat = b.toNat := by cases b <;> rfl

theorem toNat_mode (m : Mi) :
    m.mode.toNat = m.initLength.toNat + m.initMode.toNat * 2 ^ 7 + m.ebusTest.toNat * 2 ^ 8 + m.rdramReg.toNat * 2 ^ 9 := by
  have length := m.initLength.isLt
  have mode := Bool.toNat_le m.initMode
  have test := Bool.toNat_le m.ebusTest
  have h0 : (m.initLength.setWidth 32).toNat = m.initLength.toNat := BitVec.toNat_setWidth_of_le (by decide)
  have h7 := toNat_or_flag (w := m.initLength.setWidth 32) (k := 7) (by omega) (by decide) m.initMode
  have h8 := toNat_or_flag (k := 8) (w := m.initLength.setWidth 32 ||| boolBit 32 m.initMode <<< 7) (by omega) (by decide) m.ebusTest
  have h9 := toNat_or_flag (k := 9) (w := m.initLength.setWidth 32 ||| boolBit 32 m.initMode <<< 7 ||| boolBit 32 m.ebusTest <<< 8)
    (by omega) (by decide) m.rdramReg
  unfold Mi.mode
  omega

theorem toNat_piStatus (s : State) : s.piStatus.toNat = s.pi.cur.isSome.toNat + (bit s.mi.intr 4).toNat * 2 ^ 3 := by
  have busy := Bool.toNat_le s.pi.cur.isSome
  rw [State.piStatus, toNat_or_flag (by rw [toNat_boolBit]; omega) (by decide), toNat_boolBit]

theorem toNat_siStatus (s : State) : s.siStatus.toNat = s.si.cur.isSome.toNat + (bit s.mi.intr 1).toNat * 2 ^ 12 := by
  have busy := Bool.toNat_le s.si.cur.isSome
  rw [State.siStatus, toNat_or_flag (by rw [toNat_boolBit]; omega) (by decide), toNat_boolBit]

theorem toNat_aiStatus (a : Ai) :
    a.status.toNat = 0x01100000 + a.cur.isSome.toNat * 2 ^ 30 + a.next.isSome.toNat * (2 ^ 31 + 1) := by
  unfold Ai.status
  cases a.next.isSome <;> cases a.cur.isSome <;> rfl

/-- AI_LEN: the rest of the transfer in proportion to its time (R943). -/
theorem toNat_aiRemaining {q : AiRequest} {e : Event} (running : s.ai.cur = some q) (event : s.sched.find .aiDma = some e) :
    (s.aiRemaining el).toNat = q.len.toNat * (e.remaining - el).toNat / q.duration % 2 ^ 32 / 8 * 8 := by
  unfold State.aiRemaining State.aiEventRemaining
  rw [running, event]
  refine (toNat_and_window (l := 3) (h := 32) _ (by decide) (by decide)).trans ?_
  rw [BitVec.toNat_ofNat, Nat.mod_mod]
  rfl

/-! ### Raising and clearing (R908, R922) -/

theorem setBit_cleared {n : Nat} {x : BitVec n} {k : Nat} (clear : bit x k = false) (b : Bool) : setBit (setBit x k b) k false = x := by
  apply BitVec.eq_of_getLsbD_eq
  intro i hi
  by_cases hk : i = k
  · subst hk
    simp only [getLsbD_setBit, hi, and_self, if_true]
    exact clear.symm
  · simp [getLsbD_setBit, hk]

end Sys2Proof.Machine
end

section
/-! SUPPORT. The statement on the devices' registers and the accesses that reach them. -/

namespace Sys2Proof.Machine

/-- Settles O60: the accesses by where they go and how their instructions end, the registers slot by slot. -/
theorem deviceRegisters : Obligations.DeviceRegisters := by
  unfold Obligations.DeviceRegisters
  refine ⟨?device, ?windows, fun el v s => ⟨?vi, ?pi, ?ri, ?si, ?siAddress, ?aiAddress, ?aiControl, ?aiDacrate, ?aiBitrate,
    ?miMode, ?miFixed, ?miMask, ?viCurrent, ?aiStatus, ?siStatus, ?piStatus⟩,
    fun el s => ⟨?mode, rfl, ?intr, ?mask, ?halfline, ?aiLength, ?idle, ?running, ?aiReads, ⟨rfl, rfl⟩, ?piReads, ?siReads⟩,
    fun k s => ⟨rfl, ?cleared, rfl, rfl⟩, fun s => ⟨rfl, rfl, rfl, rfl, rfl, rfl, rfl, rfl⟩⟩
  case device =>
    intro rt base offset pa d s allowed aligned device inside i
    replace inside : s.cfg.deviceMirroring = true ∨ pa.toNat % 0x100000 / 4 < d.slots := inside.imp_right fun h => by omega
    refine ⟨fun placed unwatched noError => ?_, fun placed unwatched noError => ?_⟩
    · exact .of_load (execLw_device allowed aligned placed unwatched noError device inside)
    · have sw := execSw_uncached (rt := rt) allowed aligned placed unwatched noError
      have sc := execSc_uncached (rt := rt) allowed aligned placed unwatched noError
      have swc1 := execSwc1_uncached (rt := rt) allowed aligned placed unwatched noError
      rw [physWrite_device device inside] at sw sc swc1
      rw [low32_zext32] at swc1
      refine ⟨fun u stored => ?_, fun q refused => ?_, fun usable => ⟨fun u stored => ?_, fun q refused => ?_⟩⟩
      · have control := slotWrite_ok_control stored
        change s.slotWrite s.elapsed d _ _ = _ at stored
        rw [stored] at sw sc
        exact ⟨.of_done sw control, fun linked => .of_finishDouble (sc linked) control⟩
      · change s.slotWrite s.elapsed d _ _ = _ at refused
        rw [refused] at sw sc
        exact ⟨sw, sc⟩
      · have control := slotWrite_ok_control stored
        change s.slotWrite s.elapsed d _ _ = _ at stored
        rw [stored] at swc1
        exact .of_done (swc1 usable) control
      · change s.slotWrite s.elapsed d _ _ = _ at refused
        rw [refused] at swc1
        exact swc1 usable
  case windows =>
    intro rt base offset pa s allowed aligned
    refine ⟨fun placed unwatched noError => ⟨fun k collab => ?_, fun cart => ?_⟩,
      fun placed unwatched noError => ⟨fun k collab => ?_, fun cart => ?_⟩⟩
    · exact .of_finishDouble (execLw_collab allowed aligned placed unwatched noError collab) (.of_collab (collabCall_changed _ _ _))
    · exact .of_finishDouble (execLw_cart allowed aligned placed unwatched noError cart) (.of_collab (cartWord_changed pa s))
    · have sw := execSw_uncached (rt := rt) allowed aligned placed unwatched noError
      rw [physWrite_collab collab] at sw
      exact .of_done sw (.of_collab (collabCall_changed _ _ _))
    · have sw := execSw_uncached (rt := rt) allowed aligned placed unwatched noError
      rw [physWrite_cart cart] at sw
      exact .of_done sw (.of_collab (cartWordWrite_changed pa _ s))
  case vi =>
    intro p hp
    obtain ⟨slots, mi, inside⟩ := viWrite_stores (v := v) hp { s with vi := { s.vi with raw := s.vi.raw.setIfInBounds p.1 v } }
    refine ⟨_, rfl, ?_, mi, fun j hj => ?_⟩
    · refine (viRead_eq_slots _ _).trans ?_
      rw [slots, List.getD_eq_getElem?_getD, List.getElem?_set_self inside, Option.getD_some]
    · refine (viRead_eq_slots _ _).trans (Eq.trans ?_ (viRead_eq_slots _ _).symm)
      rw [slots, List.getD_eq_getElem?_getD, List.getElem?_set_ne hj.symm, List.getD_eq_getElem?_getD, viSlots_raw]
  case pi =>
    intro p hp
    rcases (List.mem_append (s := [(0, 0x00FFFFFE#32), (1, 0xFFFFFFFE#32)])).mp hp with hp | hp
    · exact piWrite_address hp v s
    · have domain {k : Nat} (hk : k < 8) := piWrite_domain (el := el) hk v s
      fin_cases hp
      · exact domain (k := 0) (by decide)
      · exact domain (k := 1) (by decide)
      · exact domain (k := 2) (by decide)
      · exact domain (k := 3) (by decide)
      · exact domain (k := 4) (by decide)
      · exact domain (k := 5) (by decide)
      · exact domain (k := 6) (by decide)
      · exact domain (k := 7) (by decide)
  case ri =>
    intro i hi
    have inside : i < 8 := by fin_cases hi <;> decide
    refine ⟨_, rfl, ?_, rfl, fun j hj => ?_⟩
    · change (if i = 6 then _ else slotGet (s.ri.raw.setIfInBounds i v) i) = _
      rw [slotGet_set_self _ inside]
    · change (if j = 6 then _ else slotGet (s.ri.raw.setIfInBounds i v) j) = _
      rw [slotGet_set_other _ hj]
      rfl
  case si =>
    intro p hp
    fin_cases hp
    · exact siWrite_dram v s
    · exact siWrite_raw (i := 2) (by decide) v s
    · exact siWrite_raw (i := 3) (by decide) v s
    · exact siWrite_raw (i := 5) (by decide) v s
  case siAddress => exact fun i hi u written => siWrite_request hi written
  case aiAddress => exact ⟨_, rfl, rfl, rfl, fun _ => rfl⟩
  case aiControl => exact ⟨_, rfl, rfl, rfl, fun _ => rfl⟩
  case aiDacrate => exact ⟨_, rfl, rfl, rfl, fun _ => rfl⟩
  case aiBitrate => exact ⟨_, rfl, rfl, rfl, fun _ => rfl⟩
  case miMode =>
    have mode := miModeWrite_mi v { s with mi := { s.mi with raw := s.mi.raw.setIfInBounds 0 v } }
    refine ⟨State.miModeWrite v _, rfl, ?_⟩
    rw [mode]
    exact ⟨rfl, rfl, rfl, rfl, rfl, rfl⟩
  case miFixed =>
    intro i hi
    fin_cases hi
    · exact ⟨_, rfl, rfl, fun j hj => by fin_cases hj <;> rfl⟩
    · exact ⟨_, rfl, rfl, fun j hj => by fin_cases hj <;> rfl⟩
  case miMask => exact ⟨_, rfl, rfl, fun j hj => by fin_cases hj <;> rfl, fun k => bit_maskWrite v s.mi.mask k⟩
  case viCurrent => exact ⟨_, rfl, rfl, rfl⟩
  case aiStatus => exact ⟨_, rfl, rfl⟩
  case siStatus => exact ⟨_, rfl, rfl⟩
  case piStatus =>
    refine ⟨_, rfl, ?_⟩
    split <;> rfl
  case mode => exact toNat_mode s.mi
  case intr => exact BitVec.toNat_setWidth_of_le (by decide)
  case mask => exact BitVec.toNat_setWidth_of_le (by decide)
  case halfline => exact BitVec.toNat_setWidth_of_le (by decide)
  case aiLength =>
    intro i hi
    fin_cases hi <;> rfl
  case idle =>
    intro idle
    change (s.aiRemaining el).toNat = 0
    unfold State.aiRemaining
    rw [idle]
    rfl
  case running => exact fun q e running event => toNat_aiRemaining running event
  case aiReads => exact toNat_aiStatus s.ai
  case piReads => exact toNat_piStatus s
  case siReads => exact toNat_siStatus s
  case cleared =>
    intro clear
    change { s.mi with intr := setBit (setBit s.mi.intr k.index true) k.index false } = s.mi
    rw [setBit_cleared clear]

end Sys2Proof.Machine
end

section
/-! SUPPORT. The cycles of a step: whatever a piece of it does, the cycles accrued do not fall and `run_cycles` stays, because a device, a
collaborator or a cache charges to the step and the step is charged at its end (`42_control.md` R500; `20_memory.md` R246;
`70_reset_and_hazards.md` R1041). One lemma for each operation, named after it with the ending `_accrues`. -/

namespace Sys2Proof.Machine

/-! ### What a piece of a step may do to the cycles -/

/-- From `s` to `t` the step has accrued cycles and charged none. -/
structure Accrued (s t : State) : Prop where
  run : t.runCycles = s.runCycles
  step : s.stepCycles ≤ t.stepCycles

variable {s t u : State}

theorem Accrued.of_eq (run : t.runCycles = s.runCycles := by simp) (step : t.stepCycles = s.stepCycles := by simp) : Accrued s t :=
  ⟨run, step.ge⟩

theorem Accrued.refl (s : State) : Accrued s s := .of_eq rfl rfl

theorem Accrued.trans (h : Accrued s t) (k : Accrued t u) : Accrued s u := ⟨k.run.trans h.run, h.step.trans k.step⟩

theorem addCycles_accrues {n : Nat} : Accrued s (s.addCycles n) := ⟨rfl, Nat.le_add_right _ _⟩

/-- A piece that accrues, and its continuation. -/
theorem Res.Ends.andThen {α β : Type} {r : Res α} {k : α → State → Res β} (hr : r.Ends (Accrued s))
    (hk : ∀ a t, (k a t).Ends (Accrued t)) : (r.bind k).Ends (Accrued s) :=
  hr.bind fun a t h => (hk a t).mono fun _ => h.trans

/-! ### Devices and collaborators (R911, R970) -/

theorem CollabChanged.accrued (h : CollabChanged s t) : Accrued s t := by
  obtain ⟨_, _, _, _, _, rfl⟩ := h
  exact .of_eq rfl rfl

theorem collabCall_accrues {el : Int} {c : CollabCall} : Accrued s (s.collabCall el c).2 := (collabCall_changed el c s).accrued

/-- What leaves the control of an instruction and the processor alone leaves both counts of cycles alone. -/
theorem Res.Ends.accrued {α : Type} {r : Res α} (control : r.Ends (SameControl s)) (processor : r.KeepsProcessor s) :
    r.Ends (Accrued s) := by
  have same {t : State} (c : SameControl s t) (p : t.processor = s.processor) : Accrued s t :=
    .of_eq (show t.processor.runCycles = s.processor.runCycles from congrArg State.runCycles p) c.cycles
  cases r with
  | ok a t => exact same control processor
  | raise e t => exact same control processor
  | refuse q => trivial

theorem readReg_accrues {el : Int} {d : Device} {pa : Word} : (s.readReg el d pa).Ends (Accrued s) := by
  unfold State.readReg
  split
  · exact .refl s
  · trivial

theorem writeReg_accrues {el : Int} {d : Device} {pa v : Word} : (s.writeReg el d pa v).Ends (Accrued s) := by
  unfold State.writeReg
  split
  · exact .accrued (slotWrite_control _ _ _) (slotWrite_processor _ _ _ _ _)
  · trivial

/-! ### The bus (R230) -/

theorem cartReadBytes_accrues {pa : Word} {n : Nat} : Accrued s (s.cartReadBytes pa n).2 := by
  induction n generalizing pa s with
  | zero => exact .refl s
  | succ n ih => exact collabCall_accrues.trans ih

theorem cartWriteBytes_accrues {pa : Word} {bs : List (Option Byte)} : Accrued s (s.cartWriteBytes pa bs) := by
  induction bs generalizing pa s with
  | nil => exact .refl s
  | cons b bs ih =>
    cases b with
    | none => exact ih
    | some b => exact collabCall_accrues.trans ih

theorem windowRead_accrues {r : Region} {pa : Word} : (s.windowRead r pa).Ends (Accrued s) := by
  unfold State.windowRead
  split
  · exact readReg_accrues
  · exact collabCall_accrues
  · exact .refl s

theorem windowWrite_accrues {r : Region} {pa v : Word} : (s.windowWrite r pa v).Ends (Accrued s) := by
  unfold State.windowWrite
  split
  · exact writeReg_accrues
  · exact collabCall_accrues
  · exact .refl s

theorem physRead_accrues {pa : Word} {n : Nat} : (physRead pa n s).Ends (Accrued s) := by
  unfold physRead
  split
  case h_5 => exact cartReadBytes_accrues
  case h_6 =>
    unfold State.windowReadBytes
    split
    · exact windowRead_accrues.andThen fun _ _ => windowRead_accrues.andThen fun _ t => .refl t
    · exact windowRead_accrues.andThen fun _ t => .refl t
  all_goals exact .refl s

theorem physWrite_accrues {whole : Bool} {pa : Word} {bs : List (Option Byte)} : (physWrite whole pa bs s).Ends (Accrued s) := by
  unfold physWrite
  split
  case h_1 | h_2 | h_3 | h_4 => exact .of_eq rfl rfl
  case h_5 => exact cartWriteBytes_accrues
  case h_6 =>
    split
    · exact windowWrite_accrues
    · trivial

theorem lineRead_accrues {pa : Word} {n : Nat} : (lineRead pa n s).Ends (Accrued s) := by
  unfold lineRead
  split
  case h_5 => exact cartReadBytes_accrues
  case h_6 => trivial
  all_goals exact .refl s

theorem lineWrite_accrues {pa : Word} {bs : List Byte} : (lineWrite pa bs s).Ends (Accrued s) := by
  unfold lineWrite
  split
  case h_1 | h_2 | h_3 | h_4 => exact .of_eq rfl rfl
  case h_5 => exact cartWriteBytes_accrues
  case h_6 => trivial

/-! ### The caches (R240 to R250, R585) -/

theorem writeBackIf_accrues {also : Bool} {pa : Word} : (writeBackIf also pa s).Ends (Accrued s) := by
  unfold writeBackIf
  split
  · exact lineWrite_accrues.andThen fun _ _ => addCycles_accrues
  · exact .refl s

theorem iFill_accrues {pa : Word} : (iFill pa s).Ends (Accrued s) := lineRead_accrues.andThen fun _ _ => ⟨rfl, Nat.le_add_right _ _⟩

theorem cachedFetch_accrues {pa : Word} : (cachedFetch pa s).Ends (Accrued s) := by
  have present : (iEnsure pa s).Ends (Accrued s) := by
    unfold iEnsure
    split
    · trivial
    · split
      · exact addCycles_accrues
      · exact iFill_accrues
  exact present.andThen fun _ t => .refl t

theorem dEnsure_accrues {pa : Word} : (dEnsure pa s).Ends (Accrued s) := by
  have filled : (dFill pa s).Ends (Accrued s) :=
    writeBackIf_accrues.andThen fun _ _ => lineRead_accrues.andThen fun _ _ => .of_eq rfl rfl
  unfold dEnsure
  split
  · trivial
  · split
    · exact addCycles_accrues
    · exact filled.andThen fun _ _ => addCycles_accrues

/-- Every operation of CACHE: a write-back, a fill, or a change of lines and TagLo alone. -/
theorem cacheOp_accrues {op : BitVec 5} {pa : Word} : (cacheOp op pa s).Ends (Accrued s) := by
  have thenLine {also : Bool} {k : State → State} (hk : ∀ t, Accrued t (k t)) :
      ((writeBackIf also pa s).bind fun _ t => .ok () (k t)).Ends (Accrued s) := writeBackIf_accrues.andThen fun _ t => hk t
  unfold cacheOp
  split
  case h_1 | h_3 | h_4 | h_5 | h_6 => exact .of_eq rfl rfl
  case h_2 | h_7 => exact thenLine fun _ => .of_eq rfl rfl
  case h_8 =>
    change Accrued s (iHitInvalidate pa s)
    unfold iHitInvalidate
    split <;> exact .of_eq rfl rfl
  case h_9 =>
    change Accrued s (dHitInvalidate pa s)
    unfold dHitInvalidate
    split <;> exact .of_eq rfl rfl
  case h_10 => exact iFill_accrues
  case h_11 =>
    unfold dHitWriteBackInvalidate
    split
    · exact thenLine fun _ => .of_eq rfl rfl
    · exact .refl s
  case h_12 =>
    unfold iHitWriteBack
    split
    · exact lineWrite_accrues.andThen fun _ _ => addCycles_accrues
    · exact .refl s
  case h_13 =>
    unfold dHitWriteBack
    split
    · exact thenLine fun _ => .of_eq rfl rfl
    · exact .refl s
  case h_14 => exact .refl s

/-! ### Accesses (R503, R550, R551, R580) -/

theorem uncachedLoad_accrues {pa : Word} {n : Nat} : (uncachedLoad pa n s).Ends (Accrued s) :=
  physRead_accrues.mono fun _ => addCycles_accrues.trans

theorem loadAt_accrues {pa : Word} {c : Bool} {n : Nat} : (loadAt pa c n s).Ends (Accrued s) := by
  refine (dataChecks_ends (.refl s)).andThen fun _ _ => ?_
  split
  · exact dEnsure_accrues.andThen fun _ t => .refl t
  · exact uncachedLoad_accrues

theorem storeAt_accrues {whole : Bool} {pa : Word} {c : Bool} {bs : List (Option Byte)} :
    (storeAt whole pa c bs s).Ends (Accrued s) := by
  refine (dataChecks_ends (.refl s)).andThen fun _ _ => ?_
  split
  · exact dEnsure_accrues.andThen fun _ _ => .of_eq rfl rfl
  · exact physWrite_accrues.mono fun _ => addCycles_accrues.trans

theorem memReadPa_accrues {a : DWord} {n : Nat} : (memReadPa a n s).Ends (Accrued s) :=
  (locate_ends (.refl s)).andThen fun _ _ => loadAt_accrues.andThen fun _ t => .refl t

theorem memRead_accrues {a : DWord} {n : Nat} : (memRead a n s).Ends (Accrued s) := memReadPa_accrues.andThen fun _ t => .refl t

theorem memWrite_accrues {a : DWord} {n : Nat} {v : DWord} : (memWrite a n v s).Ends (Accrued s) :=
  (locate_ends (.refl s)).andThen fun _ _ => storeAt_accrues

theorem memWriteMasked_accrues {a : DWord} {n : Nat} {v m : DWord} : (memWriteMasked a n v m s).Ends (Accrued s) :=
  (locate_ends (.refl s)).andThen fun _ _ => storeAt_accrues

theorem memWriteConditional_accrues {a : DWord} {n : Nat} {v : DWord} : (memWriteConditional a n v s).Ends (Accrued s) := by
  refine (locate_ends (.refl s)).andThen fun _ t => ?_
  split
  · exact storeAt_accrues.andThen fun _ t => .refl t
  · exact .refl t

theorem fetchWord_accrues {pc : DWord} : (fetchWord pc s).Ends (Accrued s) := by
  refine (locateFetch_ends (.refl s)).andThen fun p t => ?_
  split
  · exact .refl t
  · refine Res.Ends.andThen ?_ fun _ t => .refl t
    split
    · exact cachedFetch_accrues
    · exact uncachedLoad_accrues

end Sys2Proof.Machine
end

section
/-! SUPPORT. What a step of the CPU charges: an instruction and a taken exception keep the cycles accrued before them, a word that
completes accrues EXTRA_CYCLES, by default a table over its fields, and the end of the step charges them (`42_control.md` R500;
`10_state.md` R115; `70_reset_and_hazards.md` R1040, R1041). -/

namespace Sys2Proof.Machine

variable {s t : State}

/-! ### What instructions are made of -/

theorem Result.Ends.mono {P Q : State → Prop} {r : Result} (h : Result.Ends P r) (hPQ : ∀ t, P t → Q t) : Result.Ends Q r := by
  cases r with
  | next t => exact hPQ t h
  | fault e => trivial
  | refused q => trivial

theorem takeException_accrues {e : Exc} (h : Accrued s t) : Accrued s (takeException e t) := h.trans .of_eq

/-- A piece that accrues, and how the instruction ends after it. -/
theorem Res.Ends.finishAccrued {α : Type} {r : Res α} {k : α → State → Result} (hr : r.Ends (Accrued s))
    (hk : ∀ a t, Result.Ends (Accrued t) (k a t)) : Result.Ends (Accrued s) (r.finish k) := by
  cases r with
  | ok a t => exact (hk a t).mono fun _ => Accrued.trans hr
  | raise e t => exact takeException_accrues hr
  | refuse q => trivial

theorem withCop_accrues {n : BitVec 2} {k : State → Result} (hk : ∀ t, Result.Ends (Accrued t) (k t)) :
    Result.Ends (Accrued s) (withCop n k s) := (checkCop_ends (.refl s)).finishAccrued fun _ => hk

theorem with64_accrues {k : State → Result} (hk : ∀ t, Result.Ends (Accrued t) (k t)) :
    Result.Ends (Accrued s) (with64 k s) := (require64_ends (.refl s)).finishAccrued fun _ => hk

theorem done_accrues (h : Accrued s t) : Result.Ends (Accrued s) t.done := h.trans .of_eq

theorem setX_accrues {r : RegIdx} {v : DWord} : Accrued s (s.setX r v) := .of_eq

theorem finishWord_accrues {rd : RegIdx} {v : Word} : Result.Ends (Accrued s) (finishWord rd v s) := done_accrues setX_accrues

theorem finishDouble_accrues {rd : RegIdx} {v : DWord} : Result.Ends (Accrued s) (finishDouble rd v s) := done_accrues setX_accrues

theorem finishHiLo_accrues {hi lo : DWord} : Result.Ends (Accrued s) (finishHiLo hi lo s) := done_accrues (.of_eq rfl rfl)

theorem finishTrappingWord_accrues {rd : RegIdx} {i : Int} : Result.Ends (Accrued s) (finishTrappingWord rd i s) := by
  unfold finishTrappingWord
  split
  · exact takeException_accrues (.refl s)
  · exact finishWord_accrues

theorem finishTrappingDouble_accrues {rd : RegIdx} {i : Int} : Result.Ends (Accrued s) (finishTrappingDouble rd i s) := by
  unfold finishTrappingDouble
  split
  · exact takeException_accrues (.refl s)
  · exact finishDouble_accrues

theorem trapIf_accrues {c : Bool} : Result.Ends (Accrued s) (trapIf c s) := by
  unfold trapIf
  split
  · exact takeException_accrues (.refl s)
  · exact done_accrues (.refl s)

theorem branch_accrues {c : Bool} {target : DWord} (h : Accrued s t) : Result.Ends (Accrued s) (t.branch c target) := by
  unfold State.branch
  split
  · refine h.trans (.of_eq ?_ ?_) <;> cases c <;> simp
  · exact h.trans .of_eq

theorem branchLikely_accrues {c : Bool} {target : DWord} (h : Accrued s t) : Result.Ends (Accrued s) (t.branchLikely c target) := by
  unfold State.branchLikely
  split
  · refine h.trans (.of_eq ?_ ?_) <;> cases c <;> simp
  · exact h.trans .of_eq

theorem loadWith_accrues {ext : DWord → DWord} {n : Nat} {rt base : RegIdx} {offset : Half} :
    Result.Ends (Accrued s) (loadWith ext n rt base offset s) := memRead_accrues.finishAccrued fun _ _ => finishDouble_accrues

theorem storeWith_accrues {n : Nat} {rt base : RegIdx} {offset : Half} :
    Result.Ends (Accrued s) (storeWith n rt base offset s) := memWrite_accrues.finishAccrued fun _ t => done_accrues (.refl t)

theorem loadMerge_accrues {merge : Nat → DWord → DWord → DWord} {n : Nat} {rt base : RegIdx} {offset : Half} :
    Result.Ends (Accrued s) (loadMerge merge n rt base offset s) :=
  (memRead_accrues.withAddress _).finishAccrued fun _ _ => finishDouble_accrues

theorem storeMasked_accrues {place : Nat → DWord → DWord × DWord} {n : Nat} {rt base : RegIdx} {offset : Half} :
    Result.Ends (Accrued s) (storeMasked place n rt base offset s) :=
  (memWriteMasked_accrues.withAddress _).finishAccrued fun _ t => done_accrues (.refl t)

theorem loadLinked_accrues {ext : DWord → DWord} {n : Nat} {rt base : RegIdx} {offset : Half} :
    Result.Ends (Accrued s) (loadLinked ext n rt base offset s) :=
  memReadPa_accrues.finishAccrued fun _ _ => done_accrues .of_eq

theorem storeConditional_accrues {n : Nat} {rt base : RegIdx} {offset : Half} :
    Result.Ends (Accrued s) (storeConditional n rt base offset s) :=
  memWriteConditional_accrues.finishAccrued fun _ _ => finishDouble_accrues

theorem execCache_accrues {op : BitVec 5} {base : RegIdx} {offset : Half} :
    Result.Ends (Accrued s) (execCache op base offset s) :=
  (checkCop_ends (.refl s)).finishAccrued fun _ t => (translate_ends (.refl t)).finishAccrued fun _ _ =>
    cacheOp_accrues.finishAccrued fun _ t => done_accrues (.refl t)

theorem fpUnimplementedTrap_accrues : Accrued s (fpUnimplementedTrap s) := takeException_accrues (.of_eq rfl rfl)

theorem fpArith_accrues {o : FpOutcome} {dst : FpFmt} {fd : RegIdx} : Result.Ends (Accrued s) (fpArith o dst fd s) := by
  unfold fpArith
  split
  · exact fpUnimplementedTrap_accrues
  · split
    · exact takeException_accrues (.of_eq rfl rfl)
    · exact done_accrues .of_eq

theorem fpCompare_accrues {f : FpFmt} {cond : BitVec 4} {fs ft : RegIdx} : Result.Ends (Accrued s) (fpCompare f cond fs ft s) := by
  unfold fpCompare
  dsimp only
  split
  · exact takeException_accrues (.of_eq rfl rfl)
  · exact done_accrues (.of_eq rfl rfl)

theorem writeFcr_accrues {n : RegIdx} {v : Word} : Result.Ends (Accrued s) (writeFcr n v s) := by
  unfold writeFcr
  dsimp only
  split
  · split
    · exact takeException_accrues (.of_eq rfl rfl)
    · exact done_accrues (.of_eq rfl rfl)
  · exact done_accrues (.refl s)

/-! ### Instructions and the body of a step -/

/-- Every instruction, by the shared operation it ends in. -/
theorem exec_accrues {i : Instr} : Result.Ends (Accrued s) (exec i s) := by
  cases i
  case add | sub | addi => exact finishTrappingWord_accrues
  case addu | subu | addiu | lui | sll | srl | sra | sllv | srlv | srav => exact finishWord_accrues
  case dadd | dsub | daddi => exact with64_accrues fun _ => finishTrappingDouble_accrues
  case daddu | dsubu | daddiu | dsll | dsrl | dsra | dsll32 | dsrl32 | dsra32 | dsllv | dsrlv | dsrav =>
    exact with64_accrues fun _ => finishDouble_accrues
  case and | or | xor | nor | andi | ori | xori | slt | sltu | slti | sltiu | mfhi | mflo => exact finishDouble_accrues
  case mult | multu | div | divu | mthi | mtlo => exact finishHiLo_accrues
  case dmult | dmultu | ddiv | ddivu => exact with64_accrues fun _ => finishHiLo_accrues
  case j | jr | beq | bne | blez | bgtz | bltz | bgez => exact branch_accrues (.refl s)
  case jal | jalr | bltzal | bgezal => exact branch_accrues setX_accrues
  case beql | bnel | blezl | bgtzl | bltzl | bgezl => exact branchLikely_accrues (.refl s)
  case bltzall | bgezall => exact branchLikely_accrues setX_accrues
  case lb | lbu | lh | lhu | lw => exact loadWith_accrues
  case lwu | ld => exact with64_accrues fun _ => loadWith_accrues
  case sb | sh | sw => exact storeWith_accrues
  case sd => exact with64_accrues fun _ => storeWith_accrues
  case lwl | lwr => exact loadMerge_accrues
  case ldl | ldr => exact with64_accrues fun _ => loadMerge_accrues
  case swl | swr => exact storeMasked_accrues
  case sdl | sdr => exact with64_accrues fun _ => storeMasked_accrues
  case ll => exact loadLinked_accrues
  case lld => exact with64_accrues fun _ => loadLinked_accrues
  case sc => exact storeConditional_accrues
  case scd => exact with64_accrues fun _ => storeConditional_accrues
  case sync => exact done_accrues (.refl s)
  case cache => exact execCache_accrues
  case syscall | brk => exact takeException_accrues (.refl s)
  case tge | tgeu | tlt | tltu | teq | tne | tgei | tgeiu | tlti | tltiu | teqi | tnei => exact trapIf_accrues
  case mfc0 | mfc1 | cfc1 => exact withCop_accrues fun _ => finishWord_accrues
  case dmfc0 | dmfc1 => exact withCop_accrues fun _ => with64_accrues fun _ => finishDouble_accrues
  case mtc0 => exact withCop_accrues fun _ => done_accrues .of_eq
  case dmtc0 => exact withCop_accrues fun _ => with64_accrues fun _ => done_accrues .of_eq
  case tlbr | tlbwi | tlbwr | tlbp => exact withCop_accrues fun _ => done_accrues (.of_eq rfl rfl)
  case eret => exact withCop_accrues fun _ => .of_eq
  case lwc1 | ldc1 => exact withCop_accrues fun _ => memRead_accrues.finishAccrued fun _ _ => done_accrues .of_eq
  case swc1 | sdc1 => exact withCop_accrues fun _ => memWrite_accrues.finishAccrued fun _ t => done_accrues (.refl t)
  case mtc1 => exact withCop_accrues fun _ => done_accrues .of_eq
  case dmtc1 => exact withCop_accrues fun _ => with64_accrues fun _ => done_accrues .of_eq
  case ctc1 => exact withCop_accrues fun _ => writeFcr_accrues
  case bc1f | bc1t => exact withCop_accrues fun t => branch_accrues (.refl t)
  case bc1fl | bc1tl => exact withCop_accrues fun t => branchLikely_accrues (.refl t)
  case movS | movD => exact withCop_accrues fun _ => done_accrues .of_eq
  case cop2 | lwc2 | ldc2 | swc2 | sdc2 => exact withCop_accrues fun t => takeException_accrues (.refl t)
  case addS | addD | subS | subD | mulS | mulD | divS | divD | sqrtS | sqrtD | absS | absD | negS | negD | roundLS | roundLD
      | truncLS | truncLD | ceilLS | ceilLD | floorLS | floorLD | roundWS | roundWD | truncWS | truncWD | ceilWS | ceilWD
      | floorWS | floorWD | cvtSD | cvtSW | cvtSL | cvtDS | cvtDW | cvtDL | cvtWS | cvtWD | cvtLS | cvtLD =>
    exact withCop_accrues fun _ => fpArith_accrues
  all_goals exact withCop_accrues fun _ => fpCompare_accrues

theorem execReserved_accrues {r : Reject} : Result.Ends (Accrued s) (execReserved r s) := by
  cases r with
  | reservedMajor | reservedSpecial | reservedRegimm => exact takeException_accrues (.refl s)
  | reservedCop0 | reservedCop1 => exact withCop_accrues fun t => takeException_accrues (.refl t)
  | unimplementedCop1 => exact withCop_accrues fun _ => fpUnimplementedTrap_accrues

theorem chargeExtra_accrues {w : Word} : Accrued s (s.chargeExtra w) := by
  unfold State.chargeExtra
  split
  · exact .refl s
  · exact addCycles_accrues

theorem executeWord_accrues {w : Word} : Result.Ends (Accrued s) (executeWord w s) := by
  have charged {r : Result} (hr : Result.Ends (Accrued s) r) : Result.Ends (Accrued s) (onNext (State.chargeExtra w) r) := by
    cases r with
    | next t => exact Accrued.trans hr chargeExtra_accrues
    | fault e => trivial
    | refused q => trivial
  refine charged ?_
  split
  · exact exec_accrues
  · exact execReserved_accrues

theorem stepBody_accrues : Result.Ends (Accrued s) (stepBody s) := by
  unfold stepBody
  split
  · exact takeException_accrues (.refl s)
  · exact fetchWord_accrues.finishAccrued fun _ _ => executeWord_accrues

/-! ### UpdateRandom (R115) -/

theorem nextRandom_of_eq {random wired : Word} (h : random = wired) : nextRandom random wired = 31#32 := if_pos h

theorem toNat_nextRandom {random wired : Word} (h : random ≠ wired) :
    (nextRandom random wired).toNat = (random.toNat + 31) % 32 := by
  rw [nextRandom, if_neg h, BitVec.toNat_and, BitVec.toNat_sub, show BitVec.toNat 31#32 = 2 ^ 5 - 1 from rfl,
    Nat.and_two_pow_sub_one_eq_mod, BitVec.toNat_ofNat]
  omega

/-! ### The default of EXTRA_CYCLES by the fields of a word (R1040) -/

/-- The extra cycles of SPECIAL, by funct: the multiplies and divides. -/
def specialExtra (funct : Nat) : Nat :=
  if funct ∈ [24, 25] then 4 else if funct ∈ [28, 29] then 7 else if funct ∈ [26, 27] then 36
  else if funct ∈ [30, 31] then 68 else 0

/-- The extra cycles of a floating-point format, by funct: all but ABS, MOV and NEG have some. -/
def fpExtra (fmt funct : Nat) : Nat :=
  if funct = 2 then (if fmt = 16 then 4 else 7) else if funct ∈ [3, 4] then (if fmt = 16 then 28 else 57)
  else if funct ∈ [5, 6, 7] then 0 else 2

/-- The default of EXTRA_CYCLES, by major opcode, fmt and funct: of COP1 only the formats have some. -/
def extraOfFields (major fmt funct : Nat) : Nat :=
  if major = 0 then specialExtra funct else if major = 17 ∧ 16 ≤ fmt then fpExtra fmt funct else 0

/-- A decoder's answer, if it is an instruction, has `n` extra cycles by default. -/
def AnswersExtra (n : Nat) : Except Reject Instr → Prop
  | .ok i => defaultExtraCycles i = n
  | .error _ => True

variable (w : Word)

theorem decodeSpecial_extra : AnswersExtra (specialExtra (field w 0 6)) (decodeSpecial w) := by
  unfold decodeSpecial
  generalize field w 0 6 = funct
  split
  case h_53 => trivial
  all_goals rfl

theorem decodeCop1S_extra : AnswersExtra (fpExtra 16 (field w 0 6)) (decodeCop1S w) := by
  unfold decodeCop1S
  generalize field w 0 6 = funct
  split
  case h_36 => trivial
  all_goals rfl

theorem decodeCop1D_extra : AnswersExtra (fpExtra 17 (field w 0 6)) (decodeCop1D w) := by
  unfold decodeCop1D
  generalize field w 0 6 = funct
  split
  case h_36 => trivial
  all_goals rfl

theorem decodeCop1W_extra : AnswersExtra (fpExtra 20 (field w 0 6)) (decodeCop1W w) := by
  unfold decodeCop1W
  generalize field w 0 6 = funct
  split
  case h_3 => trivial
  all_goals rfl

theorem decodeCop1L_extra : AnswersExtra (fpExtra 21 (field w 0 6)) (decodeCop1L w) := by
  unfold decodeCop1L
  generalize field w 0 6 = funct
  split
  case h_3 => trivial
  all_goals rfl

theorem decodeCop1_extra : AnswersExtra (extraOfFields 17 (field w 21 5) (field w 0 6)) (decodeCop1 w) := by
  unfold decodeCop1
  generalize field w 21 5 = fmt
  split
  case h_7 => unfold decodeBc1; split <;> rfl
  case h_8 => exact decodeCop1S_extra w
  case h_9 => exact decodeCop1D_extra w
  case h_10 => exact decodeCop1W_extra w
  case h_11 => exact decodeCop1L_extra w
  case h_12 => trivial
  all_goals rfl

theorem decodeRegimm_extra : AnswersExtra 0 (decodeRegimm w) := by
  unfold decodeRegimm
  split
  case h_15 => trivial
  all_goals rfl

theorem decodeCo_extra : AnswersExtra 0 (decodeCo w) := by
  unfold decodeCo
  split
  case h_6 => trivial
  all_goals rfl

theorem decodeCop0Move_extra : AnswersExtra 0 (decodeCop0Move w) := by
  unfold decodeCop0Move
  split
  case h_5 => trivial
  all_goals rfl

theorem decode_extra : AnswersExtra (extraOfFields (field w 26 6) (field w 21 5) (field w 0 6)) (decode w) := by
  unfold decode
  generalize field w 26 6 = major
  split
  case h_1 => exact decodeSpecial_extra w
  case h_2 => exact decodeRegimm_extra w
  case h_17 =>
    split
    · exact decodeCo_extra w
    · exact decodeCop0Move_extra w
  case h_18 => exact decodeCop1_extra w
  case h_58 => trivial
  all_goals rfl

/-- Settles O15: the body accrues from the one cycle a step begins with, the end of the step charges what it accrued, and EXTRA_CYCLES is by
default the table of the map that decodes the word. -/
theorem stepCharges : Obligations.StepCharges := by
  refine ⟨?_, ?_, ?_⟩
  · intro s t stepped
    obtain ⟨-, u, body, rfl⟩ := cpuStep_next stepped
    obtain ⟨run, cycles⟩ := stepBody_accrues.next body
    have start : s.atBoundary.runCycles = s.runCycles := resolveBranch_runCycles s
    refine ⟨u, body, cycles, run.trans start, ?_, rfl, rfl, rfl, rfl, nextRandom_of_eq, toNat_nextRandom⟩
    exact congrArg (· + BitVec.ofNat 64 u.stepCycles) (run.trans start)
  · intro w i s t decoded executed
    rw [executeWord_ok decoded, executed, onNext_next]
    exact ⟨fun raised => by rw [chargeExtra_raised w raised], fun completed => by rw [chargeExtra_completed w completed]⟩
  · intro c w i unnamed decoded
    have table := decode_extra w
    rw [decoded] at table
    simp only [toNat_bitField_eq_field]
    exact (extraCycles_default unnamed decoded).trans table

end Sys2Proof.Machine
end

section
/-! SUPPORT. The resets and the loader: the values of cold and soft reset, what a reset leaves alone, and the invariants at reset
(`70_reset_and_hazards.md` R1001 to R1010). -/

namespace Sys2Proof.Machine

variable {s : State}

/-! ### The values of a reset (R1001, R1002) -/

/-- With no bit stored and no line raised, Cause reads 0 (R128). -/
theorem causeView_eq_zero (cause : s.cop0.cause = 0#32) (intr : s.mi.intr = 0#6) (extIp : s.extIp = 0#4) :
    s.causeView = 0#32 := by
  simp [State.causeView, State.miLine, boolBit, cause, intr, extIp]

/-- What the two resets have in common: with ERL set the mode is Kernel whatever the interrupted state was, and KX is clear. -/
theorem coldReset_values (s : State) (powered : Bool) {status : Word} {errorEpc : DWord} (erl : bit status 2 = true)
    (kx : bit status 7 = false) :
    ResetValues status errorEpc { coldReset s with initialised := powered, cop0 := { Cop0.reset with status, errorEpc } } where
  gpr r := by simp [State.x, coldReset, State.reset]
  hiLo := ⟨rfl, rfl⟩
  pc := rfl
  branch := ⟨rfl, rfl⟩
  hidden := ⟨rfl, rfl, rfl, rfl⟩
  lines := rfl
  status := rfl
  errorEpc := rfl
  random := rfl
  config := rfl
  prId := rfl
  zeros n random status prId config errorEpc := by
    unfold readCop0
    split
    case h_2 number => exact absurd (Fin.ext number) random
    case h_12 number => exact absurd (Fin.ext number) status
    case h_15 number => exact absurd (Fin.ext number) prId
    case h_16 number => exact absurd (Fin.ext number) config
    case h_23 number => exact absurd (Fin.ext number) errorEpc
    case h_9 => exact (by decide : zext32 (bitField 0#33 1 32) = 0#64)
    case h_13 => exact congrArg zext32 (causeView_eq_zero rfl rfl rfl)
    all_goals rfl
  fpu := ⟨fun n => Vector.getElem_replicate _, rfl⟩
  tlb i := Vector.getElem_replicate _
  icache i := Vector.getElem_replicate _
  dcache i := Vector.getElem_replicate _
  mode := by
    have kernel : State.mode { coldReset s with initialised := powered, cop0 := { Cop0.reset with status, errorEpc } } = .kernel := by
      simp [State.mode, erl]
    exact ⟨kernel, by rw [State.is64, kernel]; exact kx⟩
  timer := by
    change ((Scheduler.reset s.cfg.cyclesPerHalfline).find .compareInterrupt).map Event.remaining = _
    unfold Scheduler.reset
    split <;> rfl
  halfline := by
    change ((Scheduler.reset s.cfg.cyclesPerHalfline).find .viHalfline).map Event.cyclesRemaining = _
    unfold Scheduler.reset
    split <;> rfl
  onlyThose k timer halfline := by
    change (Scheduler.reset s.cfg.cyclesPerHalfline).find k = none
    unfold Scheduler.reset Scheduler.find
    split <;> simp [timer.symm, halfline.symm]
  mi := rfl
  vi := rfl
  ai := rfl
  pi := rfl
  ri := rfl
  si := rfl
  carries := ⟨rfl, rfl, rfl, rfl⟩

theorem coldReset_frame (s : State) : ResetFrame s (coldReset s) := ⟨rfl, rfl, rfl, rfl, rfl, rfl, rfl⟩

theorem softReset_frame (s : State) : ResetFrame s (softReset s) := ⟨rfl, rfl, rfl, rfl, rfl, rfl, rfl⟩

theorem nextPc_eq (s : State) : s.nextPc = if s.branchState = .performPending then s.branchTarget else s.pc := by
  unfold State.nextPc
  split
  case h_1 pending => rw [if_pos pending]
  case h_2 other => rw [if_neg other]

/-! ### A step that takes a waiting call -/

theorem step_hostCall {c : HostCall} {rest : List HostCall} (idle : s.advancing = false) (waits : s.inputs = c :: rest) :
    step s = hostCall c { s with inputs := rest } := by
  unfold step
  rw [if_neg (by simp [idle]), waits]

theorem step_uninitialised (idle : s.advancing = false) (noCall : s.inputs = []) (unpowered : s.initialised = false) :
    step s = .refused .uninitialised := by
  rw [step_loopStep idle noCall, loopStep, if_pos (by simp [unpowered])]

/-- Settles O1: each call's step by the definition of the call, with the values of cold reset for the one that is performed. -/
theorem powerOn_answers_coldReset : Obligations.ColdReset := by
  have values (s : State) : ResetValues 0x00400004#32 0#64 (coldReset s) :=
    coldReset_values s true (by decide) (by decide)
  refine ⟨values State.reset, fun s rest image idle => ⟨?_, ?_, ?_, ?_, ?_⟩⟩
  · intro waits loaded
    refine ⟨coldReset { s with inputs := rest }, ?_, values _, rfl, coldReset_frame _⟩
    rw [step_hostCall idle waits, hostCall, powerOn, if_pos loaded]
  · intro waits notLoaded
    rw [step_hostCall idle waits, hostCall, powerOn, if_neg (by simp [notLoaded])]
  · exact step_uninitialised idle
  · intro waits size canonical
    refine ⟨_, step_hostCall idle waits, ?_⟩
    rw [loadFirmware, if_pos size]
    refine ⟨rfl, rfl, fun a => ?_⟩
    rw [read_writeBytes canonical, size]
    rfl
  · intro waits size
    refine ⟨_, step_hostCall idle waits, ?_⟩
    rw [loadFirmware, if_neg size]
    exact ⟨rfl, rfl, rfl⟩

/-- Settles O2: soft reset has the values of cold reset but for Status and ErrorEPC, which takes next_pc from before the call. -/
theorem reset_answers_softReset : Obligations.SoftReset := by
  intro s rest idle waits
  refine ⟨softReset { s with inputs := rest }, step_hostCall idle waits, softReset_frame _, ?_⟩
  rw [← nextPc_eq]
  exact coldReset_values _ s.initialised (by decide) (by decide)

/-! ### The invariants at reset -/

theorem reset_inv : State.reset.Inv where
  mem := rfl
  gpr0 := Vector.getElem_replicate _
  cop0 := cop0Reset_wf
  fcsr := BitVec.zero_and
  tlb e he := by
    have zero : e = TlbEntry.zero := by simpa [State.reset] using he
    exact zero ▸ tlbEntryZero_wf

/-- Settles O3: the events of State.reset are those of its own cold reset, whose halfline period a time holds. -/
theorem resetInvariants : Obligations.ResetInvariants :=
  ⟨reset_inv, coldReset_schedInv (s := State.reset) ⟨by decide, by decide⟩⟩

end Sys2Proof.Machine
end
